-- ==== Sys2Proof/Word.lean ====
section
/-! DEFINITION. Word types and the plain types of operand fields (R2 to R4, R11, R28, R37, R246, R254, R255).
Nothing here computes: the machine's arithmetic is in the files of Sys2Proof/Machine. -/

namespace Sys2Proof

/-- A byte (R4). -/
abbrev Byte := BitVec 8
/-- A dword, the width of every register (R4, R11). -/
abbrev Dword := BitVec 64
/-- A mask over the 32 lanes of a group (R135). -/
abbrev Mask := BitVec 32

/-- A register field of kind R (R246): z, v1 to v111 or s0 to s15. -/
inductive GReg where
  | z
  | v (n : Fin 112)
  | s (n : Fin 16)
deriving DecidableEq, Repr

/-- A register field of kind S (R246): z or s0 to s15. -/
inductive SReg where
  | z
  | s (n : Fin 16)
deriving DecidableEq, Repr

/-- The first register of an operand block, of kind V or S (R319). -/
inductive BReg where
  | v (n : Fin 112)
  | s (n : Fin 16)
deriving DecidableEq, Repr

/-- A vector register number, kind V: 1 to 111 (R246). -/
abbrev VReg := Fin 112
/-- A predicate: p0 to p13, cy = 14, pt = 15 (R11, R246). -/
abbrev PReg := Fin 16
/-- An accumulator window index, kind C (R246, R343). -/
abbrev CReg := Fin 128
/-- A queue register q0 to q15 (R246). -/
abbrev QReg := Fin 16

/-- Width codes 0b00 to 0b11 (R254). -/
inductive Width where
  | w64 | w32 | w16 | w8
deriving DecidableEq, Repr

/-- The four binary floating-point formats (R31), in the order of the majors 0x20 to 0x27 (R253). -/
inductive FpFmt where
  | fp32 | fp64 | fp16 | bf16
deriving DecidableEq, Repr

/-- Number formats, codes 0 to 12 (R28). -/
inductive NumFmt where
  | fp64 | fp32 | fp16 | bf16 | d8 | int8 | nat8 | int16 | nat16 | int32 | nat32 | int64 | nat64
deriving DecidableEq, Repr

/-- Rounding modes (R37). -/
inductive Round where
  | rn | rz | ru | rd
deriving DecidableEq, Repr

/-- ISET conditions (R254, R292). -/
inductive ICond where
  | eq | ne | lts | les | ltn | len | gts | gtn
deriving DecidableEq, Repr

/-- FSET and FSETS conditions (R254, R304). -/
inductive FCond where
  | eq | ne | lt | le | gt | ge | un | ord
deriving DecidableEq, Repr

/-- How a compare combines with the old predicate bit (R254, R292). -/
inductive Combine where
  | set | and | or | xor
deriving DecidableEq, Repr

/-- Scopes, codes 0 to 5 (R177). -/
inductive Scope where
  | grp | blk | cls | die | dev | sys
deriving DecidableEq, Repr

/-- Caching policy of LD, LDX, ST and STX (R314). -/
inductive Policy where
  | dflt | stream | l2only
deriving DecidableEq, Repr

/-- Size and extension of LD (R255, R315). -/
inductive LdSize where
  | b64 | n32 | s32
deriving DecidableEq, Repr

/-- Size and extension of LDX (R255, R315). -/
inductive LdxSize where
  | n8 | s8 | n16 | s16
deriving DecidableEq, Repr

/-- Size of ST (R255, R315). -/
inductive StSize where
  | b64 | b32
deriving DecidableEq, Repr

/-- Size of STX (R255, R315). -/
inductive StxSize where
  | b8 | b16
deriving DecidableEq, Repr

/-- Operations of ATOM and ATOMW in k order (R320). -/
inductive AtomOp where
  | add | mins | maxs | minn | maxn | and | or | xor | xchg | cas | incw
deriving DecidableEq, Repr

/-- Names a queue: a host-fed queue of a port (R96), or an endpoint slot of a context (R108). -/
inductive QRef where
  | host (port qid : Nat)
  | ep (ctx slot : Nat)
deriving DecidableEq, Repr

/-- What a request to a home slice carries (R208, R210). -/
inductive Payload where
  | none
  | bytes (data : List Byte)
  | atomic (op : AtomOp) (wide : Bool) (v c : Dword)
  | cell (image : List Byte)
deriving DecidableEq, Repr

/-- A request to the home slice (R202): key identifier, line address, start word, length in words, requester
(holder bit 0 to 42 of R203; 43 and above hold no copy) and what it carries. -/
structure CohReq where
  key : Nat
  line : Nat
  word : Nat
  len : Nat
  who : Nat
  load : Payload
deriving DecidableEq, Repr

/-- How the copy of a migration ended (R237). -/
inductive MigEnd where
  | ok | sourceError | destError
deriving DecidableEq, Repr

/-- Partition modes (R21). -/
inductive PartMode where
  | whole0 | whole1 | split
deriving DecidableEq, Repr

/-- Life-cycle states (R27). -/
inductive LifeCycle where
  | manufacture | provisioned | deployed | returned | decommissioned
deriving DecidableEq, Repr

/-- What a UALink request of another module asks for (R370). -/
inductive UaOp where
  | read (n : Nat)
  | write (data : List Byte)
  | atomic (op : AtomOp) (wide : Bool) (v c : Dword)
  | update (op : AtomOp) (wide : Bool) (v : Dword)
  | cell (image : List Byte)
deriving DecidableEq, Repr

end Sys2Proof
end

