-- ==== Sys2Proof/Syntax.lean ====
section
/-! DEFINITION. The instruction set as syntax: one constructor for every row of spec/opcode_table.json. The first 217
are instruction words (R253); the other 113 are the device's events, which have no encoding. -/

namespace Sys2Proof

/-- Every instruction and every event of the device (R253 and the opcode table). -/
inductive Instr where
  -- SYS (R271)
  | nop
  | exit
  | trap (code : Fin 128) (a : GReg)
  | rtt
  | yield
  | sleep (a : SReg)
  | nopre
  | okpre
  | mfs (d : GReg) (sel : Fin 16384)
  | mts (sel : Fin 16384) (d : GReg)
  | win (a : SReg)
  | awin (a : SReg)
  | fmtset (a b : SReg)
  | fmtget (d : GReg)
  | clock (d : GReg)
  | launch (a b : SReg)
  | record (a : SReg)
  | sigrst
  | bkpt
  -- CUE, SIGCK, STAGE (R280, R148)
  | cue (id : BitVec 16)
  | sigck (imm : BitVec 16)
  | stage (base : VReg) (mask : BitVec 19)
  -- branches, calls, loops (R281 to R284)
  | bra (p : PReg) (n : Bool) (off : BitVec 21)
  | brl (p : PReg) (n : Bool) (off : BitVec 21)
  | brd (p : PReg) (n : Bool) (off : BitVec 21)
  | join (off : BitVec 21)
  | call (off : BitVec 26)
  | jmpr (a : SReg)
  | callr (a : SReg)
  | ret
  | endj
  | loop (lc : Fin 4) (len1 : BitVec 8) (cnt : SReg)
  | loopi (lc : Fin 4) (len1 : BitVec 8) (cnt : BitVec 16)
  | gspan (p : PReg) (n : Bool) (cnt1 : Fin 16)
  -- SYNC (R163, R182)
  | fenceAcq (pd : PReg) (sc : Scope)
  | fenceRel (pd : PReg) (sc : Scope)
  | fenceAr (pd : PReg) (sc : Scope)
  | barInit (id : Fin 64) (a : SReg)
  | barArr (id : Fin 64)
  | barWait (pd : PReg) (id : Fin 64)
  | barSync (pd : PReg) (id : Fin 64)
  | cbarArr (id : Fin 64)
  | cbarWait (pd : PReg) (id : Fin 64)
  | cbarSync (pd : PReg) (id : Fin 64)
  | batch
  | bwait (pd : PReg) (a : SReg)
  | waitm (pd : PReg) (sc : Scope) (a b : SReg)
  | qfence (a : SReg)
  -- PAGE (R323)
  | pgreq (d a : GReg) (f : PReg) (la : Fin 16)
  | pgqry (d a : GReg) (f : PReg) (la : Fin 16)
  | pref (a : GReg) (f : PReg) (la : Fin 16)
  | spl (d : VReg) (a : SReg) (f : PReg) (la : Fin 16)
  | fil (d : VReg) (a : SReg) (f : PReg) (la : Fin 16)
  | mapr (d a : SReg) (f : PReg) (la : Fin 16)
  | syncr (d : SReg) (f : PReg) (la : Fin 16)
  | unmapr (d : SReg) (f : PReg) (la : Fin 16)
  | pgpin (d a : GReg) (f : PReg) (la : Fin 16)
  | pgunpin (d a : GReg) (f : PReg) (la : Fin 16)
  -- LDU (R316)
  | ldu (d a : SReg) (w32 : Bool) (f : PReg) (la : Fin 16)
  -- IA1, IA2 (R286 to R288)
  | iadd (w : Width) (d a b : GReg)
  | isub (w : Width) (d a b : GReg)
  | iaddc (w : Width) (d a b : GReg)
  | isubb (w : Width) (d a b : GReg)
  | imul (w : Width) (d a b : GReg)
  | imulhs (w : Width) (d a b : GReg)
  | imulhn (w : Width) (d a b : GReg)
  | imad (w : Width) (d a b : GReg)
  | imins (w : Width) (d a b : GReg)
  | imaxs (w : Width) (d a b : GReg)
  | iminn (w : Width) (d a b : GReg)
  | imaxn (w : Width) (d a b : GReg)
  | iabs (w : Width) (d a : GReg)
  | imadw (d a b : GReg)
  | popc (w : Width) (d a : GReg)
  | clz (w : Width) (d a : GReg)
  -- IB1, IB2 (R289 to R291)
  | andR (w : Width) (d a b : GReg)
  | orR (w : Width) (d a b : GReg)
  | xorR (w : Width) (d a b : GReg)
  | andnR (w : Width) (d a b : GReg)
  | shl (w : Width) (d a b : GReg)
  | shr (w : Width) (d a b : GReg)
  | sar (w : Width) (d a b : GReg)
  | rot (w : Width) (d a b : GReg)
  | brev (w : Width) (d a : GReg)
  | bfxs (w : Width) (d a b : GReg)
  | bfxn (w : Width) (d a b : GReg)
  | bfi (w : Width) (d a b : GReg)
  | mov (w : Width) (d a : GReg)
  | prmb (d a b : GReg)
  | iadds (w : Width) (d a b : GReg)
  | iaddn (w : Width) (d a b : GReg)
  -- ISET, PLOG (R292, R293)
  | iset (c : ICond) (cb : Combine) (w : Width) (pd : PReg) (a b : GReg)
  | pand (d a b : PReg)
  | por (d a b : PReg)
  | pxor (d a b : PReg)
  | pandn (d a b : PReg)
  | pnot (d a : PReg)
  | pmov (d a : PReg)
  -- I, W formats and LEA (R294 to R296)
  | addi (d a : GReg) (imm : BitVec 12)
  | andi (d a : GReg) (imm : BitVec 12)
  | ori (d a : GReg) (imm : BitVec 12)
  | xori (d a : GReg) (imm : BitVec 12)
  | shli (d a : GReg) (imm : BitVec 12)
  | shri (d a : GReg) (imm : BitVec 12)
  | sari (d a : GReg) (imm : BitVec 12)
  | movw (d : GReg) (slot : Fin 4) (imm : BitVec 16)
  | movk (d : GReg) (slot : Fin 4) (imm : BitVec 16)
  | lea (d a b : GReg) (sh : Fin 32)
  -- floating point (R297 to R303)
  | fadd (fm : FpFmt) (q : Bool) (d a b : GReg)
  | fsub (fm : FpFmt) (q : Bool) (d a b : GReg)
  | fmul (fm : FpFmt) (q : Bool) (d a b : GReg)
  | ffma (fm : FpFmt) (q : Bool) (d a b : GReg)
  | ffms (fm : FpFmt) (q : Bool) (d a b : GReg)
  | fnma (fm : FpFmt) (q : Bool) (d a b : GReg)
  | fmin (fm : FpFmt) (q : Bool) (d a b : GReg)
  | fmax (fm : FpFmt) (q : Bool) (d a b : GReg)
  | fabs (fm : FpFmt) (q : Bool) (d a : GReg)
  | fneg (fm : FpFmt) (q : Bool) (d a : GReg)
  | fcsgn (fm : FpFmt) (q : Bool) (d a b : GReg)
  | frndn (fm : FpFmt) (q : Bool) (d a : GReg)
  | frndz (fm : FpFmt) (q : Bool) (d a : GReg)
  | frndp (fm : FpFmt) (q : Bool) (d a : GReg)
  | frndm (fm : FpFmt) (q : Bool) (d a : GReg)
  | fclass (fm : FpFmt) (q : Bool) (d a : GReg)
  | frcp (fm : FpFmt) (q : Bool) (d a : GReg)
  | frsq (fm : FpFmt) (q : Bool) (d a : GReg)
  | fsqrt (fm : FpFmt) (q : Bool) (d a : GReg)
  | fdiv (fm : FpFmt) (q : Bool) (d a b : GReg)
  | fexp2 (fm : FpFmt) (q : Bool) (d a : GReg)
  | flog2 (fm : FpFmt) (q : Bool) (d a : GReg)
  | fscl (fm : FpFmt) (q : Bool) (d a b : GReg)
  -- compares and conversions (R304, R305)
  | fset (c : FCond) (cb : Combine) (fm : FpFmt) (pd : PReg) (a b : GReg)
  | fsets (c : FCond) (cb : Combine) (fm : FpFmt) (pd : PReg) (a b : GReg)
  | cvt (dst src : NumFmt) (rm : Option Round) (sat : Bool) (d a : GReg)
  -- QREG, ECMD (R330)
  | qpush (q : QReg) (a : Fin 16) (n1 : Fin 4)
  | qpop (d : SReg) (q : QReg)
  | qtry (d : SReg) (q : QReg)
  | qbind (q : QReg) (a : SReg)
  | qstat (d : GReg) (q : QReg)
  | qdrain (d : GReg) (q : QReg)
  | ecpy (q : QReg) (a : Fin 16) (n1 : Fin 4)
  | egath (q : QReg) (a : Fin 16) (n1 : Fin 4)
  | escat (q : QReg) (a : Fin 16) (n1 : Fin 4)
  | ercpy (q : QReg) (a : Fin 16) (n1 : Fin 4)
  | efill (q : QReg) (a : Fin 16) (n1 : Fin 4)
  | emig (q : QReg) (a : Fin 16) (n1 : Fin 4)
  -- LA (R346)
  | laclr (d : CReg) (n1 : Fin 128)
  | laadd (d : CReg) (a : GReg)
  | laadds (d : CReg) (a : GReg)
  | lasub (d : CReg) (a : GReg)
  | lamad (d : CReg) (a b : GReg)
  | lamsb (d : CReg) (a b : GReg)
  | ladot (d : CReg) (a b : GReg)
  | lamrg (d a : CReg)
  | lamov (d a : CReg)
  | laxl (d a : CReg) (b : GReg)
  | laxb (d a : CReg) (k : Fin 128)
  | lacrs (d : CReg) (n1 : Fin 128)
  | laflg (d : GReg) (a : CReg)
  | laput (d : CReg) (a : GReg) (k : Fin 128)
  | laneg (d a : CReg)
  -- LARD, MMA (R351, R356, R361)
  | larnd (d : GReg) (a : CReg) (fo : Option NumFmt) (rm : Option Round) (la : Fin 16)
  | laseg (d : GReg) (a : CReg) (k : Fin 10) (la : Fin 16)
  | mma (d : CReg) (a b : VReg) (clr : Bool) (la : Fin 16)
  -- XLN, XLI, QX, VOTE (R307 to R310)
  | xln (keep : Bool) (w : Width) (d a b : GReg)
  | xliBfly (w : Width) (d a : GReg) (lane : Fin 32) (sub : Fin 8)
  | xliBcast (w : Width) (d a : GReg) (lane : Fin 32) (sub : Fin 8)
  | xliRotup (w : Width) (d a : GReg) (lane : Fin 32) (sub : Fin 8)
  | xliRotdn (w : Width) (d a : GReg) (lane : Fin 32) (sub : Fin 8)
  | qxh (d a : GReg)
  | qxv (d a : GReg)
  | qxd (d a : GReg)
  | qbc0 (d a : GReg)
  | qbc1 (d a : GReg)
  | qbc2 (d a : GReg)
  | qbc3 (d a : GReg)
  | vany (d a : PReg)
  | vall (d a : PReg)
  | vbal (d : GReg) (a : PReg)
  | mbcnt (d a : GReg)
  | vfirst (d : GReg) (a : PReg)
  | mmas (d : CReg) (a b : VReg) (clr : Bool) (la : Fin 16)
  -- LASL, loads and stores, scratchpad (R352, R315, R317)
  | last (d : CReg) (a : GReg) (f : PReg) (la : Fin 16)
  | lald (d : CReg) (a : GReg) (f : PReg) (la : Fin 16)
  | ld (sz : LdSize) (pol : Policy) (d a : GReg) (f : PReg) (la : Fin 16)
  | ldx (sz : LdxSize) (pol : Policy) (d a : GReg) (f : PReg) (la : Fin 16)
  | st (sz : StSize) (pol : Policy) (d a : GReg) (f : PReg) (la : Fin 16)
  | stx (sz : StxSize) (pol : Policy) (d a : GReg) (f : PReg) (la : Fin 16)
  | lds (w : Width) (d a : GReg) (f : PReg) (la : Fin 16)
  | ldsc (w : Width) (d a : GReg) (f : PReg) (la : Fin 16)
  | sts (w : Width) (d a : GReg) (f : PReg) (la : Fin 16)
  | stsc (w : Width) (d a : GReg) (f : PReg) (la : Fin 16)
  -- atomics (R320, R322)
  | atomAdd (d : GReg) (a : BReg) (f : PReg) (la : Fin 16)
  | atomMins (d : GReg) (a : BReg) (f : PReg) (la : Fin 16)
  | atomMaxs (d : GReg) (a : BReg) (f : PReg) (la : Fin 16)
  | atomMinn (d : GReg) (a : BReg) (f : PReg) (la : Fin 16)
  | atomMaxn (d : GReg) (a : BReg) (f : PReg) (la : Fin 16)
  | atomAnd (d : GReg) (a : BReg) (f : PReg) (la : Fin 16)
  | atomOr (d : GReg) (a : BReg) (f : PReg) (la : Fin 16)
  | atomXor (d : GReg) (a : BReg) (f : PReg) (la : Fin 16)
  | atomXchg (d : GReg) (a : BReg) (f : PReg) (la : Fin 16)
  | atomCas (d : GReg) (a : BReg) (f : PReg) (la : Fin 16)
  | atomIncw (d : GReg) (a : BReg) (f : PReg) (la : Fin 16)
  | atomwAdd (d : GReg) (a : BReg) (f : PReg) (la : Fin 16)
  | atomwMins (d : GReg) (a : BReg) (f : PReg) (la : Fin 16)
  | atomwMaxs (d : GReg) (a : BReg) (f : PReg) (la : Fin 16)
  | atomwMinn (d : GReg) (a : BReg) (f : PReg) (la : Fin 16)
  | atomwMaxn (d : GReg) (a : BReg) (f : PReg) (la : Fin 16)
  | atomwAnd (d : GReg) (a : BReg) (f : PReg) (la : Fin 16)
  | atomwOr (d : GReg) (a : BReg) (f : PReg) (la : Fin 16)
  | atomwXor (d : GReg) (a : BReg) (f : PReg) (la : Fin 16)
  | atomwXchg (d : GReg) (a : BReg) (f : PReg) (la : Fin 16)
  | atomwCas (d : GReg) (a : BReg) (f : PReg) (la : Fin 16)
  | atomwIncw (d : GReg) (a : BReg) (f : PReg) (la : Fin 16)
  | ataccAddv (d : GReg) (a : BReg) (f : PReg) (la : Fin 16)
  | ataccAddp (d : GReg) (a : BReg) (f : PReg) (la : Fin 16)
  | ataccClr (d : GReg) (a : BReg) (f : PReg) (la : Fin 16)
  -- events of a group (R274, R275, R170, R150, R182); g names the group
  | sleepExpiry (g : Nat)
  | nopreTimeout (g : Nat)
  | waitmMet (g : Nat)
  | waitmTimeout (g : Nat)
  | carrySweep (blk la k : Nat)
  | updateLineEviction (key line : Nat)
  -- queues and launches (R97, R121 to R125, R103 to R107)
  | landingWrite (port off : Nat) (data : List Byte)
  | launchRecord (q : QRef)
  | leaveWaiting (l : Nat)
  | clusterPlacement (part : Nat)
  | placementStarvation (l : Nat)
  | wait (q : QRef)
  | waitMet (q : QRef)
  | waitTimeout (q : QRef)
  | signal (q : QRef)
  | copy (q : QRef)
  | queueCreate (q : QRef)
  | queueReset (q : QRef)
  | queueDestroy (q : QRef)
  -- contexts and keys (R82 to R93)
  | ctxDefine (q : QRef)
  | ctxUpdate (q : QRef)
  | ctxSuspend (q : QRef)
  | ctxResume (q : QRef)
  | ctxDestroy (q : QRef)
  | keyInstall (q : QRef)
  | keyRetire (q : QRef)
  | keyRetireComplete (slot : Nat)
  | contextLoad (c : Nat)
  | contextLoadComplete (c : Nat)
  | contextIdleRelease (c : Nat)
  | preemptFallback (g : Nat)
  | blockSave (b : Nat)
  | contextWipeComplete (c : Nat)
  -- engine records (R336 to R340)
  | ecpyRecord (q : QRef)
  | efillRecord (q : QRef)
  | egathRecord (q : QRef)
  | escatRecord (q : QRef)
  | ercpyRecord (q : QRef)
  | emigRecord (q : QRef)
  -- coherence engines (R209, R216)
  | cohCheck (q : QRef)
  | cohLoad (q : QRef)
  | rmapSet (q : QRef)
  | gets (r : CohReq)
  | getx (r : CohReq)
  | upgr (r : CohReq)
  | puts (r : CohReq)
  | putl (r : CohReq)
  | putx (r : CohReq)
  | wthr (r : CohReq)
  | atomRequest (r : CohReq)
  | getm (r : CohReq)
  | putm (r : CohReq)
  | iack (r : CohReq)
  | fack (r : CohReq)
  | recl (r : CohReq)
  | flsh (r : CohReq)
  | ncrd (r : CohReq)
  | ncwr (r : CohReq)
  -- page engine (R234 to R237)
  | pageMap (q : QRef)
  | pageUnmap (q : QRef)
  | pageAttr (q : QRef)
  | pageBack (q : QRef)
  | frameRetire (q : QRef)
  | pageFillComplete (frame : Nat) (ok : Bool)
  | migrationComplete (frame : Nat) (res : MigEnd)
  | shootdownComplete (frame : Nat)
  -- links (R375 to R378)
  | linkTrained (port width : Nat)
  | trainingTimeout (port : Nat)
  | linkRetrain (port : Nat)
  | retrainComplete (port width : Nat)
  | retrainTimeout (port : Nat)
  | deadRetry (port : Nat)
  | linkDisable (port : Nat)
  | linkEnable (port : Nat)
  | lsuReceived (origin plane : Nat) (st : Nat) (seq : Nat)
  | drainRoundEnd (port : Nat)
  | pcieLinkChange (port st width : Nat)
  | ualinkRequest (port src pa : Nat) (op : UaOp)
  -- collectives (R382 to R390)
  | collectiveClose (q : QRef)
  | partialReceived (c e round loc rank : Nat) (mask : BitVec 512) (image : List Byte)
  | mergedImageReceived (c e round loc : Nat) (image : List Byte)
  | deliveryAck (c e round rank : Nat)
  | roundTimeout (c e : Nat)
  | suspendReceived (c e rank : Nat)
  | resumeReceived (c e rank : Nat)
  | abortReceived (c e rank : Nat)
  | slotRelease (c e loc : Nat)
  -- health and management (R396 to R404, R21, R25 to R27)
  | healthQuery (q : QRef)
  | rehearse (q : QRef)
  | coreRetire (q : QRef)
  | rehearsalCfg (q : QRef)
  | rehearsalStart (core : Nat)
  | rehearsalSkip (core : Nat)
  | selfTestComplete (core : Nat) (pass : Bool)
  | coreWithdrawal (core : Nat)
  | coldReset
  | warmReset (dies : BitVec 4)
  | thermalShutdown (die : Nat)
  | junctionWarning (die : Nat)
  | lifeCycleCommand (target : LifeCycle) (valid : Bool)
  | firmwareUpdate (image version : Nat) (valid : Bool)
  | partitionModeSet (m : PartMode)
  | pldmMonitoring (sensor : Nat)
  | spdmMeasurements (index : Nat)
  -- Prompt Book and management registers (R405 to R407)
  | bookArm (die : Nat)
  | bookDisarm (die : Nat)
  | bookSeal (die : Nat)
  | bookTailWrite (die : Nat) (v : Dword)
  | registerWrite (port off : Nat) (v : Dword)
  -- results, posted writes, wipes (R150, R182, R398)
  | pendingResultComplete (g idx : Nat)
  | postedWriteAcknowledgement (peer : Nat)
  | systemFenceTimeout (g : Nat)
  | frameWipeComplete (c : Nat)
deriving DecidableEq, Repr

end Sys2Proof
end

