-- ==== Sys2Proof/WellFormed.lean ====
section
/-! DEFINITION. Which instructions are well-formed: the operand limits of R246, R250, R254, R256, R258, R319, R330,
R346, R356 and R361 that the types of the fields do not already give. -/

namespace Sys2Proof

/-- v0 is no register (R246). -/
def GReg.wf : GReg → Bool
  | .z => true
  | .v n => n.val != 0
  | .s _ => true

/-- A vector register number is 1 to 111 (R246). -/
def vregWf (n : VReg) : Bool := n.val != 0

/-- An operand block of k registers lies in its kind (R319). -/
def BReg.wf (k : Nat) : BReg → Bool
  | .v n => n.val != 0 && n.val + k ≤ 112
  | .s n => n.val + k ≤ 16

/-- Sub-elements of a 64-bit register at a width (R269). -/
def Width.subs : Width → Nat
  | .w64 => 1
  | .w32 => 2
  | .w16 => 4
  | .w8 => 8

/-- The selectors of R258. -/
def selectorOk (s : Nat) : Bool :=
  (1 ≤ s && s ≤ 3) || (0x10 ≤ s && s ≤ 0x14) || (0x20 ≤ s && s ≤ 0x29) || s == 0x30 || s == 0x31
    || (0x40 ≤ s && s ≤ 0x42) || s == 0x50 || (0x60 ≤ s && s ≤ 0x66) || s == 0x70 || (0x80 ≤ s && s ≤ 0x82)
    || (0x100 ≤ s && s ≤ 0x103) || (0x140 ≤ s && s ≤ 0x18F)

/-- s15 is no destination of QPOP or QTRY (R330). -/
def SReg.notLast : SReg → Bool
  | .z => true
  | .s n => n.val != 15

/-- Two register fields of kind R. -/
def wf2 (d a : GReg) : Bool := d.wf && a.wf
/-- Three register fields of kind R. -/
def wf3 (d a b : GReg) : Bool := d.wf && a.wf && b.wf
/-- A shift immediate is 0 to 63 (R294). -/
def shiftWf (imm : BitVec 12) : Bool := imm.toNat < 64

/-- The rows of the opcode table that have no encoding: the device's events. -/
def Instr.isEvent : Instr → Bool
  | .sleepExpiry .. | .nopreTimeout .. | .waitmMet .. | .waitmTimeout .. | .carrySweep .. | .updateLineEviction ..
  | .landingWrite .. | .launchRecord .. | .leaveWaiting .. | .clusterPlacement .. | .placementStarvation ..
  | .wait .. | .waitMet .. | .waitTimeout .. | .signal .. | .copy .. | .queueCreate .. | .queueReset ..
  | .queueDestroy .. | .ctxDefine .. | .ctxUpdate .. | .ctxSuspend .. | .ctxResume .. | .ctxDestroy ..
  | .keyInstall .. | .keyRetire .. | .keyRetireComplete .. | .contextLoad .. | .contextLoadComplete ..
  | .contextIdleRelease .. | .preemptFallback .. | .blockSave .. | .contextWipeComplete .. | .ecpyRecord ..
  | .efillRecord .. | .egathRecord .. | .escatRecord .. | .ercpyRecord .. | .emigRecord .. | .cohCheck ..
  | .cohLoad .. | .rmapSet .. | .gets .. | .getx .. | .upgr .. | .puts .. | .putl .. | .putx .. | .wthr ..
  | .atomRequest .. | .getm .. | .putm .. | .iack .. | .fack .. | .recl .. | .flsh .. | .ncrd .. | .ncwr ..
  | .pageMap .. | .pageUnmap .. | .pageAttr .. | .pageBack .. | .frameRetire .. | .pageFillComplete ..
  | .migrationComplete .. | .shootdownComplete .. | .linkTrained .. | .trainingTimeout .. | .linkRetrain ..
  | .retrainComplete .. | .retrainTimeout .. | .deadRetry .. | .linkDisable .. | .linkEnable .. | .lsuReceived ..
  | .drainRoundEnd .. | .pcieLinkChange .. | .ualinkRequest .. | .collectiveClose .. | .partialReceived ..
  | .mergedImageReceived .. | .deliveryAck .. | .roundTimeout .. | .suspendReceived .. | .resumeReceived ..
  | .abortReceived .. | .slotRelease .. | .healthQuery .. | .rehearse .. | .coreRetire .. | .rehearsalCfg ..
  | .rehearsalStart .. | .rehearsalSkip .. | .selfTestComplete .. | .coreWithdrawal .. | .coldReset
  | .warmReset .. | .thermalShutdown .. | .junctionWarning .. | .lifeCycleCommand .. | .firmwareUpdate ..
  | .partitionModeSet .. | .pldmMonitoring .. | .spdmMeasurements .. | .bookArm .. | .bookDisarm .. | .bookSeal ..
  | .bookTailWrite .. | .registerWrite .. | .pendingResultComplete .. | .postedWriteAcknowledgement ..
  | .systemFenceTimeout .. | .frameWipeComplete .. => true
  | _ => false

/-- An instruction that a legal word can stand for (R249, R250); every event is well-formed. -/
def Instr.wf : Instr → Bool
  | .trap c a => 0x40 ≤ c.val && a.wf
  | .mfs d s => d.wf && selectorOk s.val
  | .mts s d => d.wf && selectorOk s.val
  | .fmtget d | .clock d => d.wf
  | .stage b _ => vregWf b
  | .loop lc _ _ => lc.val != 3
  | .loopi lc _ _ => lc.val != 3
  | .pgreq d a _ _ | .pgqry d a _ _ | .pgpin d a _ _ | .pgunpin d a _ _ => wf2 d a
  | .pref a _ _ => a.wf
  | .spl d _ _ _ | .fil d _ _ _ => vregWf d
  | .iadd _ d a b | .isub _ d a b | .iaddc _ d a b | .isubb _ d a b | .imul _ d a b | .imulhs _ d a b
  | .imulhn _ d a b | .imad _ d a b | .imins _ d a b | .imaxs _ d a b | .iminn _ d a b | .imaxn _ d a b
  | .andR _ d a b | .orR _ d a b | .xorR _ d a b | .andnR _ d a b | .shl _ d a b | .shr _ d a b | .sar _ d a b
  | .rot _ d a b | .bfxs _ d a b | .bfxn _ d a b | .bfi _ d a b | .iadds _ d a b | .iaddn _ d a b => wf3 d a b
  | .imadw d a b | .prmb d a b | .lea d a b _ => wf3 d a b
  | .iabs _ d a | .popc _ d a | .clz _ d a | .brev _ d a | .mov _ d a => wf2 d a
  | .iset _ _ _ _ a b => wf2 a b
  | .addi d a _ | .andi d a _ | .ori d a _ | .xori d a _ => wf2 d a
  | .shli d a i | .shri d a i | .sari d a i => wf2 d a && shiftWf i
  | .movw d _ _ | .movk d _ _ => d.wf
  | .fadd _ _ d a b | .fsub _ _ d a b | .fmul _ _ d a b | .ffma _ _ d a b | .ffms _ _ d a b | .fnma _ _ d a b
  | .fmin _ _ d a b | .fmax _ _ d a b | .fcsgn _ _ d a b | .fdiv _ _ d a b | .fscl _ _ d a b => wf3 d a b
  | .fabs _ _ d a | .fneg _ _ d a | .frndn _ _ d a | .frndz _ _ d a | .frndp _ _ d a | .frndm _ _ d a
  | .fclass _ _ d a | .frcp _ _ d a | .frsq _ _ d a | .fsqrt _ _ d a | .fexp2 _ _ d a | .flog2 _ _ d a => wf2 d a
  | .fset _ _ _ _ a b | .fsets _ _ _ _ a b => wf2 a b
  | .cvt _ _ _ _ d a => wf2 d a
  | .qpush _ a n | .ecpy _ a n | .egath _ a n | .escat _ a n | .ercpy _ a n | .efill _ a n | .emig _ a n =>
    a.val + n.val ≤ 15
  | .qpop d _ | .qtry d _ => d.notLast
  | .qstat d _ | .qdrain d _ => d.wf
  | .laclr d n | .lacrs d n => d.val + n.val ≤ 127
  | .laadd _ a | .laadds _ a | .lasub _ a => a.wf
  | .lamad _ a b | .lamsb _ a b | .ladot _ a b => wf2 a b
  | .laxl _ _ b => b.wf
  | .laxb _ _ k => 1 ≤ k.val && k.val ≤ 31
  | .laflg d _ => d.wf
  | .laput _ a k => a.wf && k.val ≤ 10
  | .larnd d _ _ _ _ | .laseg d _ _ _ => d.wf
  | .mma d a b _ _ => vregWf a && vregWf b && a.val + 3 ≤ 111 && b.val + 3 ≤ 111 && d.val + 7 ≤ 127
  | .mmas d a b _ _ => vregWf a && vregWf b && a.val + 3 ≤ 111 && b.val + 7 ≤ 111 && d.val + 7 ≤ 127
  | .xln _ _ d a b => wf3 d a b
  | .xliBfly w d a _ s | .xliBcast w d a _ s | .xliRotup w d a _ s | .xliRotdn w d a _ s =>
    wf2 d a && s.val < w.subs
  | .qxh d a | .qxv d a | .qxd d a | .qbc0 d a | .qbc1 d a | .qbc2 d a | .qbc3 d a => wf2 d a
  | .vbal d _ | .vfirst d _ => d.wf
  | .mbcnt d a => wf2 d a
  | .last _ a _ _ | .lald _ a _ _ => a.wf
  | .ld _ _ d a _ _ | .ldx _ _ d a _ _ | .st _ _ d a _ _ | .stx _ _ d a _ _ => wf2 d a
  | .lds _ d a _ _ | .ldsc _ d a _ _ | .sts _ d a _ _ | .stsc _ d a _ _ => wf2 d a
  | .atomAdd d a _ _ | .atomMins d a _ _ | .atomMaxs d a _ _ | .atomMinn d a _ _ | .atomMaxn d a _ _
  | .atomAnd d a _ _ | .atomOr d a _ _ | .atomXor d a _ _ | .atomXchg d a _ _ | .atomIncw d a _ _
  | .atomwAdd d a _ _ | .atomwMins d a _ _ | .atomwMaxs d a _ _ | .atomwMinn d a _ _ | .atomwMaxn d a _ _
  | .atomwAnd d a _ _ | .atomwOr d a _ _ | .atomwXor d a _ _ | .atomwXchg d a _ _ | .atomwIncw d a _ _ =>
    d.wf && a.wf 2
  | .atomCas d a _ _ | .atomwCas d a _ _ => d.wf && a.wf 3
  | .ataccAddp d a _ _ => d.wf && a.wf 2
  | .ataccAddv d a _ _ | .ataccClr d a _ _ => d.wf && a.wf 1
  | _ => true

end Sys2Proof
end

