-- ==== Sys2Proof/Decode.lean ====
section
/-! DEFINITION. The decoder (R242 to R256): total on every word, refusing by name what is no instruction (R250); then
the encoder, written from the same field layouts. -/

namespace Sys2Proof

/-- Why a word is no instruction (R250). -/
inductive Reject where
  /-- major 0x36 or 0x37 -/
  | reservedMajor
  /-- fn, k, t or a sub-field value is not assigned -/
  | function
  /-- a field that must be zero is not (R249) -/
  | reservedBits
  /-- a register field holds a value illegal for its kind (R246) -/
  | register
  /-- an operand limit of the description is broken -/
  | limit
deriving DecidableEq, Repr

/-- n bits of w from bit lo up (R2). -/
def fld (w lo n : Nat) : Nat := w / 2 ^ lo % 2 ^ n

/-- A register field of kind R (R246). -/
def gr (x : Nat) : GReg :=
  if x = 0 then .z else if x < 112 then .v (Fin.ofNat 112 x) else .s (Fin.ofNat 16 (x - 112))

/-- A register field of kind S, or nothing where the value is illegal (R246). -/
def sr (x : Nat) : Option SReg :=
  if x = 0 then some .z else if x < 112 then none else some (.s (Fin.ofNat 16 (x - 112)))

/-- A register field of kind V (R246). -/
def vr (x : Nat) : Option VReg := if 1 ≤ x ∧ x < 112 then some (Fin.ofNat 112 x) else none

/-- A 7-bit field of kind P or Q: 0 to 15 (R246). -/
def pr (x : Nat) : Option (Fin 16) := if x < 16 then some (Fin.ofNat 16 x) else none

/-- The first register of an operand block (R319). -/
def br (x : Nat) : Option BReg :=
  if x = 0 then none else if x < 112 then some (.v (Fin.ofNat 112 x)) else some (.s (Fin.ofNat 16 (x - 112)))

/-- A scalar register that must not be z (R330). -/
def sOnly (x : Nat) : Option (Fin 16) := if 112 ≤ x then some (Fin.ofNat 16 (x - 112)) else none

/-- Width codes (R254). -/
def widthOf (x : Nat) : Width := if x = 0 then .w64 else if x = 1 then .w32 else if x = 2 then .w16 else .w8
/-- FSET format codes (R254). -/
def fsetFmt (x : Nat) : FpFmt := if x = 0 then .fp64 else if x = 1 then .fp32 else if x = 2 then .fp16 else .bf16
/-- The format of a floating-point major, from bits [28:27] (R253). -/
def majorFmt (x : Nat) : FpFmt := if x = 0 then .fp32 else if x = 1 then .fp64 else if x = 2 then .fp16 else .bf16
/-- Number format codes (R28). -/
def numFmtOf (x : Nat) : Option NumFmt :=
  [NumFmt.fp64, .fp32, .fp16, .bf16, .d8, .int8, .nat8, .int16, .nat16, .int32, .nat32, .int64, .nat64][x]?
/-- Rounding fields of CVT and LARND: 0 takes FMT.RM (R37). -/
def roundOf (x : Nat) : Option (Option Round) :=
  [Option.none, some Round.rn, some .rz, some .ru, some .rd][x]?
/-- ISET conditions (R254). -/
def icondOf (x : Nat) : ICond := ([ICond.eq, .ne, .lts, .les, .ltn, .len, .gts, .gtn][x]?).getD .eq
/-- FSET conditions (R254). -/
def fcondOf (x : Nat) : FCond := ([FCond.eq, .ne, .lt, .le, .gt, .ge, .un, .ord][x]?).getD .eq
/-- Combine codes; 4 to 7 are illegal (R254). -/
def combineOf (x : Nat) : Option Combine := [Combine.set, .and, .or, .xor][x]?
/-- Scope codes; 6 and 7 are illegal (R177, R182). -/
def scopeOf (x : Nat) : Option Scope := [Scope.grp, .blk, .cls, .die, .dev, .sys][x]?
/-- Policy codes; 3 is illegal (R255). -/
def policyOf (x : Nat) : Option Policy := [Policy.dflt, .stream, .l2only][x]?

/-- A candidate, or the name of the refusal. -/
abbrev Dec := Except Reject Instr

/-- Goes on when c holds. -/
def need (c : Bool) (r : Reject) (k : Dec) : Dec := if c then k else .error r
/-- Goes on with the value of a field. -/
def reg {α : Type} (o : Option α) (k : α → Dec) : Dec :=
  match o with
  | some x => k x
  | none => .error .register
/-- Goes on with the meaning of a code. -/
def code {α : Type} (o : Option α) (k : α → Dec) : Dec :=
  match o with
  | some x => k x
  | none => .error .function

/-- Major 0x00, SYS (R271). -/
def decSys (d a b fn : Nat) : Dec :=
  let z3 := need (d == 0 && a == 0 && b == 0) .reservedBits
  let zd := need (d == 0) .reservedBits
  let zdb := need (d == 0 && b == 0) .reservedBits
  let zab := need (a == 0 && b == 0) .reservedBits
  match fn with
  | 0 => z3 (.ok .nop)
  | 1 => z3 (.ok .exit)
  | 2 => zd (.ok (.trap (Fin.ofNat 128 b) (gr a)))
  | 3 => z3 (.ok .rtt)
  | 4 => z3 (.ok .yield)
  | 5 => zdb (reg (sr a) fun a => .ok (.sleep a))
  | 6 => z3 (.ok .nopre)
  | 7 => z3 (.ok .okpre)
  | 8 => .ok (.mfs (gr d) (Fin.ofNat 16384 (a * 128 + b)))
  | 9 => .ok (.mts (Fin.ofNat 16384 (a * 128 + b)) (gr d))
  | 10 => zdb (reg (sr a) fun a => .ok (.win a))
  | 11 => zdb (reg (sr a) fun a => .ok (.awin a))
  | 12 => zd (reg (sr a) fun a => reg (sr b) fun b => .ok (.fmtset a b))
  | 13 => zab (.ok (.fmtget (gr d)))
  | 14 => zab (.ok (.clock (gr d)))
  | 15 => zd (reg (sr a) fun a => reg (sr b) fun b => .ok (.launch a b))
  | 16 => zdb (reg (sr a) fun a => .ok (.record a))
  | 17 => z3 (.ok .sigrst)
  | 18 => z3 (.ok .bkpt)
  | _ => .error .function

/-- Major 0x09, CTL (R282). -/
def decCtl (d a b fn : Nat) : Dec :=
  need (d == 0 && b == 0) .reservedBits <|
  match fn with
  | 0 => reg (sr a) fun a => .ok (.jmpr a)
  | 1 => reg (sr a) fun a => .ok (.callr a)
  | 2 => need (a == 0) .reservedBits (.ok .ret)
  | 3 => need (a == 0) .reservedBits (.ok .endj)
  | _ => .error .function

/-- Major 0x0D, SYNC (R163, R182, R329). -/
def decSync (w a b fn : Nat) : Dec :=
  let pd : PReg := Fin.ofNat 16 (fld w 22 4)
  let sc := fld w 19 3
  let id : Fin 64 := Fin.ofNat 64 b
  let zpd := need (fld w 22 4 == 0) .reservedBits
  let isSc := fun (n : Nat) => need (sc == n) .reservedBits
  let za := need (a == 0) .reservedBits
  let zb := need (b == 0) .reservedBits
  let b6 := need (b < 64) .reservedBits
  match fn with
  | 0 => za (zb (code (scopeOf sc) fun s => .ok (.fenceAcq pd s)))
  | 1 => za (zb (code (scopeOf sc) fun s => .ok (.fenceRel pd s)))
  | 2 => za (zb (code (scopeOf sc) fun s => .ok (.fenceAr pd s)))
  | 3 => zpd (isSc 1 (b6 (reg (sr a) fun a => .ok (.barInit id a))))
  | 4 => zpd (isSc 1 (b6 (za (.ok (.barArr id)))))
  | 5 => isSc 1 (b6 (za (.ok (.barWait pd id))))
  | 6 => isSc 1 (b6 (za (.ok (.barSync pd id))))
  | 7 => zpd (isSc 2 (b6 (za (.ok (.cbarArr id)))))
  | 8 => isSc 2 (b6 (za (.ok (.cbarWait pd id))))
  | 9 => isSc 2 (b6 (za (.ok (.cbarSync pd id))))
  | 10 => zpd (isSc 0 (zb (za (.ok .batch))))
  | 11 => isSc 0 (zb (reg (sr a) fun a => .ok (.bwait pd a)))
  | 12 => code (scopeOf sc) fun s => reg (sr a) fun a => reg (sr b) fun b => .ok (.waitm pd s a b)
  | 13 => zpd (isSc 0 (zb (reg (sr a) fun a => .ok (.qfence a))))
  | _ => .error .function

/-- Major 0x0E, PAGE (R323). -/
def decPage (d a : Nat) (f : PReg) (k : Nat) (la : Fin 16) : Dec :=
  match k with
  | 0 => .ok (.pgreq (gr d) (gr a) f la)
  | 1 => .ok (.pgqry (gr d) (gr a) f la)
  | 2 => need (d == 0) .reservedBits (.ok (.pref (gr a) f la))
  | 3 => reg (vr d) fun d => reg (sr a) fun a => .ok (.spl d a f la)
  | 4 => reg (vr d) fun d => reg (sr a) fun a => .ok (.fil d a f la)
  | 5 => reg (sr d) fun d => reg (sr a) fun a => .ok (.mapr d a f la)
  | 6 => need (a == 0) .reservedBits (reg (sr d) fun d => .ok (.syncr d f la))
  | 7 => need (a == 0) .reservedBits (reg (sr d) fun d => .ok (.unmapr d f la))
  | 8 => .ok (.pgpin (gr d) (gr a) f la)
  | 9 => .ok (.pgunpin (gr d) (gr a) f la)
  | _ => .error .function

/-- Major 0x10, IA1 (R286). -/
def decIa1 (w : Width) (d a b : GReg) (op : Nat) : Dec :=
  match op with
  | 0 => .ok (.iadd w d a b)
  | 1 => .ok (.isub w d a b)
  | 2 => .ok (.iaddc w d a b)
  | 3 => .ok (.isubb w d a b)
  | 4 => .ok (.imul w d a b)
  | 5 => .ok (.imulhs w d a b)
  | 6 => .ok (.imulhn w d a b)
  | 7 => .ok (.imad w d a b)
  | _ => .error .function

/-- Major 0x11, IA2 (R288). -/
def decIa2 (w : Width) (d a : GReg) (b op : Nat) : Dec :=
  let zb := need (b == 0) .reservedBits
  match op with
  | 0 => .ok (.imins w d a (gr b))
  | 1 => .ok (.imaxs w d a (gr b))
  | 2 => .ok (.iminn w d a (gr b))
  | 3 => .ok (.imaxn w d a (gr b))
  | 4 => zb (.ok (.iabs w d a))
  | 5 => need (w == .w64) .function (.ok (.imadw d a (gr b)))
  | 6 => zb (.ok (.popc w d a))
  | 7 => zb (.ok (.clz w d a))
  | _ => .error .function

/-- Major 0x12, IB1 (R289). -/
def decIb1 (w : Width) (d a b : GReg) (op : Nat) : Dec :=
  match op with
  | 0 => .ok (.andR w d a b)
  | 1 => .ok (.orR w d a b)
  | 2 => .ok (.xorR w d a b)
  | 3 => .ok (.andnR w d a b)
  | 4 => .ok (.shl w d a b)
  | 5 => .ok (.shr w d a b)
  | 6 => .ok (.sar w d a b)
  | 7 => .ok (.rot w d a b)
  | _ => .error .function

/-- Major 0x13, IB2 (R290, R291). -/
def decIb2 (w : Width) (d a : GReg) (b op : Nat) : Dec :=
  let zb := need (b == 0) .reservedBits
  match op with
  | 0 => zb (.ok (.brev w d a))
  | 1 => .ok (.bfxs w d a (gr b))
  | 2 => .ok (.bfxn w d a (gr b))
  | 3 => .ok (.bfi w d a (gr b))
  | 4 => zb (.ok (.mov w d a))
  | 5 => need (w == .w64) .function (.ok (.prmb d a (gr b)))
  | 6 => .ok (.iadds w d a (gr b))
  | 7 => .ok (.iaddn w d a (gr b))
  | _ => .error .function

/-- Major 0x15, PLOG (R293). -/
def decPlog (d a b fn : Nat) : Dec :=
  let zb := need (b == 0) .reservedBits
  reg (pr d) fun d => reg (pr a) fun a =>
  match fn with
  | 0 => reg (pr b) fun b => .ok (.pand d a b)
  | 1 => reg (pr b) fun b => .ok (.por d a b)
  | 2 => reg (pr b) fun b => .ok (.pxor d a b)
  | 3 => reg (pr b) fun b => .ok (.pandn d a b)
  | 4 => zb (.ok (.pnot d a))
  | 5 => zb (.ok (.pmov d a))
  | _ => .error .function

/-- Majors 0x20 to 0x27 (R297). -/
def decFp (fm : FpFmt) (q : Bool) (d a : GReg) (b fn : Nat) : Dec :=
  let zb := need (b == 0) .reservedBits
  match fn with
  | 0 => .ok (.fadd fm q d a (gr b))
  | 1 => .ok (.fsub fm q d a (gr b))
  | 2 => .ok (.fmul fm q d a (gr b))
  | 3 => .ok (.ffma fm q d a (gr b))
  | 4 => .ok (.ffms fm q d a (gr b))
  | 5 => .ok (.fnma fm q d a (gr b))
  | 6 => .ok (.fmin fm q d a (gr b))
  | 7 => .ok (.fmax fm q d a (gr b))
  | 8 => zb (.ok (.fabs fm q d a))
  | 9 => zb (.ok (.fneg fm q d a))
  | 10 => .ok (.fcsgn fm q d a (gr b))
  | 11 => zb (.ok (.frndn fm q d a))
  | 12 => zb (.ok (.frndz fm q d a))
  | 13 => zb (.ok (.frndp fm q d a))
  | 14 => zb (.ok (.frndm fm q d a))
  | 15 => zb (.ok (.fclass fm q d a))
  | 16 => zb (.ok (.frcp fm q d a))
  | 17 => zb (.ok (.frsq fm q d a))
  | 18 => zb (.ok (.fsqrt fm q d a))
  | 19 => .ok (.fdiv fm q d a (gr b))
  | 20 => zb (.ok (.fexp2 fm q d a))
  | 21 => zb (.ok (.flog2 fm q d a))
  | 22 => .ok (.fscl fm q d a (gr b))
  | _ => .error .function

/-- Major 0x2B, QREG (R330). -/
def decQreg (d a b fn : Nat) : Dec :=
  let zb := need (b == 0) .reservedBits
  match fn with
  | 0 => reg (pr d) fun q => reg (sOnly a) fun s => need (b < 4) .reservedBits (.ok (.qpush q s (Fin.ofNat 4 b)))
  | 1 => reg (sr d) fun d => reg (pr a) fun q => zb (.ok (.qpop d q))
  | 2 => reg (sr d) fun d => reg (pr a) fun q => zb (.ok (.qtry d q))
  | 3 => reg (pr d) fun q => reg (sr a) fun s => zb (.ok (.qbind q s))
  | 4 => reg (pr a) fun q => zb (.ok (.qstat (gr d) q))
  | 5 => reg (pr a) fun q => zb (.ok (.qdrain (gr d) q))
  | _ => .error .function

/-- Major 0x2C, ECMD (R330, R331). -/
def decEcmd (d a b fn : Nat) : Dec :=
  reg (pr d) fun q => reg (sOnly a) fun s => need (b < 4) .reservedBits <|
  let n : Fin 4 := Fin.ofNat 4 b
  match fn with
  | 0 => .ok (.ecpy q s n)
  | 1 => .ok (.egath q s n)
  | 2 => .ok (.escat q s n)
  | 3 => .ok (.ercpy q s n)
  | 4 => .ok (.efill q s n)
  | 5 => .ok (.emig q s n)
  | _ => .error .function

/-- Major 0x2D, LA (R346). -/
def decLa (d a b fn : Nat) : Dec :=
  let cd : CReg := Fin.ofNat 128 d
  let ca : CReg := Fin.ofNat 128 a
  let kb : Fin 128 := Fin.ofNat 128 b
  let za := need (a == 0) .reservedBits
  let zb := need (b == 0) .reservedBits
  match fn with
  | 0 => za (.ok (.laclr cd kb))
  | 1 => zb (.ok (.laadd cd (gr a)))
  | 2 => zb (.ok (.laadds cd (gr a)))
  | 3 => zb (.ok (.lasub cd (gr a)))
  | 4 => .ok (.lamad cd (gr a) (gr b))
  | 5 => .ok (.lamsb cd (gr a) (gr b))
  | 6 => .ok (.ladot cd (gr a) (gr b))
  | 7 => zb (.ok (.lamrg cd ca))
  | 8 => zb (.ok (.lamov cd ca))
  | 9 => .ok (.laxl cd ca (gr b))
  | 10 => .ok (.laxb cd ca kb)
  | 11 => za (.ok (.lacrs cd kb))
  | 12 => zb (.ok (.laflg (gr d) ca))
  | 13 => .ok (.laput cd (gr a) kb)
  | 14 => zb (.ok (.laneg cd ca))
  | _ => .error .function

/-- Major 0x2E, LARD (R351). -/
def decLard (d a b t : Nat) (la : Fin 16) : Dec :=
  if t = 0 then
    code (roundOf (b % 8)) fun rm =>
    if b / 8 = 15 then .ok (.larnd (gr d) (Fin.ofNat 128 a) none rm la)
    else code (numFmtOf (b / 8)) fun f => .ok (.larnd (gr d) (Fin.ofNat 128 a) (some f) rm la)
  else need (b < 10) .function (.ok (.laseg (gr d) (Fin.ofNat 128 a) (Fin.ofNat 10 b) la))

/-- Majors 0x2F and 0x34 (R356, R361). -/
def decMma (sparse : Bool) (d a b t : Nat) (la : Fin 16) : Dec :=
  reg (vr a) fun a => reg (vr b) fun b =>
  if sparse then .ok (.mmas (Fin.ofNat 128 d) a b (t == 1) la) else .ok (.mma (Fin.ofNat 128 d) a b (t == 1) la)

/-- Major 0x31, XLI (R308). -/
def decXli (d a : GReg) (b lane : Nat) : Dec :=
  let w := widthOf (b / 32)
  let l : Fin 32 := Fin.ofNat 32 lane
  let s : Fin 8 := Fin.ofNat 8 b
  match b / 8 % 4 with
  | 0 => .ok (.xliBfly w d a l s)
  | 1 => .ok (.xliBcast w d a l s)
  | 2 => .ok (.xliRotup w d a l s)
  | _ => .ok (.xliRotdn w d a l s)

/-- Major 0x32, QX (R309). -/
def decQx (d a : GReg) (b fn : Nat) : Dec :=
  need (b == 0) .reservedBits <|
  match fn with
  | 0 => .ok (.qxh d a)
  | 1 => .ok (.qxv d a)
  | 2 => .ok (.qxd d a)
  | 3 => .ok (.qbc0 d a)
  | 4 => .ok (.qbc1 d a)
  | 5 => .ok (.qbc2 d a)
  | 6 => .ok (.qbc3 d a)
  | _ => .error .function

/-- Major 0x33, VOTE (R310). -/
def decVote (d a b fn : Nat) : Dec :=
  need (b == 0) .reservedBits <|
  match fn with
  | 0 => reg (pr d) fun d => reg (pr a) fun a => .ok (.vany d a)
  | 1 => reg (pr d) fun d => reg (pr a) fun a => .ok (.vall d a)
  | 2 => reg (pr a) fun a => .ok (.vbal (gr d) a)
  | 3 => .ok (.mbcnt (gr d) (gr a))
  | 4 => reg (pr a) fun a => .ok (.vfirst (gr d) a)
  | _ => .error .function

/-- Majors 0x38 to 0x3B (R255, R315). -/
def decLoadStore (major : Nat) (d a : GReg) (f : PReg) (k : Nat) (la : Fin 16) : Dec :=
  code (policyOf (k % 4)) fun pol =>
  match major, k / 4 with
  | 0x38, 0 => .ok (.ld .b64 pol d a f la)
  | 0x38, 1 => .ok (.ld .n32 pol d a f la)
  | 0x38, 2 => .ok (.ld .s32 pol d a f la)
  | 0x39, 0 => .ok (.ldx .n8 pol d a f la)
  | 0x39, 1 => .ok (.ldx .s8 pol d a f la)
  | 0x39, 2 => .ok (.ldx .n16 pol d a f la)
  | 0x39, 3 => .ok (.ldx .s16 pol d a f la)
  | 0x3A, 0 => .ok (.st .b64 pol d a f la)
  | 0x3A, 1 => .ok (.st .b32 pol d a f la)
  | 0x3B, 0 => .ok (.stx .b8 pol d a f la)
  | 0x3B, 2 => .ok (.stx .b16 pol d a f la)
  | _, _ => .error .function

/-- Major 0x3C, SPAD (R317). -/
def decSpad (d a : GReg) (f : PReg) (k : Nat) (la : Fin 16) : Dec :=
  let w := widthOf (k % 4)
  match k / 4 with
  | 0 => .ok (.lds w d a f la)
  | 1 => .ok (.ldsc w d a f la)
  | 2 => .ok (.sts w d a f la)
  | 3 => .ok (.stsc w d a f la)
  | _ => .error .function

/-- Major 0x3D, ATOM (R320). -/
def decAtom (d : GReg) (a : BReg) (f : PReg) (k : Nat) (la : Fin 16) : Dec :=
  match k with
  | 0 => .ok (.atomAdd d a f la)
  | 1 => .ok (.atomMins d a f la)
  | 2 => .ok (.atomMaxs d a f la)
  | 3 => .ok (.atomMinn d a f la)
  | 4 => .ok (.atomMaxn d a f la)
  | 5 => .ok (.atomAnd d a f la)
  | 6 => .ok (.atomOr d a f la)
  | 7 => .ok (.atomXor d a f la)
  | 8 => .ok (.atomXchg d a f la)
  | 9 => .ok (.atomCas d a f la)
  | 10 => .ok (.atomIncw d a f la)
  | _ => .error .function

/-- Major 0x3E, ATOMW (R320). -/
def decAtomw (d : GReg) (a : BReg) (f : PReg) (k : Nat) (la : Fin 16) : Dec :=
  match k with
  | 0 => .ok (.atomwAdd d a f la)
  | 1 => .ok (.atomwMins d a f la)
  | 2 => .ok (.atomwMaxs d a f la)
  | 3 => .ok (.atomwMinn d a f la)
  | 4 => .ok (.atomwMaxn d a f la)
  | 5 => .ok (.atomwAnd d a f la)
  | 6 => .ok (.atomwOr d a f la)
  | 7 => .ok (.atomwXor d a f la)
  | 8 => .ok (.atomwXchg d a f la)
  | 9 => .ok (.atomwCas d a f la)
  | 10 => .ok (.atomwIncw d a f la)
  | _ => .error .function

/-- Major 0x3F, ATACC (R322). -/
def decAtacc (d : GReg) (a : BReg) (f : PReg) (k : Nat) (la : Fin 16) : Dec :=
  match k with
  | 0 => .ok (.ataccAddv d a f la)
  | 1 => .ok (.ataccAddp d a f la)
  | 2 => .ok (.ataccClr d a f la)
  | _ => .error .function

/-- The I-format majors (R294). -/
def decImm (major : Nat) (d a : GReg) (imm : BitVec 12) : Dec :=
  match major with
  | 0x16 => .ok (.addi d a imm)
  | 0x17 => .ok (.andi d a imm)
  | 0x18 => .ok (.ori d a imm)
  | 0x19 => .ok (.xori d a imm)
  | 0x1A => .ok (.shli d a imm)
  | 0x1B => .ok (.shri d a imm)
  | _ => .ok (.sari d a imm)

/-- The instruction a word stands for by its fields alone, before the operand limits. -/
def decodeFields (w : Nat) : Dec :=
  let d := fld w 19 7
  let a := fld w 12 7
  let b := fld w 5 7
  let fn := fld w 0 5
  let p : PReg := Fin.ofNat 16 (fld w 22 4)
  let n : Bool := fld w 21 1 == 1
  let off := BitVec.ofNat 21 w
  let f : PReg := Fin.ofNat 16 (fld w 8 4)
  let k := fld w 4 4
  let la : Fin 16 := Fin.ofNat 16 (fld w 0 4)
  let t := fld w 4 1
  match fld w 26 6 with
  | 0x00 => decSys d a b fn
  | 0x01 => need (fld w 0 10 == 0) .reservedBits (.ok (.cue (BitVec.ofNat 16 (w / 1024))))
  | 0x02 => need (fld w 0 10 == 0) .reservedBits (.ok (.sigck (BitVec.ofNat 16 (w / 1024))))
  | 0x03 => reg (vr d) fun d => .ok (.stage d (BitVec.ofNat 19 w))
  | 0x04 => .ok (.bra p n off)
  | 0x05 => .ok (.brl p n off)
  | 0x06 => .ok (.brd p n off)
  | 0x07 => need (fld w 21 5 == 0) .reservedBits (.ok (.join off))
  | 0x08 => .ok (.call (BitVec.ofNat 26 w))
  | 0x09 => decCtl d a b fn
  | 0x0A => need (fld w 0 9 == 0) .reservedBits <| reg (sr (fld w 9 7)) fun s =>
      .ok (.loop (Fin.ofNat 4 (fld w 24 2)) (BitVec.ofNat 8 (w / 65536)) s)
  | 0x0B => .ok (.loopi (Fin.ofNat 4 (fld w 24 2)) (BitVec.ofNat 8 (w / 65536)) (BitVec.ofNat 16 w))
  | 0x0C => need (fld w 0 17 == 0) .reservedBits (.ok (.gspan p n (Fin.ofNat 16 (fld w 17 4))))
  | 0x0D => decSync w a b fn
  | 0x0E => decPage d a f k la
  | 0x0F => reg (sr d) fun d => reg (sr a) fun a => need (k < 2) .function (.ok (.ldu d a (k == 1) f la))
  | 0x10 => decIa1 (widthOf (fn / 8)) (gr d) (gr a) (gr b) (fn % 8)
  | 0x11 => decIa2 (widthOf (fn / 8)) (gr d) (gr a) b (fn % 8)
  | 0x12 => decIb1 (widthOf (fn / 8)) (gr d) (gr a) (gr b) (fn % 8)
  | 0x13 => decIb2 (widthOf (fn / 8)) (gr d) (gr a) b (fn % 8)
  | 0x14 => code (combineOf (fn % 8)) fun cb =>
      .ok (.iset (icondOf (fld w 19 3)) cb (widthOf (fn / 8)) p (gr a) (gr b))
  | 0x15 => decPlog d a b fn
  | 0x16 => decImm 0x16 (gr d) (gr a) (BitVec.ofNat 12 w)
  | 0x17 => decImm 0x17 (gr d) (gr a) (BitVec.ofNat 12 w)
  | 0x18 => decImm 0x18 (gr d) (gr a) (BitVec.ofNat 12 w)
  | 0x19 => decImm 0x19 (gr d) (gr a) (BitVec.ofNat 12 w)
  | 0x1A => decImm 0x1A (gr d) (gr a) (BitVec.ofNat 12 w)
  | 0x1B => decImm 0x1B (gr d) (gr a) (BitVec.ofNat 12 w)
  | 0x1C => decImm 0x1C (gr d) (gr a) (BitVec.ofNat 12 w)
  | 0x1D => need (fld w 16 1 == 0) .reservedBits (.ok (.movw (gr d) (Fin.ofNat 4 (fld w 17 2)) (BitVec.ofNat 16 w)))
  | 0x1E => need (fld w 16 1 == 0) .reservedBits (.ok (.movk (gr d) (Fin.ofNat 4 (fld w 17 2)) (BitVec.ofNat 16 w)))
  | 0x1F => .ok (.lea (gr d) (gr a) (gr b) (Fin.ofNat 32 fn))
  | 0x20 => decFp .fp32 false (gr d) (gr a) b fn
  | 0x21 => decFp .fp32 true (gr d) (gr a) b fn
  | 0x22 => decFp .fp64 false (gr d) (gr a) b fn
  | 0x23 => decFp .fp64 true (gr d) (gr a) b fn
  | 0x24 => decFp .fp16 false (gr d) (gr a) b fn
  | 0x25 => decFp .fp16 true (gr d) (gr a) b fn
  | 0x26 => decFp .bf16 false (gr d) (gr a) b fn
  | 0x27 => decFp .bf16 true (gr d) (gr a) b fn
  | 0x28 => code (combineOf (fn % 8)) fun cb =>
      .ok (.fset (fcondOf (fld w 19 3)) cb (fsetFmt (fn / 8)) p (gr a) (gr b))
  | 0x29 => code (combineOf (fn % 8)) fun cb =>
      .ok (.fsets (fcondOf (fld w 19 3)) cb (fsetFmt (fn / 8)) p (gr a) (gr b))
  | 0x2A => code (numFmtOf (b / 8)) fun dst => code (roundOf (b % 8)) fun rm => code (numFmtOf (fn / 2)) fun src =>
      .ok (.cvt dst src rm (fn % 2 == 1) (gr d) (gr a))
  | 0x2B => decQreg d a b fn
  | 0x2C => decEcmd d a b fn
  | 0x2D => decLa d a b fn
  | 0x2E => decLard d a b t la
  | 0x2F => decMma false d a b t la
  | 0x30 => need (fn % 4 == 0) .function (.ok (.xln (fn / 4 % 2 == 1) (widthOf (fn / 8)) (gr d) (gr a) (gr b)))
  | 0x31 => decXli (gr d) (gr a) b fn
  | 0x32 => decQx (gr d) (gr a) b fn
  | 0x33 => decVote d a b fn
  | 0x34 => decMma true d a b t la
  | 0x35 => match k with
    | 0 => .ok (.last (Fin.ofNat 128 d) (gr a) f la)
    | 1 => .ok (.lald (Fin.ofNat 128 d) (gr a) f la)
    | _ => .error .function
  | 0x36 => .error .reservedMajor
  | 0x37 => .error .reservedMajor
  | 0x38 => decLoadStore 0x38 (gr d) (gr a) f k la
  | 0x39 => decLoadStore 0x39 (gr d) (gr a) f k la
  | 0x3A => decLoadStore 0x3A (gr d) (gr a) f k la
  | 0x3B => decLoadStore 0x3B (gr d) (gr a) f k la
  | 0x3C => decSpad (gr d) (gr a) f k la
  | 0x3D => reg (br a) fun a => decAtom (gr d) a f k la
  | 0x3E => reg (br a) fun a => decAtomw (gr d) a f k la
  | _ => reg (br a) fun a => decAtacc (gr d) a f k la

/-- The instruction of a word, or the name of the refusal (R250). -/
def decodeWord (w : BitVec 32) : Dec :=
  match decodeFields w.toNat with
  | .ok i => if i.wf then .ok i else .error .limit
  | .error r => .error r

/-- The four little-endian bytes of an instruction word (R3, R242). -/
def wordBytes (w : BitVec 32) : List Byte :=
  [BitVec.ofNat 8 w.toNat, BitVec.ofNat 8 (w.toNat / 256), BitVec.ofNat 8 (w.toNat / 65536),
   BitVec.ofNat 8 (w.toNat / 16777216)]

/-- The word of four bytes, the first at the lowest address (R3, R242). -/
def bytesWord (l : List Byte) : BitVec 32 :=
  match l with
  | [b0, b1, b2, b3] => BitVec.ofNat 32 (b0.toNat + b1.toNat * 256 + b2.toNat * 65536 + b3.toNat * 16777216)
  | _ => 0

/-- The host's reading of an opcode-table word: instructions are one word of 32 bits (R242); a shorter row's high bits
are zero. -/
def decodeTableWord (nbits w : Nat) : Option Instr :=
  match decodeWord (bytesWord (wordBytes (BitVec.ofNat 32 (w % 2 ^ min nbits 32)))) with
  | .ok i => some i
  | .error _ => none

/-! The encoder, from the same layouts (R243, R244, R254). -/

/-- Field value of a kind R operand (R246). -/
def GReg.enc : GReg → Nat
  | .z => 0
  | .v n => n.val
  | .s n => 112 + n.val
/-- Field value of a kind S operand (R246). -/
def SReg.enc : SReg → Nat
  | .z => 0
  | .s n => 112 + n.val
/-- Field value of an operand block's first register (R319). -/
def BReg.enc : BReg → Nat
  | .v n => n.val
  | .s n => 112 + n.val
/-- Width code (R254). -/
def Width.enc : Width → Nat
  | .w64 => 0 | .w32 => 1 | .w16 => 2 | .w8 => 3
/-- FSET format code (R254). -/
def FpFmt.encSet : FpFmt → Nat
  | .fp64 => 0 | .fp32 => 1 | .fp16 => 2 | .bf16 => 3
/-- The major of a floating-point format and its Q partner (R253). -/
def FpFmt.major (f : FpFmt) (q : Bool) : Nat :=
  (match f with | .fp32 => 0x20 | .fp64 => 0x22 | .fp16 => 0x24 | .bf16 => 0x26) + (if q then 1 else 0)
/-- Number format code (R28). -/
def NumFmt.enc : NumFmt → Nat
  | .fp64 => 0 | .fp32 => 1 | .fp16 => 2 | .bf16 => 3 | .d8 => 4 | .int8 => 5 | .nat8 => 6 | .int16 => 7
  | .nat16 => 8 | .int32 => 9 | .nat32 => 10 | .int64 => 11 | .nat64 => 12
/-- Rounding field (R37). -/
def roundEnc : Option Round → Nat
  | none => 0 | some .rn => 1 | some .rz => 2 | some .ru => 3 | some .rd => 4
/-- ISET condition code (R254). -/
def ICond.enc : ICond → Nat
  | .eq => 0 | .ne => 1 | .lts => 2 | .les => 3 | .ltn => 4 | .len => 5 | .gts => 6 | .gtn => 7
/-- FSET condition code (R254). -/
def FCond.enc : FCond → Nat
  | .eq => 0 | .ne => 1 | .lt => 2 | .le => 3 | .gt => 4 | .ge => 5 | .un => 6 | .ord => 7
/-- Combine code (R254). -/
def Combine.enc : Combine → Nat
  | .set => 0 | .and => 1 | .or => 2 | .xor => 3
/-- Scope code (R177). -/
def Scope.enc : Scope → Nat
  | .grp => 0 | .blk => 1 | .cls => 2 | .die => 3 | .dev => 4 | .sys => 5
/-- Policy code (R255). -/
def Policy.enc : Policy → Nat
  | .dflt => 0 | .stream => 1 | .l2only => 2
/-- A bit as a number. -/
def bitN (b : Bool) : Nat := if b then 1 else 0

/-- Format A (R243). -/
def fmtA (m d a b fn : Nat) : Nat := m * 67108864 + d * 524288 + a * 4096 + b * 32 + fn
/-- Format B (R243). -/
def fmtB (m p : Nat) (n : Bool) (off : Nat) : Nat := m * 67108864 + p * 4194304 + bitN n * 2097152 + off
/-- Format M (R243). -/
def fmtM (m d a f k la : Nat) : Nat := m * 67108864 + d * 524288 + a * 4096 + f * 256 + k * 16 + la
/-- Format X (R243). -/
def fmtX (m d a b t la : Nat) : Nat := m * 67108864 + d * 524288 + a * 4096 + b * 32 + t * 16 + la
/-- Format I (R243). -/
def fmtI (m d a imm : Nat) : Nat := m * 67108864 + d * 524288 + a * 4096 + imm
/-- Format W (R243). -/
def fmtW (m d slot imm : Nat) : Nat := m * 67108864 + d * 524288 + slot * 131072 + imm
/-- SYNC (R329). -/
def fmtSync (pd sc a b fn : Nat) : Nat := 0x0D * 67108864 + pd * 4194304 + sc * 524288 + a * 4096 + b * 32 + fn
/-- ISET, FSET and FSETS (R254). -/
def fmtSet (m pd cond a b fn : Nat) : Nat := m * 67108864 + pd * 4194304 + cond * 524288 + a * 4096 + b * 32 + fn

/-- Encodes the three-operand width-coded majors (R254). -/
def encI (m : Nat) (w : Width) (d a : GReg) (b op : Nat) : Nat := fmtA m d.enc a.enc b (w.enc * 8 + op)
/-- Encodes a floating-point function (R297). -/
def encF (fm : FpFmt) (q : Bool) (d a : GReg) (b fn : Nat) : Nat := fmtA (fm.major q) d.enc a.enc b fn
/-- Encodes an atomic (R320, R322). -/
def encAtom (m : Nat) (d : GReg) (a : BReg) (f : PReg) (k : Nat) (la : Fin 16) : Nat :=
  fmtM m d.enc a.enc f.val k la.val
/-- Encodes a format M word with kind R operands. -/
def encM (m : Nat) (d a : GReg) (f : PReg) (k : Nat) (la : Fin 16) : Nat := fmtM m d.enc a.enc f.val k la.val
/-- Encodes XLI (R254, R308). -/
def encXli (w : Width) (mode : Nat) (d a : GReg) (lane : Fin 32) (sub : Fin 8) : Nat :=
  fmtA 0x31 d.enc a.enc (w.enc * 32 + mode * 8 + sub.val) lane.val

/-- The word of an instruction as a number; an event has none. -/
def encodeNat : Instr → Option Nat
  | .nop => some 0
  | .exit => some 1
  | .trap c a => some (fmtA 0 0 a.enc c.val 2)
  | .rtt => some 3
  | .yield => some 4
  | .sleep a => some (fmtA 0 0 a.enc 0 5)
  | .nopre => some 6
  | .okpre => some 7
  | .mfs d s => some (fmtA 0 d.enc (s.val / 128) (s.val % 128) 8)
  | .mts s d => some (fmtA 0 d.enc (s.val / 128) (s.val % 128) 9)
  | .win a => some (fmtA 0 0 a.enc 0 10)
  | .awin a => some (fmtA 0 0 a.enc 0 11)
  | .fmtset a b => some (fmtA 0 0 a.enc b.enc 12)
  | .fmtget d => some (fmtA 0 d.enc 0 0 13)
  | .clock d => some (fmtA 0 d.enc 0 0 14)
  | .launch a b => some (fmtA 0 0 a.enc b.enc 15)
  | .record a => some (fmtA 0 0 a.enc 0 16)
  | .sigrst => some 17
  | .bkpt => some 18
  | .cue id => some (0x01 * 67108864 + id.toNat * 1024)
  | .sigck imm => some (0x02 * 67108864 + imm.toNat * 1024)
  | .stage b m => some (0x03 * 67108864 + b.val * 524288 + m.toNat)
  | .bra p n o => some (fmtB 0x04 p.val n o.toNat)
  | .brl p n o => some (fmtB 0x05 p.val n o.toNat)
  | .brd p n o => some (fmtB 0x06 p.val n o.toNat)
  | .join o => some (fmtB 0x07 0 false o.toNat)
  | .call o => some (0x08 * 67108864 + o.toNat)
  | .jmpr a => some (fmtA 0x09 0 a.enc 0 0)
  | .callr a => some (fmtA 0x09 0 a.enc 0 1)
  | .ret => some (fmtA 0x09 0 0 0 2)
  | .endj => some (fmtA 0x09 0 0 0 3)
  | .loop lc l s => some (0x0A * 67108864 + lc.val * 16777216 + l.toNat * 65536 + s.enc * 512)
  | .loopi lc l c => some (0x0B * 67108864 + lc.val * 16777216 + l.toNat * 65536 + c.toNat)
  | .gspan p n c => some (0x0C * 67108864 + p.val * 4194304 + bitN n * 2097152 + c.val * 131072)
  | .fenceAcq pd s => some (fmtSync pd.val s.enc 0 0 0)
  | .fenceRel pd s => some (fmtSync pd.val s.enc 0 0 1)
  | .fenceAr pd s => some (fmtSync pd.val s.enc 0 0 2)
  | .barInit id a => some (fmtSync 0 1 a.enc id.val 3)
  | .barArr id => some (fmtSync 0 1 0 id.val 4)
  | .barWait pd id => some (fmtSync pd.val 1 0 id.val 5)
  | .barSync pd id => some (fmtSync pd.val 1 0 id.val 6)
  | .cbarArr id => some (fmtSync 0 2 0 id.val 7)
  | .cbarWait pd id => some (fmtSync pd.val 2 0 id.val 8)
  | .cbarSync pd id => some (fmtSync pd.val 2 0 id.val 9)
  | .batch => some (fmtSync 0 0 0 0 10)
  | .bwait pd a => some (fmtSync pd.val 0 a.enc 0 11)
  | .waitm pd s a b => some (fmtSync pd.val s.enc a.enc b.enc 12)
  | .qfence a => some (fmtSync 0 0 a.enc 0 13)
  | .pgreq d a f la => some (encM 0x0E d a f 0 la)
  | .pgqry d a f la => some (encM 0x0E d a f 1 la)
  | .pref a f la => some (fmtM 0x0E 0 a.enc f.val 2 la.val)
  | .spl d a f la => some (fmtM 0x0E d.val a.enc f.val 3 la.val)
  | .fil d a f la => some (fmtM 0x0E d.val a.enc f.val 4 la.val)
  | .mapr d a f la => some (fmtM 0x0E d.enc a.enc f.val 5 la.val)
  | .syncr d f la => some (fmtM 0x0E d.enc 0 f.val 6 la.val)
  | .unmapr d f la => some (fmtM 0x0E d.enc 0 f.val 7 la.val)
  | .pgpin d a f la => some (encM 0x0E d a f 8 la)
  | .pgunpin d a f la => some (encM 0x0E d a f 9 la)
  | .ldu d a w f la => some (fmtM 0x0F d.enc a.enc f.val (bitN w) la.val)
  | .iadd w d a b => some (encI 0x10 w d a b.enc 0)
  | .isub w d a b => some (encI 0x10 w d a b.enc 1)
  | .iaddc w d a b => some (encI 0x10 w d a b.enc 2)
  | .isubb w d a b => some (encI 0x10 w d a b.enc 3)
  | .imul w d a b => some (encI 0x10 w d a b.enc 4)
  | .imulhs w d a b => some (encI 0x10 w d a b.enc 5)
  | .imulhn w d a b => some (encI 0x10 w d a b.enc 6)
  | .imad w d a b => some (encI 0x10 w d a b.enc 7)
  | .imins w d a b => some (encI 0x11 w d a b.enc 0)
  | .imaxs w d a b => some (encI 0x11 w d a b.enc 1)
  | .iminn w d a b => some (encI 0x11 w d a b.enc 2)
  | .imaxn w d a b => some (encI 0x11 w d a b.enc 3)
  | .iabs w d a => some (encI 0x11 w d a 0 4)
  | .imadw d a b => some (encI 0x11 .w64 d a b.enc 5)
  | .popc w d a => some (encI 0x11 w d a 0 6)
  | .clz w d a => some (encI 0x11 w d a 0 7)
  | .andR w d a b => some (encI 0x12 w d a b.enc 0)
  | .orR w d a b => some (encI 0x12 w d a b.enc 1)
  | .xorR w d a b => some (encI 0x12 w d a b.enc 2)
  | .andnR w d a b => some (encI 0x12 w d a b.enc 3)
  | .shl w d a b => some (encI 0x12 w d a b.enc 4)
  | .shr w d a b => some (encI 0x12 w d a b.enc 5)
  | .sar w d a b => some (encI 0x12 w d a b.enc 6)
  | .rot w d a b => some (encI 0x12 w d a b.enc 7)
  | .brev w d a => some (encI 0x13 w d a 0 0)
  | .bfxs w d a b => some (encI 0x13 w d a b.enc 1)
  | .bfxn w d a b => some (encI 0x13 w d a b.enc 2)
  | .bfi w d a b => some (encI 0x13 w d a b.enc 3)
  | .mov w d a => some (encI 0x13 w d a 0 4)
  | .prmb d a b => some (encI 0x13 .w64 d a b.enc 5)
  | .iadds w d a b => some (encI 0x13 w d a b.enc 6)
  | .iaddn w d a b => some (encI 0x13 w d a b.enc 7)
  | .iset c cb w pd a b => some (fmtSet 0x14 pd.val c.enc a.enc b.enc (w.enc * 8 + cb.enc))
  | .pand d a b => some (fmtA 0x15 d.val a.val b.val 0)
  | .por d a b => some (fmtA 0x15 d.val a.val b.val 1)
  | .pxor d a b => some (fmtA 0x15 d.val a.val b.val 2)
  | .pandn d a b => some (fmtA 0x15 d.val a.val b.val 3)
  | .pnot d a => some (fmtA 0x15 d.val a.val 0 4)
  | .pmov d a => some (fmtA 0x15 d.val a.val 0 5)
  | .addi d a i => some (fmtI 0x16 d.enc a.enc i.toNat)
  | .andi d a i => some (fmtI 0x17 d.enc a.enc i.toNat)
  | .ori d a i => some (fmtI 0x18 d.enc a.enc i.toNat)
  | .xori d a i => some (fmtI 0x19 d.enc a.enc i.toNat)
  | .shli d a i => some (fmtI 0x1A d.enc a.enc i.toNat)
  | .shri d a i => some (fmtI 0x1B d.enc a.enc i.toNat)
  | .sari d a i => some (fmtI 0x1C d.enc a.enc i.toNat)
  | .movw d s i => some (fmtW 0x1D d.enc s.val i.toNat)
  | .movk d s i => some (fmtW 0x1E d.enc s.val i.toNat)
  | .lea d a b s => some (fmtA 0x1F d.enc a.enc b.enc s.val)
  | .fadd m q d a b => some (encF m q d a b.enc 0)
  | .fsub m q d a b => some (encF m q d a b.enc 1)
  | .fmul m q d a b => some (encF m q d a b.enc 2)
  | .ffma m q d a b => some (encF m q d a b.enc 3)
  | .ffms m q d a b => some (encF m q d a b.enc 4)
  | .fnma m q d a b => some (encF m q d a b.enc 5)
  | .fmin m q d a b => some (encF m q d a b.enc 6)
  | .fmax m q d a b => some (encF m q d a b.enc 7)
  | .fabs m q d a => some (encF m q d a 0 8)
  | .fneg m q d a => some (encF m q d a 0 9)
  | .fcsgn m q d a b => some (encF m q d a b.enc 10)
  | .frndn m q d a => some (encF m q d a 0 11)
  | .frndz m q d a => some (encF m q d a 0 12)
  | .frndp m q d a => some (encF m q d a 0 13)
  | .frndm m q d a => some (encF m q d a 0 14)
  | .fclass m q d a => some (encF m q d a 0 15)
  | .frcp m q d a => some (encF m q d a 0 16)
  | .frsq m q d a => some (encF m q d a 0 17)
  | .fsqrt m q d a => some (encF m q d a 0 18)
  | .fdiv m q d a b => some (encF m q d a b.enc 19)
  | .fexp2 m q d a => some (encF m q d a 0 20)
  | .flog2 m q d a => some (encF m q d a 0 21)
  | .fscl m q d a b => some (encF m q d a b.enc 22)
  | .fset c cb m pd a b => some (fmtSet 0x28 pd.val c.enc a.enc b.enc (m.encSet * 8 + cb.enc))
  | .fsets c cb m pd a b => some (fmtSet 0x29 pd.val c.enc a.enc b.enc (m.encSet * 8 + cb.enc))
  | .cvt dst src rm sat d a =>
    some (fmtA 0x2A d.enc a.enc (dst.enc * 8 + roundEnc rm) (src.enc * 2 + bitN sat))
  | .qpush q a n => some (fmtA 0x2B q.val (112 + a.val) n.val 0)
  | .qpop d q => some (fmtA 0x2B d.enc q.val 0 1)
  | .qtry d q => some (fmtA 0x2B d.enc q.val 0 2)
  | .qbind q a => some (fmtA 0x2B q.val a.enc 0 3)
  | .qstat d q => some (fmtA 0x2B d.enc q.val 0 4)
  | .qdrain d q => some (fmtA 0x2B d.enc q.val 0 5)
  | .ecpy q a n => some (fmtA 0x2C q.val (112 + a.val) n.val 0)
  | .egath q a n => some (fmtA 0x2C q.val (112 + a.val) n.val 1)
  | .escat q a n => some (fmtA 0x2C q.val (112 + a.val) n.val 2)
  | .ercpy q a n => some (fmtA 0x2C q.val (112 + a.val) n.val 3)
  | .efill q a n => some (fmtA 0x2C q.val (112 + a.val) n.val 4)
  | .emig q a n => some (fmtA 0x2C q.val (112 + a.val) n.val 5)
  | .laclr d n => some (fmtA 0x2D d.val 0 n.val 0)
  | .laadd d a => some (fmtA 0x2D d.val a.enc 0 1)
  | .laadds d a => some (fmtA 0x2D d.val a.enc 0 2)
  | .lasub d a => some (fmtA 0x2D d.val a.enc 0 3)
  | .lamad d a b => some (fmtA 0x2D d.val a.enc b.enc 4)
  | .lamsb d a b => some (fmtA 0x2D d.val a.enc b.enc 5)
  | .ladot d a b => some (fmtA 0x2D d.val a.enc b.enc 6)
  | .lamrg d a => some (fmtA 0x2D d.val a.val 0 7)
  | .lamov d a => some (fmtA 0x2D d.val a.val 0 8)
  | .laxl d a b => some (fmtA 0x2D d.val a.val b.enc 9)
  | .laxb d a k => some (fmtA 0x2D d.val a.val k.val 10)
  | .lacrs d n => some (fmtA 0x2D d.val 0 n.val 11)
  | .laflg d a => some (fmtA 0x2D d.enc a.val 0 12)
  | .laput d a k => some (fmtA 0x2D d.val a.enc k.val 13)
  | .laneg d a => some (fmtA 0x2D d.val a.val 0 14)
  | .larnd d a fo rm la =>
    some (fmtX 0x2E d.enc a.val ((match fo with | none => 15 | some f => f.enc) * 8 + roundEnc rm) 0 la.val)
  | .laseg d a k la => some (fmtX 0x2E d.enc a.val k.val 1 la.val)
  | .mma d a b t la => some (fmtX 0x2F d.val a.val b.val (bitN t) la.val)
  | .xln k w d a b => some (fmtA 0x30 d.enc a.enc b.enc (w.enc * 8 + bitN k * 4))
  | .xliBfly w d a l s => some (encXli w 0 d a l s)
  | .xliBcast w d a l s => some (encXli w 1 d a l s)
  | .xliRotup w d a l s => some (encXli w 2 d a l s)
  | .xliRotdn w d a l s => some (encXli w 3 d a l s)
  | .qxh d a => some (fmtA 0x32 d.enc a.enc 0 0)
  | .qxv d a => some (fmtA 0x32 d.enc a.enc 0 1)
  | .qxd d a => some (fmtA 0x32 d.enc a.enc 0 2)
  | .qbc0 d a => some (fmtA 0x32 d.enc a.enc 0 3)
  | .qbc1 d a => some (fmtA 0x32 d.enc a.enc 0 4)
  | .qbc2 d a => some (fmtA 0x32 d.enc a.enc 0 5)
  | .qbc3 d a => some (fmtA 0x32 d.enc a.enc 0 6)
  | .vany d a => some (fmtA 0x33 d.val a.val 0 0)
  | .vall d a => some (fmtA 0x33 d.val a.val 0 1)
  | .vbal d a => some (fmtA 0x33 d.enc a.val 0 2)
  | .mbcnt d a => some (fmtA 0x33 d.enc a.enc 0 3)
  | .vfirst d a => some (fmtA 0x33 d.enc a.val 0 4)
  | .mmas d a b t la => some (fmtX 0x34 d.val a.val b.val (bitN t) la.val)
  | .last d a f la => some (fmtM 0x35 d.val a.enc f.val 0 la.val)
  | .lald d a f la => some (fmtM 0x35 d.val a.enc f.val 1 la.val)
  | .ld z p d a f la => some (encM 0x38 d a f ((match z with | .b64 => 0 | .n32 => 1 | .s32 => 2) * 4 + p.enc) la)
  | .ldx z p d a f la =>
    some (encM 0x39 d a f ((match z with | .n8 => 0 | .s8 => 1 | .n16 => 2 | .s16 => 3) * 4 + p.enc) la)
  | .st z p d a f la => some (encM 0x3A d a f ((match z with | .b64 => 0 | .b32 => 1) * 4 + p.enc) la)
  | .stx z p d a f la => some (encM 0x3B d a f ((match z with | .b8 => 0 | .b16 => 2) * 4 + p.enc) la)
  | .lds w d a f la => some (encM 0x3C d a f w.enc la)
  | .ldsc w d a f la => some (encM 0x3C d a f (4 + w.enc) la)
  | .sts w d a f la => some (encM 0x3C d a f (8 + w.enc) la)
  | .stsc w d a f la => some (encM 0x3C d a f (12 + w.enc) la)
  | .atomAdd d a f la => some (encAtom 0x3D d a f 0 la)
  | .atomMins d a f la => some (encAtom 0x3D d a f 1 la)
  | .atomMaxs d a f la => some (encAtom 0x3D d a f 2 la)
  | .atomMinn d a f la => some (encAtom 0x3D d a f 3 la)
  | .atomMaxn d a f la => some (encAtom 0x3D d a f 4 la)
  | .atomAnd d a f la => some (encAtom 0x3D d a f 5 la)
  | .atomOr d a f la => some (encAtom 0x3D d a f 6 la)
  | .atomXor d a f la => some (encAtom 0x3D d a f 7 la)
  | .atomXchg d a f la => some (encAtom 0x3D d a f 8 la)
  | .atomCas d a f la => some (encAtom 0x3D d a f 9 la)
  | .atomIncw d a f la => some (encAtom 0x3D d a f 10 la)
  | .atomwAdd d a f la => some (encAtom 0x3E d a f 0 la)
  | .atomwMins d a f la => some (encAtom 0x3E d a f 1 la)
  | .atomwMaxs d a f la => some (encAtom 0x3E d a f 2 la)
  | .atomwMinn d a f la => some (encAtom 0x3E d a f 3 la)
  | .atomwMaxn d a f la => some (encAtom 0x3E d a f 4 la)
  | .atomwAnd d a f la => some (encAtom 0x3E d a f 5 la)
  | .atomwOr d a f la => some (encAtom 0x3E d a f 6 la)
  | .atomwXor d a f la => some (encAtom 0x3E d a f 7 la)
  | .atomwXchg d a f la => some (encAtom 0x3E d a f 8 la)
  | .atomwCas d a f la => some (encAtom 0x3E d a f 9 la)
  | .atomwIncw d a f la => some (encAtom 0x3E d a f 10 la)
  | .ataccAddv d a f la => some (encAtom 0x3F d a f 0 la)
  | .ataccAddp d a f la => some (encAtom 0x3F d a f 1 la)
  | .ataccClr d a f la => some (encAtom 0x3F d a f 2 la)
  | _ => none

/-- The words of an instruction: one, or none for an event (R242). -/
def encode (i : Instr) : List (BitVec 32) :=
  match encodeNat i with
  | some n => [BitVec.ofNat 32 n]
  | none => []

/-- The word of an instruction, as R157 hashes it. -/
def encodeWord (i : Instr) : BitVec 32 := BitVec.ofNat 32 ((encodeNat i).getD 0)

end Sys2Proof
end

