-- ==== Sys2Proof/Config.lean ====
section
/-! DEFINITION. What the manual leaves open, as opaque constants (no value can be proved of them), each named in the
assumption log; and the sizes the manual fixes for the OZ4-144. -/

namespace Sys2Proof.Config

/-- How many clocks beyond the first the k-th step takes (log 1). The manual gives bounds only (R7). -/
opaque freeDelay : Nat → BitVec 16

/-- What device-private byte the k-th private save-slot byte holds (R88; log 12). -/
opaque freePrivate : Nat → Byte

/-- Which of two allowed rounds an unordered contribution joins (R383; log 13). -/
opaque freeRound : Nat → Bool

/-- Whether a location of a failed round holds the final value (R385; log 13). -/
opaque freeFailed : Nat → Bool

/-- The SHA-512 digest of image i at version v, and of the retirement record of a given length (R404; log 14). -/
opaque digest : Nat → Nat → BitVec 512

/-- The public part of the n-th identity key, the certificate that chains it to Nirtiven's root, and the RSA-4096 signature
of the n-th key over a measurement by its index and value (R26, R404; log 64). -/
opaque identityKey : Nat → BitVec 4096
@[inherit_doc identityKey] opaque certificate : Nat → List Byte
@[inherit_doc identityKey] opaque signature : Nat → Nat → BitVec 512 → BitVec 4096

/-- The SHA-512 hash of the RSA-4096 public key that comes with the signature of the k-th image offered, by image and version
(R404; log 64). -/
opaque imageKey : Nat → Nat → Nat → BitVec 512

/-- The temperature, power and other sensor readings that PLDM reports (R26; log 14). -/
opaque sensor : Nat → Nat → Dword

/-- In which order lanes of one instruction that name one location perform their operations (R180; log 18): lanes in
ascending order of their rank, the k-th time. -/
opaque freeRank : Nat → Nat → Nat

/-- Whether another lane's access is performed when a lane of the instruction meets POISON (R313; log 19). -/
opaque freeLane : Nat → Nat → Bool

/-- The refusal of the k-th KEY_RETIRE of an EMPTY slot: a nonzero status of R83, less 1 (R87; log 24). -/
opaque freeRefusal : Nat → Fin 10

/-- The final image of a location of a round that failed, where this module never received it (R385; log 13). -/
opaque freeFinal : Nat → BitVec 1024

/-- Whether the switch at the far end of UALink port n offers reduction slots (R374; log 11). -/
opaque freeSlots : Nat → Bool

/-- Whether a context with frames on a die has a dirty line in that die's L2 at a warm reset (R398; log 29). -/
opaque freeDirty : Nat → Bool

/-- Which of the words that a group may fetch at an address, the current one or an older one, the k-th such fetch gives
(R192; log 46). -/
opaque freeFetch : Nat → Nat

/-- What the hardware finds for a byte of a save slot that no link carries, by its physical address (R21; log 80). -/
opaque freeLost : Nat → Byte

end Sys2Proof.Config
end

