-- ==== Sys2Proof/Machine/State.lean ====
section
/-! DEFINITION. The state of one OZ4-144 module, as plain data: everything the manual gives the machine, listed with
its rules in INVENTORY.md. Maps are lists of (key, value) pairs with keys strictly rising; their operations are in
Machine/Ops.lean. -/

namespace Sys2Proof.Machine

/-- A sparse map: (key, value) pairs, keys strictly rising. -/
abbrev AMap (V : Type) := List (Nat × V)

/-- The faults of R394. `user c` is TRAP with user code c (R273). -/
inductive Trap where
  | illegal | reservedField | lookahead | membership | barrierMask | stackOverflow | loopNest | windowRange
  | allotment | format | gang | pageAbsent | protection | alignment | spill | region | key | poison | signature
  | remoteLoss | bookFull | queueHalted | nopreLimit | user (c : BitVec 8) | bkpt | clusterLost
deriving DecidableEq, Repr

/-- A long accumulator (R59, R60, R397): seg0 to seg9 side by side, car0 to car8, GUARD (car9), the status bits, and
the poison mark. -/
structure LA where
  seg : BitVec 640 := 0
  car : List Int := [0, 0, 0, 0, 0, 0, 0, 0, 0]
  guard : Int := 0
  inUse : Bool := false
  dirty : Bool := false
  ovf : Bool := false
  nan : Bool := false
  pinf : Bool := false
  ninf : Bool := false
  invalid : Bool := false
  bad : Bool := false
deriving DecidableEq, Repr

/-- An entry of the reconvergence stack (R139). -/
structure RsEntry where
  path : Bool
  fmt : Dword
  pc : Dword
  mask : Mask
deriving DecidableEq, Repr

/-- A loop counter with its loop (R152, R153, R89): `order` numbers the starts, latest highest. -/
structure LoopCtr where
  active : Bool := false
  count : BitVec 32 := 0
  start : Dword := 0
  len : Nat := 0
  order : Nat := 0
deriving DecidableEq, Repr

/-- A result pending under a lookahead, or a promise not yet used up (R150): the promising instruction's address,
instructions still promised, the result set, and the writes to land. -/
structure Pend where
  addr : Dword
  left : Nat
  landed : Bool
  resV : List Nat
  resS : List Nat
  resP : List Nat
  resA : List Nat
  vw : AMap Dword
  sw : AMap Dword
  pw : AMap (BitVec 8)
  lw : AMap (Bool × LA)
deriving DecidableEq, Repr

/-- What kind of code an INH = 1 group runs (R143). -/
inductive Routine where
  | none | handler | save (cue : BitVec 16) | restore
deriving DecidableEq, Repr

/-- The latch of an idempotent region (R118, R155): RSDEPTH whole, with the kind of code that INH stands for. -/
structure RegionLatch where
  lo : Dword
  hi : Dword
  pc : Dword
  exec : Mask
  fmt : Dword
  depth : Nat
  stack : List RsEntry
  gmask : Mask
  grem : Nat
  gheld : Nat
  ghold : Mask
  inh : Bool
  routine : Routine := .none
deriving DecidableEq, Repr

/-- A completion record waiting at a queue register (R101, R109); one that a refused bind places has no record pushed
(R108). -/
structure Completion where
  value : Dword
  extra : Dword
  copy : Bool
  batch : Option Nat
  pushed : Bool := true
deriving DecidableEq, Repr

/-- A queue register's own state (R108, R109, R334). -/
structure QRegState where
  halted : Bool
  slot : Nat
  outstanding : Nat
  done : List Completion
deriving DecidableEq, Repr

/-- A closed batch (R171, R172): its number, records not complete, whether one failed. -/
structure BatchRec where
  num : Nat
  left : Nat
  failed : Bool
deriving DecidableEq, Repr

/-- States of a group (R159). -/
inductive GState where
  | running | blocked | saving | saved | restoring | halted | exited
deriving DecidableEq, Repr

/-- Why a group is BLOCKED (R159); `met` says that a re-test of WAITM has found its location changed (R170). -/
inductive Wait where
  | sleep (until_ : Nat)
  | bar (cls : Bool) (id : Nat)
  | batch
  | mem (deadline : Option Nat) (met : Bool)
  | queue
  | latch
  | grant
deriving DecidableEq, Repr

/-- How a saved group is to resume (R89, R90). -/
inductive SaveKind where
  | routine | dump | restart
deriving DecidableEq, Repr

/-- A group of 32 lanes (R122, R135 to R159, R162, R171, R258, R343, R363, R392). Register files are sparse, what is not
listed is 0: `sregs` by number, `vregs` by 32 × physical register + lane, `preds` by 32 × predicate + lane; `regBad`
names the words that hold an uncorrectable error (R397), a lane's word of a vector register by its key, a scalar register by
2^16 + its number, a lane's predicate by 2^17 + its key, and `wingBad` the words of vector registers whose copy in the wings
does. `synced` lists the BAR.SYNC and CBAR.SYNC, by class, barrier and address, whose arrival stands though their
wait was cut short (R173); `limitDue` says that NOPRE_LIMIT awaits the group's next instruction boundary (R275); `acqAt`
is the clock at which it last acquired or took a value of memory, or of its placement (R383); `relAt` that of its last
release (R192). -/
structure Group where
  blk : Nat
  idx : Nat
  quad : Nat
  slot : Nat
  st : GState := .running
  pc : Dword := 0
  exec : Mask := 0xFFFFFFFF
  lmem : Mask := 0xFFFFFFFF
  fmt : Dword := 0
  wbase : Nat := 0
  awbase : Nat := 0
  stack : List RsEntry := []
  gmask : Mask := 0
  grem : Nat := 0
  gheld : Nat := 0
  ghold : Mask := 0
  inh : Bool := false
  lc0 : LoopCtr := {}
  lc1 : LoopCtr := {}
  lc2 : LoopCtr := {}
  fpxNV : Mask := 0
  fpxDZ : Mask := 0
  fpxOF : Mask := 0
  fpxUF : Mask := 0
  fpxNX : Mask := 0
  sig : BitVec 17 := 0
  trapCause : BitVec 8 := 0
  trapPc : Dword := 0
  trapVal : Dword := 0
  gang : Dword := 0
  mdata : Dword := 0
  sregs : AMap Dword := []
  vregs : AMap Dword := []
  preds : AMap (BitVec 8) := []
  regBad : List Nat := []
  wingBad : List Nat := []
  qregs : AMap QRegState := []
  pend : List Pend := []
  wings : List Nat := []
  staging : Bool := false
  urg : Nat := 0
  lastIssue : Nat := 0
  acqAt : Nat := 0
  relAt : Nat := 0
  region : Option RegionLatch := none
  nopre : Option Nat := none
  wait : Option (Instr × Wait) := none
  synced : List (Bool × Nat × Dword) := []
  fenceAt : Option Nat := none
  stalled : Bool := false
  held : Option Instr := none
  lastBatch : Nat := 0
  openRecs : Nat := 0
  openFailed : Bool := false
  batches : List BatchRec := []
  observed : AMap (BitVec 40) := []
  routine : Routine := .none
  lost : Bool := false
  limitDue : Bool := false
  kind : SaveKind := .dump
  cueId : BitVec 16 := 0
  restorePc : Dword := 0
  yieldAt : Option Nat := none
deriving DecidableEq, Repr

/-- A named or cluster barrier (R162, R168): members are bits rank × 32 + group. -/
structure Bar where
  mask : BitVec 128
  arr : BitVec 128 := 0
  phase : BitVec 16 := 0
  abnd : Bool := false
  lph : AMap (BitVec 16) := []
  lst : BitVec 128 := BitVec.allOnes 128
  seen : BitVec 128 := 0
deriving DecidableEq, Repr

/-- An open scratchpad region (R231). -/
structure Region where
  va : Dword
  wr : Bool
  len : Nat
  sp : Nat
deriving DecidableEq, Repr

/-- Where a block stands (R90, R91, R128). -/
inductive BState where
  | placed | saved
deriving DecidableEq, Repr

/-- A block (R122, R123, R128, R162, R231, R317, R326, R343, R388). `core` is the physical core's index die × 40 +
bay × 4 + core, fixed while placed; `las` is keyed by 32 × index + lane, what is not listed is the LA of R61; `pre` is the
clock of a pre-emption request that is pending (R90); `marks`
holds bit 0 present and bit 1 dirty of a scratchpad byte of an open region (R232). -/
structure Block where
  ctx : Nat
  launch : Nat
  clu : Nat
  rank : Nat
  id : Nat
  x : Nat
  y : Nat
  z : Nat
  core : Nat
  lcore : Nat
  slot : Nat
  st : BState := .placed
  groups : Nat
  vregs : Nat
  lapl : Nat
  spadKB : Nat
  barsN : Nat
  bars : AMap Bar := []
  las : AMap LA := []
  spad : AMap Byte := []
  spadBad : AMap Nat := []
  marks : AMap Byte := []
  regions : AMap Region := []
  accin : Dword := 0
  bin : Option (Nat × Nat) := none
  saveAt : Option (Nat × Nat) := none
  early : Bool := false
  pre : Option Nat := none
  everSaved : Bool := false
deriving DecidableEq, Repr

/-- A cluster (R122, R168): its barriers; `aborted` after a core withdrawal (R129). -/
structure Cluster where
  launch : Nat
  num : Nat
  die : Nat
  bay : Nat
  size : Nat
  bars : AMap Bar := []
  aborted : Bool := false
deriving DecidableEq, Repr

/-- A kernel header (R116). -/
structure Header where
  code : Dword
  pinned : Bool
  sigen : Bool
  csize : Nat
  bars : Nat
  spadKB : Nat
  lapl : Nat
  vregs : Nat
  groups : Nat
  comm : Option Nat
  safeTab : Dword
  safeN : Nat
  idemTab : Dword
  idemN : Nat
  privBase : Dword
  privLane : Nat
deriving DecidableEq, Repr

/-- States of a launch that has reached its queue's head (R131); a QUEUED launch is a record of its queue. -/
inductive LState where
  | waiting | placing | running
deriving DecidableEq, Repr

/-- A launch (R121 to R132). `producers` are the launches of R125 that are incomplete; `queuedProd` those that were still
records of a queue, by queue and SEQ; `prodDeps` the DEPs that name a producer; `detached` says that its queue has been
destroyed since. -/
structure Launch where
  ctx : Nat
  queue : QRef
  seq : Nat
  event : Dword
  st : LState
  cls : Nat
  early : Bool
  floor : Nat
  hdrAt : Dword
  args : Dword
  gx : Nat
  gy : Nat
  gz : Nat
  deps : List Dword
  producers : List Nat
  queuedProd : List (QRef × Nat) := []
  prodDeps : List Nat := []
  detached : Bool := false
  depFailed : Bool := false
  hdr : Option Header := none
  regions : List (Nat × Nat) := []
  order : Nat := 0
  nextClu : Nat := 0
  retired : Nat := 0
  halted : Bool := false
  noCluster : Bool := false
  waitSince : Nat := 0
  starved : Bool := false
  det : Bool := false
deriving DecidableEq, Repr

/-- Context states (R84); FREE contexts are not listed. -/
inductive CState where
  | defined | loading | resident | saving | wiping
deriving DecidableEq, Repr

/-- Why a context is SAVING (R84, R85): `evict` names the context that its slot is for. -/
inductive SaveWhy where
  | none | suspend | evict (waiter : Nat)
deriving DecidableEq, Repr

/-- A backing entry (R234, R235). -/
structure Backing where
  vpn : Nat
  count : Nat
  large : Bool
  src : Nat
  gran : Nat
  perm : Nat
  attr : Nat
  die : Option Nat
deriving DecidableEq, Repr

/-- A valid collective table entry as read at install (R379, R380). -/
structure CollEntry where
  base : Nat
  pages : Nat
  fmt : Nat
  rooted : Bool
  swred : Bool
  e2e : Bool
  root : Nat
  myRank : Nat
  nrank : Nat
  close : Dword
  flag : Dword
  rmap : List Nat
  timeout : Nat
  ph : Nat
deriving DecidableEq, Repr

/-- A context (R79, R81, R84 to R90). `pins` keys pinned spill bytes by die × 2^25 + offset; `collsNew` is a replaced
collective table that entries with a round in progress do not follow yet (R87). -/
structure Ctx where
  st : CState
  held : Bool := false
  classMax : Nat := 0
  epMax : Nat := 64
  priv : Bool := false
  pinned : Bool := false
  keySlot : Nat := 0
  pinPages : List Nat := [0, 0, 0, 0]
  handler : Dword := 0
  saveBase : Dword := 0
  savePages : Nat := 0
  collTab : Dword := 0
  collN : Nat := 0
  srate : Nat := 0
  det : Bool := false
  obs : Bool := false
  sched : Nat := 0
  place : Bool := false
  served : Nat := 0
  loaded : Nat := 0
  idleSince : Nat := 0
  why : SaveWhy := .none
  pins : AMap Byte := []
  backing : AMap Backing := []
  colls : AMap CollEntry := []
  collsNew : Option (AMap CollEntry) := none
deriving DecidableEq, Repr

/-- A key slot that is not EMPTY (R87). -/
structure KeySlot where
  retiring : Bool
  bytes : List Byte
deriving DecidableEq, Repr

/-- A record in a queue (R97, R100): eight dwords, its sequence number, when it started, the work it has done or still
waits for, and for an endpoint the pushing group and register, whether it is a copy record and the batch that closed it
(R171); `buf` is the descriptor or key block it has read (R428). A fence entry (R111) has no dwords and carries the
fence's number. -/
structure QRec where
  dw : List Dword
  seq : Nat
  started : Option Nat := none
  work : Nat := 0
  owner : Option (Nat × Nat) := none
  copy : Bool := false
  batch : Option Nat := none
  fence : Option Nat := none
  buf : List Byte := []
deriving DecidableEq, Repr

/-- A host-fed queue that is not FREE (R96, R97, R106, R107). `killer` is the QUEUE_DESTROY that waits on it. -/
structure HostQ where
  halted : Bool
  depth : Nat
  cls : Nat
  ctx : Nat
  nextSeq : Nat
  recs : List QRec
  dying : Bool := false
deriving DecidableEq, Repr

/-- An endpoint queue (R108, R109). -/
structure EpQ where
  kind : Nat
  die : Nat
  recs : List QRec
  nextSeq : Nat
  bound : Nat
deriving DecidableEq, Repr

/-- A completion event that waits for its page (R102): the record it belongs to, the address and the value. -/
structure EvWrite where
  ctx : Nat
  queue : QRef
  seq : Nat
  addr : Dword
  value : Dword
deriving DecidableEq, Repr

/-- A completion that is to be delivered when its context is resident again (R92). -/
structure LateDone where
  ctx : Nat
  done : QRec
  status : Nat
  extra : Dword
deriving DecidableEq, Repr

/-- States of a page-table entry (R222). -/
inductive PState where
  | free | requested | resident | pinned | migrating | deferred | poisoned | retired
deriving DecidableEq, Repr

/-- A frame entry that is not FREE (R222); `bad` says that its page has been POISONED since it was mapped, which STATE does
not show while the page is MIGRATING (R227). -/
structure Frame where
  vpn : Nat
  ctx : Nat
  key : Nat
  next : BitVec 24
  st : PState
  gran : Nat
  perm : Nat
  reduce : Bool
  accum : Bool
  observed : Bool
  large : Bool
  pincnt : Nat
  rcnt : Nat
  bad : Bool := false
deriving DecidableEq, Repr

/-- An aperture entry that is RESIDENT (R222). -/
structure Aperture where
  vpn : Nat
  ctx : Nat
  next : BitVec 24
  perm : Nat
  reduce : Bool
  target : Nat
deriving DecidableEq, Repr

/-- Page-engine work on a frame (R230, R233, R235, R236): a fill; a migration to a frame, with who asked for it and the
frames it retires; a migration or an unmap that waits for RCNT; a migration that an unmap waits for; a retirement that
waits for PINCNT. They are keyed by the page's first frame; an aperture entry's by 2^23 + its key, the mark of a frame
to be retired by 2^24 + the frame. -/
inductive PageOp where
  | fill (src : Nat)
  | migrate (dst : Nat) (gran : Nat) (who : Option QRef) (retire : List Nat)
  | deferMigrate (die : Option Nat) (gran : Nat) (who : Option QRef) (retire : List Nat)
  | deferUnmap (out : Nat) (who : Option QRef)
  | unmapAfter (dst : Nat) (gran : Nat) (mover : Option QRef) (retire : List Nat) (out : Nat) (who : Option QRef)
  | retireMark
deriving DecidableEq, Repr

/-- The directory entry of a quarter (R203, R204): protocol state, holders, those of them that have a copy to read (R208,
R210), whether the owner's copy is dirty, the request staged by an entry into a non-stable state, the acknowledgements on
their way (IACK, FACK), and the requests held. -/
structure DirE where
  st : Nat := 0
  holders : BitVec 43 := 0
  copies : BitVec 43 := 0
  owner : Option Nat := none
  dirty : Bool := false
  staged : Option (Nat × CohReq) := none
  iack : Bool := false
  fack : Bool := false
  held : List (Nat × CohReq) := []
deriving DecidableEq, Repr

/-- A range map entry (R205). -/
structure RangeE where
  base : Nat
  pages : Nat
  pid : Nat
deriving DecidableEq, Repr

/-- A protocol table (R207): header fields and 256 entries. -/
structure CohTable where
  stable : Nat
  comm : Bool
  ns : Nat
  hold : List Nat
  entries : List Nat
deriving DecidableEq, Repr

/-- A buffered commutative update (R178): the group, its core, the location, the operation or cell contribution, and
the context and agent of its ACCESS record where one is due (R409); `due` marks one that is to merge as soon as the way to
its home is open (R204, R375, R377), and `bad` one whose L1 line holds an uncorrectable error (R397). A store that another
module is to receive after an update kept here is kept behind it as an exchange (R181). -/
structure Upd where
  grp : Nat
  core : Nat
  key : Nat
  pa : Nat
  size : Nat
  op : AtomOp
  v : Dword
  cell : Option LA
  note : Option (Nat × Dword) := none
  due : Bool := false
  bad : Bool := false
deriving DecidableEq, Repr

/-- A write posted to another module by a partition and not yet acknowledged, with the launch of its group (R182, R191,
R371). -/
structure Posted where
  grp : Nat
  part : Nat
  peer : Nat
  pa : Nat
  data : List Byte
  launch : Nat := 0
deriving DecidableEq, Repr

/-- States of a port (R373 to R375), in the order of LSTAT.STATE. -/
inductive LinkSt where
  | down | training | up | degraded | retraining | dead | isolated
deriving DecidableEq, Repr

/-- A UALink or PCIe port (R374, R375): `since` is the clock of its last change, `wasWidth` the width before
RETRAINING. -/
structure Port where
  st : LinkSt
  width : Nat
  swr : Bool := false
  retrains : Nat := 0
  lseq : Nat := 0
  everUp : Bool := false
  fails : Nat := 0
  since : Nat := 0
  wasWidth : Nat := 0
deriving DecidableEq, Repr

/-- Drain rounds of a plane (R377): the round in progress, 1 to 3, when it began, and the pod position concerned, none
for every position. -/
structure Drain where
  plane : Nat
  round : Nat
  since : Nat
  pos : Option Nat
deriving DecidableEq, Repr

/-- A link-state update and the ports it is flooded on (R376). -/
structure Lsu where
  origin : Nat
  plane : Nat
  st : Nat
  seq : Nat
  on : List Nat
deriving DecidableEq, Repr

/-- Collective messages this module sends (R384, R387, R390), to a rank or to the switch of a plane. `partsEnd` and
`mergedEnd` say that all partials, or all merged images, of a round have been sent. -/
inductive CollMsg where
  | part (ctx entry round loc rank : Nat) (image : List Byte)
  | partsEnd (ctx entry round rank : Nat)
  | slot (ctx entry round loc plane : Nat) (image : List Byte)
  | merged (ctx entry round loc rank : Nat) (image : List Byte)
  | mergedEnd (ctx entry round rank : Nat)
  | ack (ctx entry round rank : Nat)
  | suspend (ctx entry round rank : Nat)
  | resume (ctx entry rank : Nat)
  | abort (ctx entry rank : Nat)
deriving DecidableEq, Repr

/-- A partial of a round that this rank's reducer has not come to yet (R384). -/
structure EarlyPart where
  round : Nat
  loc : Nat
  rank : Nat
  mask : BitVec 512
  image : List Byte
deriving DecidableEq, Repr

/-- A merged image, or the end of a reducer's, that has reached a rank while its context is not resident (R390). -/
structure EarlyImage where
  round : Nat
  loc : Nat
  image : List Byte
deriving DecidableEq, Repr

/-- The rounds of a collective table entry at this rank (R382 to R390): rounds closed, reduced here and completed; the
endpoint slot of the close in progress; contributions of the open round and of the closed one; what this rank's reducer
has merged for the round after `reduced`, with the ranks counted, and the ranks all of whose partials are in; merged
images not yet written or landed, and the locations that are; the reducers all of whose images are in; the ranks that
have acknowledged, and whether this one has; the status a round is ending with, and one that the next close is to end
with; suspended ranks, since when, and what is held for them; the round timer, or the clocks it has left, plus 1;
locations sent to a switch slot; the clock of the last close; partials of later rounds, and images that wait for the
context. -/
structure Rounds where
  closed : Nat := 0
  reduced : Nat := 0
  completed : Nat := 0
  slot : Nat := 0
  openC : AMap LA := []
  closedC : AMap LA := []
  merged : AMap (BitVec 512 × LA) := []
  fin : BitVec 512 := 0
  todo : AMap (List Byte) := []
  written : List Nat := []
  deliv : BitVec 512 := 0
  acks : BitVec 512 := 0
  acked : Bool := false
  ending : Option Nat := none
  failed : Option Nat := none
  suspended : List Nat := []
  suspAt : Nat := 0
  heldOut : List CollMsg := []
  due : Option Nat := none
  left : Nat := 0
  slots : List Nat := []
  selfSuspended : Bool := false
  closedAt : Nat := 0
  early : List EarlyPart := []
  inbox : List EarlyImage := []
deriving DecidableEq, Repr

/-- Health states (R399). -/
inductive Health where
  | nominal | degraded | replaceAdvised | failed
deriving DecidableEq, Repr

/-- A rehearsal in progress (R401): who asked, and when it started. -/
structure Rehearsal where
  who : Option QRef
  since : Nat
deriving DecidableEq, Repr

/-- An entry of the management log (R25, R93, R97, R102, R212, R373, R395, R399). -/
inductive LogE where
  | dropped (port off : Nat)
  | lostEvent (ctx : Nat) (q : QRef) (seq status : Nat)
  | halt (ctx seq block group core : Nat) (code : BitVec 8) (pc val : Dword)
  | aborted (ctx : Nat) (seq : Nat)
  | tableError (st ev : Nat)
  | lostStore (port : Nat)
  | fillError (frame : Nat)
  | memError (pa : Nat)
  | junction (die : Nat)
  | shutdown (die : Nat)
  | health (h : Health)
  | refused (what : Nat)
deriving DecidableEq, Repr

/-- Answers of the management controller (R26, R404): a measurement goes with the identity key's public part, its
certificate and the signature. -/
inductive MgmtOut where
  | pldm (sensor : Nat) (value : Dword)
  | measure (index : Nat) (value : BitVec 512) (key : BitVec 4096) (cert : List Byte) (signature : BitVec 4096)
deriving DecidableEq, Repr

/-- What the ECC of a memory reports (R397, R400): a corrected error in the SRAM of a core or in a frame of HBM, and an
uncorrectable one in a line of an L2 or of a remote-data cache, by its key identifier and address. -/
inductive EccReport where
  | core (core : Nat)
  | frame (id : Nat)
  | line (key pa : Nat)
deriving DecidableEq, Repr

/-- A die's book (R405 to R408): `held` is the first frame and the number of those it reserves. -/
structure Book where
  arm : Bool := false
  aerr : Bool := false
  sealed : Bool := false
  held : Option (Nat × Nat) := none
  base : Nat := 0
  pages : Nat := 0
  head : Nat := 0
  tail : Nat := 0
  count : Nat := 0
deriving DecidableEq, Repr

/-- An open gang latch (R365): core, block, GID, MODE, SIZE, whether it is MMAS, the FMT fields taken, and the
members presented, member index to group; `seen` lists the member indices that groups of the block have held. -/
structure Latch where
  core : Nat
  blk : Nat
  gid : Nat
  mode : Nat
  size : Nat
  sparse : Bool
  fmt : Dword
  members : AMap Nat
  seen : List Nat := []
deriving DecidableEq, Repr

/-- Who moves next: an event of the agenda, or a group's next instruction. -/
inductive Turn where
  | event (i : Instr)
  | issue (g : Nat)
deriving DecidableEq, Repr

/-- A word that has been overwritten (R192): what it was, the group that overwrote it and the clock, none once the write
happens-before what follows, and the launches that may still fetch it. -/
structure StaleWord where
  word : BitVec 32
  by_ : Option (Nat × Nat)
  launches : List Nat
deriving DecidableEq, Repr

/-- The module. Keys: `mem` key identifier × 2^52 + physical address; `anchors` and `frames` stack × 2^20 + number;
`aperts` stack × 2^17 + number; `queues` and `drops` (DROPS of R98) port × 8192 + QID; `eps` context × 64 + slot;
`groups` block × 32 + group; `dir` (key identifier × 2^52 + physical address) / 32; `rmap` partition × 64 + entry;
`tables` partition × 8 + id; `reach` position × 18 + plane; `keyHash` the fused SHA-512 hash of Nirtiven's public key
and `identity` the number of the identity key generated at MANUFACTURE (R404); `resetUntil` the clock at which the last
warm reset has ended (R398); `rehearseDue` the clock before which a core is not rehearsed, `rehearseLast` the last start
on a die; `rounds` context × 512 + entry; `era` the clocks before the last cold reset, which the times of warm resets in
`warmAt` include; `uaOut` the answers to UALink requests by pod position, none for a completer abort; `lostUpd` the
groups whose updates a lost peer did not receive, with the value REMOTE_LOSS gives (R377); `ncOut` the answers to a
host's reads, and none for a completer abort (R211); `podSplit` the pod positions of modules in SPLIT mode (R372; log
66); `rot` and `samples` core × 4 + quadrant; `wiping` a frame that awaits its wipe, with the context it belonged to
(R398); `stale` (key identifier × 2^52 + physical address) / 4: words of code that have been overwritten (R192); `served` engine
kind × 2^20 + engine: the queue whose record it served last (R113); `gangs` the GANG values that groups of a block have held
(R365); `bad` the base address of a poisoned granule, with its size; `failing`
frames whose DRAM takes no more writes (R105, R237); `latent` addresses at which the DRAM holds an uncorrectable error
not yet found (R227); `ecc` the reports of ECC not yet acted on, `softErrs` and `frameErrs` the clocks of the corrected
errors of a core and of a frame in the last 24 h, `lineErrs` the errors of clean lines by die (R397, R400); `unusable`
the stacks of HBM that cannot be used, and `postFailed` whether the power-on self-test fails, which no step changes (R399;
log 38). -/
structure State where
  clock : Nat
  era : Nat
  freeCtr : Nat
  turns : List Turn
  rr : Nat
  flip : Bool
  cur : Nat
  nextId : Nat
  shut : Bool
  resetUntil : Nat
  mem : List Host.Cell
  bad : AMap Nat
  latent : List Nat
  failing : List Nat
  anchors : AMap (BitVec 24)
  frames : AMap Frame
  aperts : AMap Aperture
  pageOps : AMap PageOp
  ctxs : AMap Ctx
  keys : AMap KeySlot
  queues : AMap HostQ
  drops : AMap Nat
  eps : AMap EpQ
  launches : AMap Launch
  clusters : AMap Cluster
  blocks : AMap Block
  groups : AMap Group
  latches : List Latch
  rot : AMap Nat
  samples : AMap Nat
  part : PartMode
  partCfg : PartMode
  lastBay : AMap Nat
  fuse : AMap (BitVec 40)
  retired : List Nat
  retiredFrames : List Nat
  ltp : List Byte
  draining : List Nat
  life : LifeCycle
  firmware : AMap Nat
  fused : Nat
  keyHash : BitVec 512
  identity : Nat
  log : List LogE
  answers : List MgmtOut
  dir : AMap DirE
  rmap : AMap RangeE
  tables : AMap CohTable
  cohErrs : AMap Nat
  upd : List Upd
  posted : List Posted
  lostPeers : List (Nat × Nat)
  lostUpd : List (Nat × Nat)
  ncOut : List (Option (List Byte))
  podSplit : List Nat
  uports : List Port
  pports : List Port
  drains : List Drain
  uaOut : List (Nat × Option (List Byte))
  podPos : Nat
  reach : AMap Nat
  lastLsu : AMap Nat
  lsuSeq : Nat
  lsuOut : List Lsu
  rounds : AMap Rounds
  collOut : List CollMsg
  health : Health
  warmAt : List Nat
  rehearsing : AMap Rehearsal
  rehearseOn : Bool
  rehearseDue : AMap Nat
  rehearseLast : AMap Nat
  skips : List Nat
  sigErrs : AMap Nat
  sramErrs : AMap Nat
  ecc : List EccReport
  softErrs : AMap (List Nat)
  frameErrs : AMap (List Nat)
  lineErrs : AMap Nat
  unusable : BitVec 8
  postFailed : Bool
  wiping : AMap Nat
  evq : List EvWrite
  lateDone : List LateDone
  books : AMap Book
  stale : AMap (List StaleWord)
  served : AMap Nat
  gangs : AMap (List Dword)
deriving DecidableEq, Repr

/-- Why a step stops. -/
inductive Fault where
  /-- An instruction word's meaning is run while `cur` names no group, block or context: a state no run reaches,
  since step sets `cur` to a listed group first. Raised by `withCur`. Safe. -/
  | noGroup
deriving DecidableEq, Repr

/-- Why a step is refused. -/
inductive Refusal where
  /-- An arm of Machine/Dispatch.lean that has no meaning yet. Safe. -/
  | notModelled (mnemonic : String)
deriving DecidableEq, Repr

/-- Context 0 after reset (R79); its fields beyond PRIV, SPILL and KEYSLOT are DESIGN CHOICE (log 7). -/
def Ctx.system : Ctx := { st := .resident, priv := true }

/-- Queue 0 after reset (R96). -/
def HostQ.zero : HostQ :=
  { halted := false, depth := 256, cls := 0, ctx := 0, nextSeq := 0, recs := [] }

/-- The module right after a cold reset: R8, R15, R79, R87, R96, R216, R375, R403; values the manual does not state
are named in the log (3 to 11). -/
def State.reset : State :=
  { clock := 0, era := 0, freeCtr := 0, turns := [], rr := 0, flip := false, cur := 0, nextId := 1,
    shut := false, resetUntil := 0,
    mem := [], bad := [], latent := [], failing := [], anchors := [], frames := [], aperts := [], pageOps := [],
    ctxs := [(0, Ctx.system)], keys := [(0, { retiring := false, bytes := [] })],
    queues := [(0, HostQ.zero)], drops := [], eps := [], launches := [], clusters := [], blocks := [], groups := [],
    latches := [], rot := [], samples := [], part := .whole0, partCfg := .whole0, lastBay := [],
    fuse := [], retired := [], retiredFrames := [],
    ltp := (List.range 144).map fun n => BitVec.ofNat 8 (n / 36 * 64 + n % 36),
    draining := [], life := .deployed, firmware := [], fused := 0, keyHash := 0, identity := 0, log := [], answers := [],
    dir := [], rmap := [], tables := [], cohErrs := [], upd := [], posted := [], lostPeers := [], lostUpd := [], ncOut := [],
    podSplit := [],
    uports := List.replicate 18 { st := .training, width := 0 },
    pports := List.replicate 2 { st := .down, width := 0 },
    drains := [], uaOut := [], podPos := 0, reach := [], lastLsu := [], lsuSeq := 0, lsuOut := [], rounds := [], collOut := [],
    health := .nominal, warmAt := [], rehearsing := [], rehearseOn := true, rehearseDue := [], rehearseLast := [], skips := [], sigErrs := [],
    sramErrs := [], ecc := [], softErrs := [], frameErrs := [], lineErrs := [], unusable := 0, postFailed := false,
    wiping := [], evq := [], lateDone := [], books := [], stale := [], served := [], gangs := [] }

end Sys2Proof.Machine
end

