-- ==== Sys2Proof/Machine/Bits.lean ====
section
/-! DEFINITION. Sparse maps, bit fields, byte order, lanes and widths (R2, R3, R10, R29, R269). -/

namespace Sys2Proof.Machine

/-! Sparse maps. -/

/-- The value at a key. -/
def aget {V : Type} : AMap V → Nat → Option V
  | [], _ => none
  | (a, v) :: r, k => if a = k then some v else aget r k

/-- The value at a key, or the value an unlisted key stands for. -/
def agetD {V : Type} (m : AMap V) (k : Nat) (d : V) : V := (aget m k).getD d

/-- Removes a key. -/
def adel {V : Type} : AMap V → Nat → AMap V
  | [], _ => []
  | (a, w) :: r, k => if a = k then adel r k else (a, w) :: adel r k

/-- Changes the value at a listed key. -/
def amod {V : Type} : AMap V → Nat → (V → V) → AMap V
  | [], _, _ => []
  | (a, w) :: r, k, f => if a = k then (a, f w) :: r else (a, w) :: amod r k f

/-- Whether a key is listed. -/
def ahas {V : Type} (m : AMap V) (k : Nat) : Bool := (aget m k).isSome

/-- Puts in a key that is not listed, keeping the keys rising. -/
def ains {V : Type} : AMap V → Nat → V → AMap V
  | [], k, v => [(k, v)]
  | (a, w) :: r, k, v => if k < a then (k, v) :: (a, w) :: r else (a, w) :: ains r k v

/-- Sets a key, keeping the keys rising: a listed key keeps its place. -/
def aset {V : Type} (m : AMap V) (k : Nat) (v : V) : AMap V :=
  if ahas m k then amod m k fun _ => v else ains m k v

/-- Sets a key of a map whose unlisted keys stand for d: writing d removes the entry. -/
def asetD {V : Type} [DecidableEq V] (m : AMap V) (k : Nat) (v d : V) : AMap V :=
  if v = d then adel m k else aset m k v

/-- The keys are strictly rising. -/
def aRising {V : Type} : AMap V → Bool
  | [] => true
  | [_] => true
  | (a, _) :: (b, w) :: r => a < b && aRising ((b, w) :: r)

/-- The canonical form of a map whose unlisted keys stand for d. -/
def aCanon {V : Type} [DecidableEq V] (d : V) (m : AMap V) : Bool := aRising m && m.all fun p => p.2 ≠ d

/-- The lowest number at or above n, tried fuel times, that is not listed. -/
def freshFrom {V : Type} (m : AMap V) : Nat → Nat → Nat
  | 0, n => n
  | fuel + 1, n => if ahas m n then freshFrom m fuel (n + 1) else n

/-- Puts an element before the first that it does not come after. -/
def insertBy {V : Type} (le : V → V → Bool) (x : V) : List V → List V
  | [] => [x]
  | y :: r => if le x y then x :: y :: r else y :: insertBy le x r

/-- Sorts a list; elements that are equal keep their order. -/
def sortBy {V : Type} (le : V → V → Bool) : List V → List V
  | [] => []
  | x :: r => insertBy le x (sortBy le r)

/-! Bits and bytes. -/

/-- Bits hi down to lo of a dword as a number (R2). -/
def bits (x : Dword) (hi lo : Nat) : Nat := x.toNat / 2 ^ lo % 2 ^ (hi + 1 - lo)

/-- One bit (R2). -/
def bit (x : Dword) (n : Nat) : Bool := x.getLsbD n

/-- A dword of a number. -/
def dw (n : Nat) : Dword := BitVec.ofNat 64 n

/-- A dword of an integer, modulo 2^64. -/
def dwI (n : Int) : Dword := BitVec.ofInt 64 n

/-- n read as a two's-complement number of w bits (R10 SignExt). -/
def sext (w n : Nat) : Int := if n % 2 ^ w < 2 ^ (w - 1) then (n % 2 ^ w : Nat) else (n % 2 ^ w : Nat) - (2 ^ w : Nat)

/-- An integer modulo 2^w, as a number. -/
def imod (w : Nat) (z : Int) : Nat := (z % (2 ^ w : Nat)).toNat

/-- n little-endian bytes of a number (R3). -/
def toBytes : Nat → Nat → List Byte
  | 0, _ => []
  | n + 1, x => BitVec.ofNat 8 x :: toBytes n (x / 256)

/-- The number of little-endian bytes (R3). -/
def ofBytes : List Byte → Nat
  | [] => 0
  | b :: r => b.toNat + 256 * ofBytes r

/-- Dword i of a list of bytes. -/
def dwordAt (l : List Byte) (i : Nat) : Dword := dw (ofBytes ((l.drop (8 * i)).take 8))

/-- The bytes of dwords in order. -/
def bytesOf (l : List Dword) : List Byte := l.flatMap fun d => toBytes 8 d.toNat

/-- Dword i of a record (R100); missing dwords read as zero. -/
def dwd (l : List Dword) (i : Nat) : Dword := (l[i]?).getD 0

/-- A Boolean as a number. -/
def b2n (b : Bool) : Nat := if b then 1 else 0

/-! Widths and sub-elements. -/

/-- Bits of a width code (R254). -/
def Width.bits : Width → Nat
  | .w64 => 64 | .w32 => 32 | .w16 => 16 | .w8 => 8

/-- Bytes of a width code. -/
def Width.bytes (w : Width) : Nat := Width.bits w / 8

/-- Sub-element i of width w (R10 Sub). -/
def sub (x : Dword) (w i : Nat) : Nat := x.toNat / 2 ^ (w * i) % 2 ^ w

/-- Joins sub-elements of width w, the first lowest (R29). -/
def joinSubs (w : Nat) (l : List Nat) : Dword := dw (l.foldr (fun x acc => x % 2 ^ w + 2 ^ w * acc) 0)

/-- Applies f to each sub-element of x and y, with the old sub-element of d (R269). -/
def mapSubs (w : Nat) (f : Nat → Nat → Nat → Nat) (x y d : Dword) : Dword :=
  joinSubs w ((List.range (64 / w)).map fun i => f (sub x w i) (sub y w i) (sub d w i))

/-! Lanes. -/

/-- The lanes of a group. -/
def lanes : List Nat := List.range 32

/-- The lanes of a mask, ascending. -/
def lanesOf (m : Mask) : List Nat := lanes.filter fun l => m.getLsbD l

/-- The mask of the lanes with a property. -/
def maskOf (p : Nat → Bool) : Mask := BitVec.ofNat 32 (lanes.foldr (fun l acc => b2n (p l) + 2 * acc) 0)

/-- The lanes of a quad-wide or group-wide list, filtered by a mask, or just the lowest. -/
def lowest (l : List Nat) : List Nat := l.take 1

/-- Ones in a number of w bits. -/
def popCount (w x : Nat) : Nat := ((List.range w).filter fun i => x / 2 ^ i % 2 = 1).length

/-- Bits reversed within w. -/
def bitRev (w x : Nat) : Nat := (List.range w).foldl (fun acc i => acc * 2 + x / 2 ^ i % 2) 0

/-- Leading zeros of x within w. -/
def leadZeros (w x : Nat) : Nat := if x % 2 ^ w = 0 then w else w - 1 - Nat.log2 (x % 2 ^ w)

end Sys2Proof.Machine
end

