-- ==== Sys2Proof/Machine/Float.lean ====
section
/-! DEFINITION. Number formats, exact values, rounding and the floating-point operations (R28 to R56, R297 to R304).
Finite values are exact dyadics; every result is rounded once. -/

namespace Sys2Proof.Machine

/-- The sticky flags an operation raises (R41). -/
structure Flg where
  nv : Bool := false
  dz : Bool := false
  ov : Bool := false
  uf : Bool := false
  nx : Bool := false
deriving DecidableEq, Repr

/-- Flags of two operations together. -/
def Flg.or (a b : Flg) : Flg := ⟨a.nv || b.nv, a.dz || b.dz, a.ov || b.ov, a.uf || b.uf, a.nx || b.nx⟩
/-- No flag. -/
def Flg.none : Flg := {}
/-- NV alone. -/
def Flg.invalid : Flg := { nv := true }

/-- Width in bits (R31). -/
def fpBits : FpFmt → Nat
  | .fp64 => 64 | .fp32 => 32 | .fp16 => 16 | .bf16 => 16
/-- Fraction bits (R31). -/
def fpFrac : FpFmt → Nat
  | .fp64 => 52 | .fp32 => 23 | .fp16 => 10 | .bf16 => 7
/-- Exponent bits (R31). -/
def fpExp : FpFmt → Nat
  | .fp64 => 11 | .fp32 => 8 | .fp16 => 5 | .bf16 => 8
/-- Bias (R31). -/
def fpBias (f : FpFmt) : Nat := 2 ^ (fpExp f - 1) - 1
/-- The sign bit's weight. -/
def fpSign (f : FpFmt) : Nat := 2 ^ (fpBits f - 1)
/-- +Inf (R32). -/
def fpInf (f : FpFmt) : Nat := (2 ^ fpExp f - 1) * 2 ^ fpFrac f
/-- The largest finite value (R31). -/
def fpMax (f : FpFmt) : Nat := fpInf f - 1
/-- The quiet bit (R32). -/
def fpQuiet (f : FpFmt) : Nat := 2 ^ (fpFrac f - 1)
/-- The default NaN (R31). -/
def fpDefNaN (f : FpFmt) : Nat := fpInf f + fpQuiet f
/-- The exponent of the quantum of the subnormals. -/
def fpQmin (f : FpFmt) : Int := 1 - (fpBias f : Int) - (fpFrac f : Int)

/-- A floating-point datum: NaN, infinity, or the exact value ±m × 2^e (R31, R32). -/
inductive FVal where
  | nan (signalling : Bool)
  | inf (neg : Bool)
  | fin (neg : Bool) (m : Nat) (e : Int)
deriving DecidableEq, Repr

/-- Reads an encoding (R31, R32). -/
def fpRead (f : FpFmt) (x : Nat) : FVal :=
  let neg := x / fpSign f % 2 = 1
  let ex := x / 2 ^ fpFrac f % 2 ^ fpExp f
  let fr := x % 2 ^ fpFrac f
  if ex = 2 ^ fpExp f - 1 then
    if fr = 0 then .inf neg else .nan (fr < fpQuiet f)
  else if ex = 0 then .fin neg fr (fpQmin f)
  else .fin neg (fr + 2 ^ fpFrac f) (fpQmin f + ((ex : Int) - 1))

/-- Is the encoding a NaN. -/
def fpIsNaN (f : FpFmt) (x : Nat) : Bool := fpInf f < x % fpSign f
/-- Is the encoding a signalling NaN. -/
def fpIsSNaN (f : FpFmt) (x : Nat) : Bool := fpIsNaN f x && x % 2 ^ fpFrac f < fpQuiet f
/-- Sets the quiet bit of a NaN (R44). -/
def fpQuieten (f : FpFmt) (x : Nat) : Nat := if x / fpQuiet f % 2 = 1 then x else x + fpQuiet f
/-- Is the encoding a subnormal. -/
def fpIsSub (f : FpFmt) (x : Nat) : Bool := x % fpSign f < 2 ^ fpFrac f && x % fpSign f ≠ 0
/-- An encoding with a sign. -/
def fpWithSign (f : FpFmt) (neg : Bool) (mag : Nat) : Nat := if neg then fpSign f + mag else mag

/-- v / 2^q as (floor, whether something is left), for v = m × 2^e. -/
def scanDy (m : Nat) (e q : Int) : Nat × Bool :=
  if q ≤ e then (m * 2 ^ (e - q).toNat, false)
  else (m / 2 ^ (q - e).toNat, m % 2 ^ (q - e).toNat != 0)

/-- v / 2^q for v = num / den. -/
def scanRat (num den : Nat) (q : Int) : Nat × Bool :=
  if q ≤ 0 then (num * 2 ^ (-q).toNat / den, num * 2 ^ (-q).toNat % den != 0)
  else (num / (den * 2 ^ q.toNat), num % (den * 2 ^ q.toNat) != 0)

/-- Rounds h / 2 (h a floor, st whether a remainder is left) to an integer in a mode (R37). -/
def roundHalf (mode : Round) (neg : Bool) (h : Nat) (st : Bool) : Nat × Bool :=
  let n := h / 2
  let half := h % 2 = 1
  let inex := half || st
  let up := match mode with
    | .rn => half && (st || n % 2 = 1)
    | .rz => false
    | .ru => inex && !neg
    | .rd => inex && neg
  (if up then n + 1 else n, inex)

/-- The overflow result (R38). -/
def overflowTo (f : FpFmt) (mode : Round) (neg : Bool) : Nat :=
  let toInf := match mode with
    | .rn => true
    | .rz => false
    | .ru => !neg
    | .rd => neg
  fpWithSign f neg (if toInf then fpInf f else fpMax f)

/-- Rounds a positive real, given by its scan and floor(log2) msb, to a format (R37 to R39). ovm is the mode an
overflow takes its result from, ftz flushes a tiny result (R46). -/
def roundScan (f : FpFmt) (mode ovm : Round) (ftz neg : Bool) (msb : Int) (scan : Int → Nat × Bool) : Nat × Flg :=
  let q0 := msb - fpFrac f
  let s0 := scan (q0 - 1)
  let r0 := roundHalf mode neg s0.1 s0.2
  let top := if r0.1 = 2 ^ (fpFrac f + 1) then msb + 1 else msb
  if (fpBias f : Int) < top then (overflowTo f ovm neg, { ov := true, nx := true })
  else
    let tiny := top < 1 - (fpBias f : Int)
    if tiny && ftz then (fpWithSign f neg 0, { uf := true, nx := true })
    else
      let q := max q0 (fpQmin f)
      let s := scan (q - 1)
      let r := roundHalf mode neg s.1 s.2
      (fpWithSign f neg ((q - fpQmin f).toNat * 2 ^ fpFrac f + r.1), { uf := tiny && r.2, nx := r.2 })

/-- Rounds ±m × 2^e with m ≠ 0 (R37 to R39). -/
def roundDy (f : FpFmt) (mode : Round) (ftz neg : Bool) (m : Nat) (e : Int) : Nat × Flg :=
  roundScan f mode mode ftz neg (e + Nat.log2 m) (scanDy m e)

/-- RoundFP of an exact dyadic (R10); a zero takes the sign given. -/
def roundVal (f : FpFmt) (mode : Round) (ftz neg : Bool) (m : Nat) (e : Int) : Nat × Flg :=
  if m = 0 then (fpWithSign f neg 0, Flg.none) else roundDy f mode ftz neg m e

/-- The signed sum of two dyadics: (value, exponent). -/
def addDy (n1 : Bool) (m1 : Nat) (e1 : Int) (n2 : Bool) (m2 : Nat) (e2 : Int) : Int × Int :=
  let e := min e1 e2
  let v (n : Bool) (m : Nat) (x : Int) : Int := (if n then -1 else 1) * ((m * 2 ^ (x - e).toNat : Nat) : Int)
  (v n1 m1 e1 + v n2 m2 e2, e)

/-- The delivered NaN among operands in order, and NV when one signals (R44). -/
def nanOf (f : FpFmt) (l : List Nat) : Option (Nat × Flg) :=
  match l.find? (fpIsNaN f) with
  | some x => some (fpQuieten f x, { nv := l.any (fpIsSNaN f) })
  | none => none

/-- An invalid operation (R45). -/
def fpInvalid (f : FpFmt) : Nat × Flg := (fpDefNaN f, Flg.invalid)

/-- Input flushing under FTZ (R46). -/
def ftzIn (f : FpFmt) (ftz : Bool) (x : Nat) : Nat :=
  if ftz && fpIsSub f x then x / fpSign f % 2 * fpSign f else x

/-- x + y with the sign rules of R40, for data that are no NaN. -/
def addVals (f : FpFmt) (mode : Round) (ftz : Bool) (x y : FVal) : Nat × Flg :=
  match x, y with
  | .inf a, .inf b => if a = b then (fpWithSign f a (fpInf f), Flg.none) else fpInvalid f
  | .inf a, _ => (fpWithSign f a (fpInf f), Flg.none)
  | _, .inf b => (fpWithSign f b (fpInf f), Flg.none)
  | .fin n1 m1 e1, .fin n2 m2 e2 =>
    let s := addDy n1 m1 e1 n2 m2 e2
    if s.1 = 0 then
      (fpWithSign f (if m1 = 0 && m2 = 0 && n1 = n2 then n1 else mode == .rd) 0, Flg.none)
    else roundDy f mode ftz (s.1 < 0) s.1.natAbs s.2
  | _, _ => (fpDefNaN f, Flg.none)

/-- The sign flip of a datum. -/
def FVal.neg : FVal → FVal
  | .inf a => .inf (!a)
  | .fin a m e => .fin (!a) m e
  | .nan s => .nan s

/-- The exact product of two data, or nothing when it is 0 × Inf (R45). -/
def mulVals : FVal → FVal → Option FVal
  | .inf a, .inf b => some (.inf (a != b))
  | .inf a, .fin b m _ => if m = 0 then none else some (.inf (a != b))
  | .fin a m _, .inf b => if m = 0 then none else some (.inf (a != b))
  | .fin a m e, .fin b n k => some (.fin (a != b) (m * n) (e + k))
  | _, _ => some (.nan false)

/-- Rounds a datum that is no NaN. -/
def deliver (f : FpFmt) (mode : Round) (ftz : Bool) : FVal → Nat × Flg
  | .inf a => (fpWithSign f a (fpInf f), Flg.none)
  | .fin a m e => roundVal f mode ftz a m e
  | .nan _ => (fpDefNaN f, Flg.none)

/-- FADD (R298). -/
def fpAdd (f : FpFmt) (mode : Round) (ftz : Bool) (x y : Nat) : Nat × Flg :=
  let x := ftzIn f ftz x
  let y := ftzIn f ftz y
  match nanOf f [x, y] with
  | some r => r
  | none => addVals f mode ftz (fpRead f x) (fpRead f y)

/-- FSUB (R298). -/
def fpSub (f : FpFmt) (mode : Round) (ftz : Bool) (x y : Nat) : Nat × Flg :=
  let x := ftzIn f ftz x
  let y := ftzIn f ftz y
  match nanOf f [x, y] with
  | some r => r
  | none => addVals f mode ftz (fpRead f x) (fpRead f y).neg

/-- FMUL (R298). -/
def fpMul (f : FpFmt) (mode : Round) (ftz : Bool) (x y : Nat) : Nat × Flg :=
  let x := ftzIn f ftz x
  let y := ftzIn f ftz y
  match nanOf f [x, y] with
  | some r => r
  | none =>
    match mulVals (fpRead f x) (fpRead f y) with
    | none => fpInvalid f
    | some p => deliver f mode ftz p

/-- The fused forms (R298): ±(x × y) ± c with one rounding. -/
def fpFused (f : FpFmt) (mode : Round) (ftz negP negC : Bool) (x y c : Nat) : Nat × Flg :=
  let x := ftzIn f ftz x
  let y := ftzIn f ftz y
  let c := ftzIn f ftz c
  let p := if fpIsNaN f x || fpIsNaN f y then some (.nan false) else mulVals (fpRead f x) (fpRead f y)
  match nanOf f [x, y, c] with
  | some r => (r.1, if p.isNone then r.2.or Flg.invalid else r.2)
  | none =>
    match p with
    | none => fpInvalid f
    | some p =>
      addVals f mode ftz (if negP then p.neg else p) (if negC then (fpRead f c).neg else fpRead f c)

/-- m × 2^e as a fraction. -/
def dyRat (m : Nat) (e : Int) : Nat × Nat := if 0 ≤ e then (m * 2 ^ e.toNat, 1) else (m, 2 ^ (-e).toNat)

/-- floor(log2 (num / den)) of a positive fraction. -/
def ratLog2 (num den : Nat) : Int :=
  let k : Int := (Nat.log2 num : Int) - (Nat.log2 den : Int)
  let below := if 0 ≤ k then num < den * 2 ^ k.toNat else num * 2 ^ (-k).toNat < den
  if below then k - 1 else k

/-- Rounds num / den. -/
def roundRat (f : FpFmt) (mode : Round) (ftz neg : Bool) (num den : Nat) : Nat × Flg :=
  roundScan f mode mode ftz neg (ratLog2 num den) (scanRat num den)

/-- The quotient of two data that are no NaN (R45, R298). -/
def divVals (f : FpFmt) (mode : Round) (ftz : Bool) (x y : FVal) : Nat × Flg :=
  match x, y with
  | .inf _, .inf _ => fpInvalid f
  | .inf a, .fin b _ _ => (fpWithSign f (a != b) (fpInf f), Flg.none)
  | .fin a _ _, .inf b => (fpWithSign f (a != b) 0, Flg.none)
  | .fin a m e, .fin b n k =>
    if n = 0 then
      if m = 0 then fpInvalid f else (fpWithSign f (a != b) (fpInf f), { dz := true })
    else if m = 0 then (fpWithSign f (a != b) 0, Flg.none)
    else
      let r := dyRat m (e - k)
      roundRat f mode ftz (a != b) r.1 (r.2 * n)
  | _, _ => (fpDefNaN f, Flg.none)

/-- FDIV (R298). -/
def fpDiv (f : FpFmt) (mode : Round) (ftz : Bool) (x y : Nat) : Nat × Flg :=
  let x := ftzIn f ftz x
  let y := ftzIn f ftz y
  match nanOf f [x, y] with
  | some r => r
  | none => divVals f mode ftz (fpRead f x) (fpRead f y)

/-- FSCL (R298): y is an integer of the format's width. Beyond ±4500 every result is the same overflow or the same
tiny one, so the exponent is held there. -/
def fpScale (f : FpFmt) (mode : Round) (ftz : Bool) (x y : Nat) : Nat × Flg :=
  let x := ftzIn f ftz x
  match nanOf f [x] with
  | some r => r
  | none =>
    match fpRead f x with
    | .fin a m e => roundVal f mode ftz a m (e + max (-4500) (min 4500 (sext (fpBits f) y)))
    | .inf a => (fpWithSign f a (fpInf f), Flg.none)
    | .nan _ => (x, Flg.none)

/-- x < y of data that are no NaN, −0 equal to +0. -/
def ltVals : FVal → FVal → Bool
  | .inf a, .inf b => a && !b
  | .inf a, _ => a
  | _, .inf b => !b
  | .fin n1 m1 e1, .fin n2 m2 e2 => 0 < (addDy n2 m2 e2 (!n1) m1 e1).1
  | _, _ => false

/-- FMIN and FMAX (R299). -/
def fpMinMax (f : FpFmt) (ftz isMax : Bool) (x y : Nat) : Nat × Flg :=
  let x := ftzIn f ftz x
  let y := ftzIn f ftz y
  let fl : Flg := { nv := fpIsSNaN f x || fpIsSNaN f y }
  if fpIsNaN f x && fpIsNaN f y then (fpQuieten f x, fl)
  else if fpIsNaN f x then (y, fl)
  else if fpIsNaN f y then (x, fl)
  else
    let a := fpRead f x
    let b := fpRead f y
    let less := if ltVals a b then true else if ltVals b a then false else x / fpSign f % 2 = 1
    (if less != isMax then x else y, fl)

/-- The direction of the FRND functions (R301). -/
def roundInt (mode : Round) (neg : Bool) (m : Nat) (e : Int) : Nat × Bool :=
  let s := scanDy m e (-1)
  roundHalf mode neg s.1 s.2

/-- FRNDN, FRNDZ, FRNDP and FRNDM (R301): no NX. -/
def fpRnd (f : FpFmt) (mode : Round) (ftz : Bool) (x : Nat) : Nat × Flg :=
  let x := ftzIn f ftz x
  match nanOf f [x] with
  | some r => r
  | none =>
    match fpRead f x with
    | .fin a m e => ((roundVal f .rn false a (roundInt mode a m e).1 0).1, Flg.none)
    | _ => (x, Flg.none)

/-- FCLASS (R302). -/
def fpClass (f : FpFmt) (x : Nat) : Nat :=
  let neg := x / fpSign f % 2 = 1
  let mag := x % fpSign f
  if fpIsSNaN f x then 256 else if fpIsNaN f x then 512
  else if mag = fpInf f then (if neg then 1 else 128)
  else if mag = 0 then (if neg then 8 else 16)
  else if fpIsSub f x then (if neg then 4 else 32)
  else if neg then 2 else 64

/-! Roots. -/

/-- Newton steps for the integer square root. -/
def isqrtGo (n : Nat) : Nat → Nat → Nat
  | 0, x => x
  | fuel + 1, x => let y := (x + n / x) / 2; if y < x then isqrtGo n fuel y else x

/-- floor(sqrt n). -/
def isqrt (n : Nat) : Nat := if n = 0 then 0 else isqrtGo n (Nat.log2 n + 2) (2 ^ (Nat.log2 n / 2 + 1))

/-- sqrt(num / den) / 2^q. -/
def scanSqrt (num den : Nat) (q : Int) : Nat × Bool :=
  let n := if q ≤ 0 then num * 2 ^ (2 * (-q).toNat) else num
  let d := if q ≤ 0 then den else den * 2 ^ (2 * q.toNat)
  let t := isqrt (n / d)
  (t, t * t * d != n)

/-- Half of floor(log2), rounded down: floor(log2 sqrt v). -/
def halfLog (k : Int) : Int := k.fdiv 2

/-- FSQRT of a positive value, rounded to nearest (R55). -/
def sqrtPos (f : FpFmt) (ftz : Bool) (num den : Nat) : Nat × Flg :=
  roundScan f .rn .rn ftz false (halfLog (ratLog2 num den)) (scanSqrt num den)

/-- FRCP (R55, R56). -/
def fpRcp (f : FpFmt) (ftz : Bool) (x : Nat) : Nat × Flg :=
  let x := ftzIn f ftz x
  match nanOf f [x] with
  | some r => r
  | none =>
    match fpRead f x with
    | .inf a => (fpWithSign f a 0, Flg.none)
    | .fin a m e =>
      if m = 0 then (fpWithSign f a (fpInf f), { dz := true })
      else
        let r := dyRat m e
        roundRat f .rn ftz a r.2 r.1
    | .nan _ => (x, Flg.none)

/-- FRSQ (R55, R56). -/
def fpRsq (f : FpFmt) (ftz : Bool) (x : Nat) : Nat × Flg :=
  let x := ftzIn f ftz x
  match nanOf f [x] with
  | some r => r
  | none =>
    match fpRead f x with
    | .inf a => if a then fpInvalid f else (0, Flg.none)
    | .fin a m e =>
      if m = 0 then (fpWithSign f a (fpInf f), { dz := true })
      else if a then fpInvalid f
      else
        let r := dyRat m e
        sqrtPos f ftz r.2 r.1
    | .nan _ => (x, Flg.none)

/-- FSQRT (R55, R56). -/
def fpSqrt (f : FpFmt) (ftz : Bool) (x : Nat) : Nat × Flg :=
  let x := ftzIn f ftz x
  match nanOf f [x] with
  | some r => r
  | none =>
    match fpRead f x with
    | .inf a => if a then fpInvalid f else (x, Flg.none)
    | .fin a m e =>
      if m = 0 then (x, Flg.none)
      else if a then fpInvalid f
      else
        let r := dyRat m e
        sqrtPos f ftz r.1 r.2
    | .nan _ => (x, Flg.none)

/-! Powers and logarithms of two, by intervals of growing precision. -/

/-- 2^(2^-i) for i = 1 to n as intervals in units of 2^-p. -/
def rootsOfTwo (p : Nat) : Nat → Nat × Nat → List (Nat × Nat)
  | 0, _ => []
  | n + 1, (lo, hi) =>
    let c := (isqrt (lo * 2 ^ p), isqrt (hi * 2 ^ p) + 1)
    c :: rootsOfTwo p n c

/-- The interval of 2^(0.b1 b2 …) in units of 2^-p: the product of the roots of the set bits. -/
def expProd (p : Nat) : List Bool → List (Nat × Nat) → Nat × Nat → Nat × Nat
  | b :: bs, c :: cs, acc =>
    expProd p bs cs (if b then (acc.1 * c.1 / 2 ^ p, acc.2 * c.2 / 2 ^ p + 1) else acc)
  | _, _, acc => acc

/-- The interval of 2^(fr / 2^k) in units of 2^-p, 0 ≤ fr < 2^k. -/
def expInterval (p k fr : Nat) : Nat × Nat :=
  expProd p ((List.range k).map fun i => fr / 2 ^ (k - 1 - i) % 2 = 1)
    (rootsOfTwo p k (2 ^ (p + 1), 2 ^ (p + 1))) (2 ^ p, 2 ^ p)

/-- floor(v / 2^q) from intervals for v in units of 2^-p at each precision; the first precision whose two ends agree
decides. -/
def scanIv (ivs : List (Nat × (Nat × Nat))) (q : Int) : Nat × Bool :=
  match ivs with
  | [] => (0, true)
  | (p, (lo, hi)) :: rest =>
    let a := (scanDy lo (-(p : Int)) q).1
    let b := (scanDy hi (-(p : Int)) q).1
    if a = b then (a, true) else match rest with
      | [] => (a, true)
      | _ => scanIv rest q

/-- 2^x for x = ±m × 2^e, not an integer: floor(log2) and the scan (R55). -/
def exp2Scan (neg : Bool) (m : Nat) (e : Int) : Int × (Int → Nat × Bool) :=
  let tiny := e + Nat.log2 m < -90
  if tiny then
    if neg then (-1, fun q => ((scanDy 1 0 q).1 - 1, true)) else (0, fun q => ((scanDy 1 0 q).1, true))
  else
    let k := (-e).toNat
    let z : Int := if neg then -(m : Int) else m
    let n := z / (2 ^ k : Nat)
    let fr := (z % (2 ^ k : Nat)).toNat
    (n, fun q => scanIv ([192, 384].map fun p => (p, expInterval p k fr)) (q - n))

/-- FEXP2 (R55, R56): an overflow takes its result from FMT.RM. -/
def fpExp2 (f : FpFmt) (mode : Round) (ftz : Bool) (x : Nat) : Nat × Flg :=
  let x := ftzIn f ftz x
  match nanOf f [x] with
  | some r => r
  | none =>
    match fpRead f x with
    | .inf a => if a then (0, Flg.none) else (x, Flg.none)
    | .fin a m e =>
      if m = 0 then (fpBias f * 2 ^ fpFrac f, Flg.none)
      else if 13 ≤ e + Nat.log2 m then
        if a then (if ftz then (0, { uf := true, nx := true }) else (0, { uf := true, nx := true }))
        else (overflowTo f mode false, { ov := true, nx := true })
      else if 0 ≤ e || m % 2 ^ (-e).toNat = 0 then
        let n : Int := (if a then -1 else 1) * ((scanDy m e 0).1 : Int)
        roundScan f .rn mode ftz false n (scanDy 1 n)
      else
        let s := exp2Scan a m e
        roundScan f .rn mode ftz false s.1 s.2
    | .nan _ => (x, Flg.none)

/-- Squares an interval in [1, 2) t times, gathering the bits of log2: (bits so far, interval). -/
def logBits (p : Nat) : Nat → Nat → Nat × Nat → Nat × Bool
  | 0, acc, _ => (acc, true)
  | t + 1, acc, (lo, hi) =>
    let lo2 := lo * lo / 2 ^ p
    let hi2 := hi * hi / 2 ^ p + 1
    if 2 ^ (p + 1) ≤ lo2 then logBits p t (acc * 2 + 1) (lo2 / 2, hi2 / 2 + 1)
    else if hi2 < 2 ^ (p + 1) then logBits p t (acc * 2) (lo2, hi2)
    else (acc * 2 ^ (t + 1), false)

/-- floor(2^t × log2(m / 2^j)) for 2^j ≤ m < 2^(j + 1), at working precision p. -/
def logFrac (p t m j : Nat) : Nat :=
  (logBits p t 0 (m * 2 ^ p / 2 ^ j, m * 2 ^ p / 2 ^ j)).1

/-- log2 of m × 2^e, not a power of two, as an interval of an integer in units of 2^-t with its sign. -/
def logIv (p t m : Nat) (e : Int) : Bool × (Nat × (Nat × Nat)) :=
  let j := Nat.log2 m
  let lo := (e + j) * (2 ^ t : Nat) + logFrac p t m j
  if lo < 0 then (true, (t, ((-(lo + 1)).toNat, (-lo).toNat))) else (false, (t, (lo.toNat, lo.toNat + 1)))

/-- FLOG2 (R55, R56). -/
def fpLog2 (f : FpFmt) (ftz : Bool) (x : Nat) : Nat × Flg :=
  let x := ftzIn f ftz x
  match nanOf f [x] with
  | some r => r
  | none =>
    match fpRead f x with
    | .inf a => if a then fpInvalid f else (x, Flg.none)
    | .fin a m e =>
      if m = 0 then (fpWithSign f true (fpInf f), { dz := true })
      else if a then fpInvalid f
      else
        let j := Nat.log2 m
        if m = 2 ^ j then
          let n := e + j
          roundVal f .rn ftz (n < 0) n.natAbs 0
        else
          let i1 := logIv 640 256 m e
          let i2 := logIv 1280 512 m e
          let msb : Int := (Nat.log2 i2.2.2.1 : Int) - 512
          roundScan f .rn .rn ftz i1.1 msb (scanIv [i1.2, i2.2])
    | .nan _ => (x, Flg.none)

/-! Compares. -/

/-- The relation of FSET and FSETS (R304). -/
def fpCompare (f : FpFmt) (ftz quietToo : Bool) (c : FCond) (x y : Nat) : Bool × Flg :=
  let x := ftzIn f ftz x
  let y := ftzIn f ftz y
  let nan := fpIsNaN f x || fpIsNaN f y
  let fl : Flg := { nv := if quietToo then nan else fpIsSNaN f x || fpIsSNaN f y }
  let a := fpRead f x
  let b := fpRead f y
  let lt := ltVals a b
  let gt := ltVals b a
  let r := match c with
    | .eq => !nan && !lt && !gt
    | .ne => nan || lt || gt
    | .lt => !nan && lt
    | .le => !nan && !gt
    | .gt => !nan && gt
    | .ge => !nan && !lt
    | .un => nan
    | .ord => !nan
  (r, fl)

/-! D8 and conversions. -/

/-- The unscaled magnitude of a D8 code as m × 2^-4 × 10^e (R34, R74). -/
def d8Mag (c : Nat) : Nat × Nat :=
  let m := c % 128
  if 64 ≤ m then (16 + 9 * (m % 16), 3 + m / 16 % 4)
  else if 32 ≤ m then (16 + 9 * (m % 16), if m / 16 % 2 = 0 then 2 else 7)
  else if 16 ≤ m then (2 * (8 + 9 * (m % 8)), if m / 8 % 2 = 0 then 1 else 8)
  else if 8 ≤ m then (4 * (4 + 9 * (m % 4)), if m / 4 % 2 = 0 then 0 else 9)
  else if 4 ≤ m then (4 * (4 + 9 * (m % 4)), 10)
  else if m = 3 then (8, 0) else if m = 2 then (4, 0) else if m = 1 then (2, 0) else (0, 0)

/-- The exact value of a D8 code at a block scale (R35). -/
def d8Read (c : Nat) (scale : Int) : FVal :=
  if c % 256 = 0x80 then .nan false
  else
    let r := d8Mag c
    .fin (c / 128 % 2 = 1) (r.1 * 5 ^ r.2) ((r.2 : Int) - 4 + scale)

/-- Sixteen times the unscaled magnitude of a code. -/
def d8Num (c : Nat) : Nat := (d8Mag c).1 * 10 ^ (d8Mag c).2

/-- |num / den − 16 × magnitude of c| × den. -/
def d8Dist (num den c : Nat) : Nat := (((num : Int) - (d8Num c * den : Nat)).natAbs)

/-- Of two codes the one nearer to num / den, a tie to the code with bit 0 clear (R53). -/
def d8Better (num den c best : Nat) : Nat :=
  let a := d8Dist num den c
  let b := d8Dist num den best
  if a < b then c else if a = b && c % 2 = 0 then c else best

/-- The nearest magnitude code to num / den, in units of 1/16 (R53). -/
def d8Nearest (num den : Nat) : Nat := (List.range 128).foldl (fun best c => d8Better num den c best) 0

/-- Conversion of ±m × 2^e into D8 at a scale (R53). -/
def d8FromDy (neg : Bool) (m : Nat) (e scale : Int) : Nat × Flg :=
  if m = 0 then (0, Flg.none)
  else
    let r := dyRat m (e - scale + 4)
    if d8Num 7 * r.2 < r.1 then (if neg then 0x87 else 0x07, { ov := true, nx := true })
    else
      let c := d8Nearest r.1 r.2
      if c = 0 then (0, { uf := true, nx := true })
      else (if neg then 128 + c else c, { nx := d8Dist r.1 r.2 c != 0 })

/-- Width in bits of a number format (R28). -/
def numBits : NumFmt → Nat
  | .fp64 => 64 | .fp32 => 32 | .fp16 => 16 | .bf16 => 16 | .d8 => 8 | .int8 => 8 | .nat8 => 8 | .int16 => 16
  | .nat16 => 16 | .int32 => 32 | .nat32 => 32 | .int64 => 64 | .nat64 => 64

/-- The binary floating-point formats among the number formats. -/
def numFp : NumFmt → Option FpFmt
  | .fp64 => some .fp64 | .fp32 => some .fp32 | .fp16 => some .fp16 | .bf16 => some .bf16
  | _ => none

/-- Is the format signed integer, natural, or neither. -/
def numSigned : NumFmt → Option Bool
  | .int8 | .int16 | .int32 | .int64 => some true
  | .nat8 | .nat16 | .nat32 | .nat64 => some false
  | _ => none

/-- Smallest integer of an integer format (R30). -/
def intMin (f : NumFmt) : Int := if numSigned f = some true then -((2 ^ (numBits f - 1) : Nat) : Int) else 0
/-- Largest integer of an integer format (R30). -/
def intMax (f : NumFmt) : Int :=
  if numSigned f = some true then ((2 ^ (numBits f - 1) : Nat) : Int) - 1 else ((2 ^ numBits f : Nat) : Int) - 1

/-- Exact(x, fmt, scale) of R10: the scale acts on D8 only (R35, R345). -/
def exactOf (f : NumFmt) (scale : Int) (x : Nat) : FVal :=
  match numFp f with
  | some fp => fpRead fp x
  | none =>
    if f = .d8 then d8Read x scale
    else
      let z : Int := if numSigned f = some true then sext (numBits f) x else ((x % 2 ^ numBits f : Nat) : Int)
      .fin (z < 0) z.natAbs 0

/-- Rounds a datum into an integer format (R50). -/
def intFrom (f : NumFmt) (mode : Round) (v : FVal) : Nat × Flg :=
  match v with
  | .nan _ => (0, Flg.invalid)
  | .inf a => (imod (numBits f) (if a then intMin f else intMax f), Flg.invalid)
  | .fin a m e =>
    let r := roundInt mode a m e
    let z : Int := if a then -(r.1 : Int) else r.1
    if z < intMin f then (imod (numBits f) (intMin f), Flg.invalid)
    else if intMax f < z then (imod (numBits f) (intMax f), Flg.invalid)
    else (imod (numBits f) z, { nx := r.2 })

/-- The quiet NaN of another format with the sign and the leading fraction bits of x (R49). -/
def nanInto (src dst : FpFmt) (x : Nat) : Nat :=
  let q := fpQuieten src x
  let fr := q % 2 ^ fpFrac src
  let fr' := if fpFrac src ≤ fpFrac dst then fr * 2 ^ (fpFrac dst - fpFrac src)
    else fr / 2 ^ (fpFrac src - fpFrac dst)
  fpWithSign dst (x / fpSign src % 2 = 1) (fpInf dst + fr')

/-- Saturation of a floating-point result (R48): a finite source that would give ±Inf gives the largest finite. -/
def satFp (f : FpFmt) (sat : Bool) (r : Nat × Flg) : Nat × Flg :=
  if sat && r.2.ov then (fpWithSign f (r.1 / fpSign f % 2 = 1) (fpMax f), r.2) else r

/-- A datum into a binary floating-point format (R49, R51, R54); NaNs are handled by the caller. -/
def fpFrom (f : FpFmt) (mode : Round) (sat : Bool) (v : FVal) : Nat × Flg := satFp f sat (deliver f mode false v)

/-- Conversion between two integer formats (R52). DESIGN CHOICE (log 77): of a negative source narrower than the
destination, whose upper bits R52 does not give, the sign is extended. -/
def intToInt (src dst : NumFmt) (sat : Bool) (x : Nat) : Nat × Flg :=
  let z : Int := if numSigned src = some true then sext (numBits src) x else ((x % 2 ^ numBits src : Nat) : Int)
  let z' := if sat then max (intMin dst) (min (intMax dst) z) else z
  (imod (numBits dst) z', Flg.none)

/-- A datum into D8 at scale BSC (R53); a D8 source that is NV raises nothing. -/
def d8From (scale : Int) (srcD8 : Bool) (v : FVal) : Nat × Flg :=
  match v with
  | .nan _ => (0x80, { nv := !srcD8 })
  | .inf a => (if a then 0x87 else 0x07, { ov := true, nx := true })
  | .fin a m e => d8FromDy a m e scale

/-- Conversion of one value (R47 to R54). -/
def convert (src dst : NumFmt) (mode : Round) (sat : Bool) (asc bsc : Int) (x : Nat) : Nat × Flg :=
  match numFp dst with
  | some fd =>
    match numFp src with
    | some fs =>
      if fpIsNaN fs x then (nanInto fs fd x, { nv := fpIsSNaN fs x })
      else if src = dst then
        match fpRead fs x with
        | .fin a m e =>
          let r := roundInt mode a m e
          ((roundVal fd .rn false a r.1 0).1, { nx := r.2 })
        | _ => (x, Flg.none)
      else fpFrom fd mode sat (fpRead fs x)
    | none =>
      match exactOf src asc x with
      | .nan _ => (fpDefNaN fd, Flg.none)
      | v => fpFrom fd mode sat v
  | none =>
    if dst = .d8 then d8From bsc (src == .d8) (exactOf src asc x)
    else if (numSigned src).isSome then intToInt src dst sat x
    else intFrom dst mode (exactOf src asc x)

end Sys2Proof.Machine
end

