-- ==== Sys2Proof/Machine/LAcc.lean ====
section
/-! DEFINITION. The long accumulator (R57 to R78): value, carry-save form, adding, sweeping, rounding, image, merging. -/

namespace Sys2Proof.Machine

/-- The LA of R61: cleared, not in use. -/
def LA.zero : LA := {}

/-- Σ car_k × 2^(64(k+1)) from field k on (R59). -/
def carSum : Nat → List Int → Int
  | _, [] => 0
  | k, c :: r => c * (2 ^ (64 * (k + 1)) : Nat) + carSum (k + 1) r

/-- N (R57, R59). -/
def LA.n (a : LA) : Int := a.seg.toInt + carSum 0 a.car + a.guard * (2 ^ 640 : Nat)

/-- Low640(v): v mod 2^640, read as signed (R63). -/
def low640 (v : Int) : Int := (BitVec.ofInt 640 v).toInt

/-- The GUARD of a resolved LA of value v. -/
def guardOf (v : Int) : Int := (v - low640 v) / (2 ^ 640 : Nat)

/-- The LA resolved (R59): car0 to car8 zero. -/
def LA.withN (a : LA) (v g : Int) : LA :=
  { a with seg := BitVec.ofInt 640 v, car := [0, 0, 0, 0, 0, 0, 0, 0, 0], guard := g }

/-- Resolves (R59, R65). -/
def LA.resolve (a : LA) : LA := if a.car.all (· == 0) then a else a.withN a.n (guardOf a.n)

/-- Whether LAFLG and LARND see an overflow (R67). -/
def LA.overflowed (a : LA) : Bool := a.ovf || a.resolve.guard != 0

/-- One pass of the segment adders from segment k (R63): the new segments lowest first, the new carry fields, and what
is left for segment 9. -/
def carryPass (neg : Bool) : Nat → Nat → Nat → List Int → List Nat × List Int × Nat × Nat
  | 0, p, t, cs => ([], cs, p, t)
  | n + 1, p, t, cs =>
    let a := p % 2 ^ 64
    let b := t % 2 ^ 64
    let c := cs.headD 0
    let out := if neg then (if a < b then (a + 2 ^ 64 - b, c - 1) else (a - b, c))
      else (if 2 ^ 64 ≤ a + b then (a + b - 2 ^ 64, c + 1) else (a + b, c))
    let r := carryPass neg n (p / 2 ^ 64) (t / 2 ^ 64) cs.tail
    (out.1 :: r.1, out.2 :: r.2.1, r.2.2)

/-- Joins 64-bit segments, the lowest first. -/
def joinSegs : List Nat → Nat
  | [] => 0
  | s :: r => s + 2 ^ 64 * joinSegs r

/-- The carry-save form of a finite addition (R63): each segment takes its part and passes its carry or borrow into its
carry field, segment 9 into GUARD. -/
def LA.addSegs (a : LA) (t : Int) : LA :=
  let neg := t < 0
  let r := carryPass neg 9 a.seg.toNat t.natAbs a.car
  let top := sext 64 r.2.2.1 + (if neg then -(r.2.2.2 : Int) else (r.2.2.2 : Int))
  let low := sext 64 (imod 64 top)
  { a with seg := BitVec.ofNat 640 (joinSegs (r.1 ++ [imod 64 top])), car := r.2.1,
           guard := a.guard + (top - low) / (2 ^ 64 : Nat) }

/-- Whether every carry field and GUARD lies in −128 to 127 (R59). -/
def LA.inRange (a : LA) : Bool := (a.guard :: a.car).all fun c => -128 ≤ c && c ≤ 127

/-- Adds t to N (R63, R64): in carry-save form where that form holds the sum, else after sweeps, which leave it
resolved. A GUARD that would pass its limit keeps its value and sets OVF; the GUARD kept is that of the resolved LA. -/
def LA.addN (a : LA) (t : Int) : LA :=
  let v := a.n + t
  let g := guardOf v
  if -128 ≤ g && g ≤ 127 then
    let b := a.addSegs t
    if b.n = v && b.inRange then b else a.withN v g
  else { a.withN v (guardOf a.n) with ovf := true }

/-- Marks an LA written (R61). -/
def LA.touch (a : LA) : LA := { a with inUse := true, dirty := true }

/-- A finite value as a count of 2^−298 (R57); the low bits of a value that is no multiple are dropped, which R58
rules out. -/
def termN (neg : Bool) (m : Nat) (e : Int) : Int :=
  let k := e + 298
  let v : Nat := if 0 ≤ k then m * 2 ^ k.toNat else m / 2 ^ (-k).toNat
  if neg then -(v : Int) else v

/-- LA_Add (R63): adds one term. An invalid term is given as none. -/
def LA.addTerm (a : LA) (t : Option FVal) : LA :=
  match t with
  | none => { a.touch with invalid := true }
  | some (.nan _) => { a.touch with nan := true }
  | some (.inf true) => { a.touch with ninf := true }
  | some (.inf false) => { a.touch with pinf := true }
  | some (.fin s m e) => (a.addN (termN s m e)).touch

/-- Merges B's value and status into A (R72). -/
def LA.merge (a b : LA) : LA :=
  let s := (a.addN b.n).touch
  { s with ovf := s.ovf || b.ovf, nan := s.nan || b.nan, pinf := s.pinf || b.pinf, ninf := s.ninf || b.ninf,
           invalid := s.invalid || b.invalid }

/-- An ill-formed image merged into an LA or cell (R71). DESIGN CHOICE (log 74): IN_USE and DIRTY of the target are set too,
as R61 gives for any merge that writes an LA, though R71 keeps its other status bits. -/
def LA.mergeIll (a : LA) : LA := { a.touch with invalid := true }

/-- One sweep of car_k, k ≤ 8 (R65): N unchanged. The carry that leaves segment k + 1 goes to car_(k+1). -/
def LA.sweep (a : LA) (k : Nat) : LA :=
  let c := (a.car[k]?).getD 0
  let b := ({ a with car := a.car.set k 0 } : LA).addSegs (c * (2 ^ (64 * (k + 1)) : Nat))
  if b.n = a.n && b.inRange then b else a

/-- CPEND (R60). -/
def LA.cpend (a : LA) : Nat :=
  ((List.range 9).map (fun k => (a.car[k]?).getD 0) ++ [a.guard]).foldr (fun c acc => b2n (c != 0) + 2 * acc) 0

/-- The status word (R60). -/
def LA.status (a : LA) : Nat :=
  b2n a.inUse + 2 * b2n a.dirty + 4 * b2n a.ovf + 8 * b2n a.nan + 16 * b2n a.pinf + 32 * b2n a.ninf
    + 64 * b2n a.invalid + 2 ^ 16 * a.cpend + 2 ^ 40 * imod 8 a.guard

/-- Sets the RW fields of the status word (R60): bits 0 to 6 and GUARD. -/
def LA.withStatus (a : LA) (w : Nat) : LA :=
  let b (i : Nat) : Bool := w / 2 ^ i % 2 = 1
  { a with inUse := b 0, dirty := b 1, ovf := b 2, nan := b 3, pinf := b 4, ninf := b 5, invalid := b 6,
           guard := sext 8 (w / 2 ^ 40 % 256) }

/-- The 128-byte image (R70). -/
def LA.image (a : LA) : List Byte :=
  let r := a.resolve
  toBytes 80 r.seg.toNat ++ toBytes 8 r.status ++ List.replicate 40 0

/-- Whether an image is well-formed (R71). -/
def imageOk (l : List Byte) : Bool :=
  let w := ofBytes ((l.drop 80).take 8)
  l.length = 128 && (l.drop 88).all (· == 0) && w / 2 ^ 48 == 0 && w / 2 ^ 26 % 2 ^ 14 == 0 && w / 2 ^ 7 % 2 ^ 9 == 0
    && w / 2 ^ 16 % 2 ^ 9 == 0

/-- The LA a well-formed image holds (R70). -/
def imageLA (l : List Byte) : LA :=
  { LA.zero with seg := BitVec.ofNat 640 (ofBytes (l.take 80)) }.withStatus (ofBytes ((l.drop 80).take 8))

/-- An LA of N = 0 with INVALID and the given marks (R71). -/
def LA.invalidOnly (used : Bool) : LA := { LA.zero with invalid := true, inUse := used, dirty := used }

/-- An image loaded in place of an LA (R71). -/
def loadImage (l : List Byte) : LA := if imageOk l then imageLA l else LA.invalidOnly true

/-- Merges an image into an LA (R71, R72). -/
def LA.mergeImage (a : LA) (l : List Byte) : LA := if imageOk l then a.merge (imageLA l) else a.mergeIll

/-- Merges a contribution into the cell held in memory (R71): the new image. -/
def mergeCell (cell contribution : List Byte) : List Byte :=
  let a := if imageOk cell then imageLA cell else LA.invalidOnly false
  (a.mergeImage contribution).image

/-- The special value of an LA, by the first rows of R68. -/
def LA.special (a : LA) : Option FVal :=
  if a.nan || a.invalid || a.overflowed || (a.pinf && a.ninf) then some (.nan false)
  else if a.pinf then some (.inf false) else if a.ninf then some (.inf true) else none

/-- LARND's result and flags (R68). -/
def LA.round (a : LA) (f : NumFmt) (mode : Round) (bsc : Int) : Nat × Flg :=
  let v := a.special.getD (.fin (a.n < 0) a.n.natAbs (-298))
  match numFp f with
  | some fp =>
    match v with
    | .nan _ => fpInvalid fp
    | .inf s => (fpWithSign fp s (fpInf fp), Flg.none)
    | .fin s m e => if m = 0 then (fpWithSign fp (mode == .rd) 0, Flg.none) else roundDy fp mode false s m e
  | none => if f = .d8 then d8From bsc false v else intFrom f mode v

end Sys2Proof.Machine
end

