-- ==== Sys2Proof/Machine/Mem.lean ====
section
/-! DEFINITION. Partitions, memory bytes, poison, and the page table walk (R3, R14, R21, R219 to R223, R226 to R228). -/

namespace Sys2Proof.Machine

/-! Partitions (R21). -/

/-- The partition a die belongs to. -/
def partOfDie (s : State) (die : Nat) : Nat := if s.part = .split then die / 2 else 0

/-- The port that owns a partition. -/
def portOfPart (s : State) (p : Nat) : Nat :=
  match s.part with
  | .whole0 => 0
  | .whole1 => 1
  | .split => p

/-- The partition a port owns, if any: a standby port owns none. -/
def partOfPort (s : State) (port : Nat) : Option Nat :=
  match s.part with
  | .whole0 => if port = 0 then some 0 else none
  | .whole1 => if port = 1 then some 0 else none
  | .split => if port < 2 then some port else none

/-- The dies of a partition, ascending. -/
def diesOf (s : State) (p : Nat) : List Nat := (List.range 4).filter fun d => partOfDie s d = p

/-- The UALink planes of a partition (R21, R372). -/
def planesOf (s : State) (p : Nat) : List Nat :=
  (List.range 18).filter fun n => s.part ≠ .split || n / 9 == p

/-! Addresses (R14, R219). -/

/-- What a physical address names (R219). -/
inductive PaKind where
  | hbm | host | pod (pos : Nat) | reserved
deriving DecidableEq, Repr

/-- The range a physical address lies in (R219). -/
def paKind (pa : Nat) : PaKind :=
  if pa < 2 ^ 39 then .hbm
  else if pa / 2 ^ 48 = 1 then .host
  else if pa / 2 ^ 48 = 8 then .pod (pa / 2 ^ 39 % 512)
  else .reserved

/-- Home die of an HBM address (R14). -/
def homeDie (pa : Nat) : Nat := pa / 2 ^ 37 % 4
/-- Stack of an HBM address (R14). -/
def stackOf (pa : Nat) : Nat := pa / 2 ^ 36 % 8
/-- Home slice of an HBM address (R201). -/
def homeSlice (pa : Nat) : Nat := (pa / 2 ^ 7 % 32) ^^^ (pa / 2 ^ 12 % 32)

/-- Key of a byte: key identifier and physical address (R176, R214); host and pod memory take no key. -/
def memKey (key pa : Nat) : Nat := (if pa < 2 ^ 39 then key else 0) * 2 ^ 52 + pa

/-! The page table's own bytes (R220 to R222). -/

/-- STATE codes (R222). -/
def pstateCode : PState → Nat
  | .free => 0 | .requested => 1 | .resident => 2 | .pinned => 3 | .migrating => 4 | .deferred => 5 | .poisoned => 6
  | .retired => 7

/-- Is a local frame one of the 352 reserved ones (R220). -/
def reservedFrame (f : Nat) : Bool := 0xFFEA0 ≤ f % 2 ^ 20

/-- The two dwords of a frame entry (R222): FREE when not listed. -/
def frameDwords (s : State) (id : Nat) : Nat × Nat :=
  match aget s.frames id with
  | some f =>
    (f.vpn * 2 ^ 24 + f.ctx * 2 ^ 12 + f.key,
     f.next.toNat * 2 ^ 40 + pstateCode f.st * 2 ^ 37 + f.gran * 2 ^ 35 + f.perm * 2 ^ 32 + b2n f.reduce * 2 ^ 31
       + b2n f.accum * 2 ^ 30 + b2n f.observed * 2 ^ 29 + b2n f.large * 2 ^ 28 + f.pincnt * 2 ^ 20 + f.rcnt * 2 ^ 12)
  | none => (0, if reservedFrame id then 7 * 2 ^ 37 else 0)

/-- The two dwords of an aperture entry (R222). -/
def apertDwords (s : State) (id : Nat) : Nat × Nat :=
  match aget s.aperts id with
  | some a =>
    (a.vpn * 2 ^ 24 + a.ctx * 2 ^ 12,
     a.next.toNat * 2 ^ 40 + 2 * 2 ^ 37 + a.perm * 2 ^ 32 + b2n a.reduce * 2 ^ 31 + 2 ^ 28 + a.target)
  | none => (0, 0)

/-- A byte of the page-table structures at a stack's offset (R220). -/
def tableByte (s : State) (pa : Nat) : Byte :=
  let st := stackOf pa
  let off := pa % 2 ^ 36 - 0xFFEA00000
  if off < 2 ^ 24 then
    let d := frameDwords s (st * 2 ^ 20 + off / 16)
    BitVec.ofNat 8 ((d.1 + 2 ^ 64 * d.2) / 2 ^ (8 * (off % 16)))
  else if off < 2 ^ 24 + 2 ^ 21 then
    let k := off - 2 ^ 24
    let d := apertDwords s (st * 2 ^ 17 + k / 16)
    BitVec.ofNat 8 ((d.1 + 2 ^ 64 * d.2) / 2 ^ (8 * (k % 16)))
  else
    let k := off - 2 ^ 24 - 2 ^ 21
    let a := (agetD s.anchors (st * 2 ^ 20 + k / 4) 0xFFFFFF).toNat
    BitVec.ofNat 8 (a / 2 ^ (8 * (k % 4)))

/-- Does an address lie in the page-table structures (R220). -/
def inTables (pa : Nat) : Bool := pa < 2 ^ 39 && 0xFFEA00000 ≤ pa % 2 ^ 36

/-! Bytes. -/

/-- One byte of memory. HBM is wiped to zero at cold reset (R403); what host and pod memory hold before a write is
the model's choice (log 2). -/
def readByte (s : State) (key pa : Nat) : Byte :=
  if inTables pa then tableByte s pa else agetD s.mem (memKey key pa) 0

/-- Writes one byte; the page-table structures are written by the page engine only (R222). -/
def writeByte (s : State) (key pa : Nat) (b : Byte) : State :=
  if inTables pa then s else { s with mem := asetD s.mem (memKey key pa) b 0 }

/-- n bytes in address order. -/
def readRaw (s : State) (key pa : Nat) : Nat → List Byte
  | 0 => []
  | n + 1 => readByte s key pa :: readRaw s key (pa + 1) n

/-- Writes bytes in address order. -/
def writeRaw (s : State) (key pa : Nat) : List Byte → State
  | [] => s
  | b :: r => writeRaw (writeByte s key pa b) key (pa + 1) r

/-- Writes a frame of HBM with zeros, for every key. -/
def wipePages (s : State) (pa n : Nat) : State :=
  { s with mem := s.mem.filter fun c => !(pa ≤ c.1 % 2 ^ 52 && c.1 % 2 ^ 52 < pa + n * 2 ^ 16 && pa < 2 ^ 39),
           bad := s.bad.filter fun c => !(pa ≤ c.1 && c.1 < pa + n * 2 ^ 16) }

/-! Granules and poison (R226, R227). -/

/-- Bytes of a granule code (R226). -/
def granBytes (g : Nat) : Nat := if g = 0 then 32 else if g = 1 then 128 else 512

/-- Granule size at an address: that of its frame. -/
def granAt (s : State) (pa : Nat) : Nat :=
  match aget s.frames (pa / 2 ^ 16) with
  | some f => granBytes f.gran
  | none => 128

/-- Does the access meet a granule in error: poisoned already, or holding an error that this access finds. -/
def inError (s : State) (pa n : Nat) : Bool :=
  paKind pa = .hbm &&
    (s.bad.any (fun b => b.1 < pa + n && pa < b.1 + b.2)
      || s.latent.any fun a => pa / granAt s pa * granAt s pa ≤ a
        && a < (pa + n + granAt s pa - 1) / granAt s pa * granAt s pa)

/-- The frames of the page a frame belongs to (R222): itself, or the 256 of its large page. -/
def pageFrames (s : State) (id : Nat) : List Nat :=
  match aget s.frames id with
  | some f => if f.large then (List.range 256).map (id - f.vpn % 256 + ·) else [id]
  | none => []

/-- Changes every frame entry of a page alike (R222). -/
def modPage (s : State) (id : Nat) (h : Frame → Frame) : State :=
  { s with frames := (pageFrames s id).foldl (fun m k => amod m k h) s.frames }

/-- The state a page takes when an error is found in it (R239): a migration in progress ends as R237 gives. -/
def Frame.poison (f : Frame) : Frame := { f with st := if f.st = .migrating then f.st else .poisoned, bad := true }

/-- The STATE of a page with no work pending on it: POISONED until it is unmapped, else PINNED or RESIDENT (R227, R239). -/
def Frame.rest (f : Frame) : PState := if f.bad then .poisoned else if f.pincnt ≠ 0 then .pinned else .resident

/-- Poisons the granule at an address: the poison code is written, the page's STATE becomes POISONED, and the error is
logged (R227). A retirement mark or pending operation is kept. -/
def poisonGranule (s : State) (pa : Nat) : State :=
  let g := granAt s pa
  let base := pa / g * g
  modPage { s with bad := aset s.bad base g, latent := s.latent.filter fun a => !(base ≤ a && a < base + g),
                   log := s.log ++ [.memError base] }
    (pa / 2 ^ 16) Frame.poison

/-- Finds the errors an access meets (R227): each granule with an error not found before is poisoned. -/
def findErrors (s : State) (pa n : Nat) : State :=
  let g := granAt s pa
  (s.latent.filter fun a => pa / g * g ≤ a && a < (pa + n + g - 1) / g * g).foldl (fun s a => poisonGranule s a) s

/-- A write performed at home (R227): a granule it covers whole loses its poison or its error; the bytes that fall into
a poisoned granule it covers in part are discarded. -/
def homeWrite (s : State) (key pa : Nat) (data : List Byte) : State :=
  let n := data.length
  if inError s pa n then
    let covered (b sz : Nat) : Bool := pa ≤ b && b + sz ≤ pa + n
    let g := granAt s pa
    let s := { s with latent := s.latent.filter fun a => !(covered (a / g * g) g) }
    let s := findErrors s pa n
    let s := { s with bad := s.bad.filter fun b => !(covered b.1 b.2) }
    (List.range n).foldl (fun s i =>
      if s.bad.any (fun b => b.1 ≤ pa + i && pa + i < b.1 + b.2) then s
      else writeByte s key (pa + i) ((data[i]?).getD 0)) s
  else writeRaw s key pa data

/-! The walk (R221 to R223). -/

/-- The end of a chain. -/
def endLink : BitVec 24 := 0xFFFFFF

/-- The hash of a context and a key VPN (R223). -/
def pageHash (c v : Nat) : Nat := (v % 2 ^ 23) ^^^ (v / 2 ^ 23 % 2 ^ 17) ^^^ (c * 2 ^ 11 % 2 ^ 23)

/-- A translation: key identifier, physical address, STATE, PERM, attributes, and the entry it came from (frame number
or aperture number). -/
structure Tr where
  key : Nat
  pa : Nat
  st : PState
  perm : Nat
  reduce : Bool
  accum : Bool
  observed : Bool
  large : Bool
  aper : Bool
  entry : Nat
deriving DecidableEq, Repr

/-- Does a link name an aperture entry (R221). -/
def linkAper (l : BitVec 24) : Bool := l.getLsbD 23
/-- The map key of the entry a link names. -/
def linkKey (l : BitVec 24) : Nat :=
  if linkAper l then l.toNat / 2 ^ 20 % 8 * 2 ^ 17 + l.toNat % 2 ^ 17 else l.toNat % 2 ^ 23
/-- The link to a frame entry. -/
def frameLink (id : Nat) : BitVec 24 := BitVec.ofNat 24 id
/-- The link to an aperture entry. -/
def apertLink (id : Nat) : BitVec 24 := BitVec.ofNat 24 (2 ^ 23 + id / 2 ^ 17 * 2 ^ 20 + id % 2 ^ 17)

/-- A chain walk of at most fuel entries: the link of the entry that matches. -/
def chainFind (s : State) (c v : Nat) (large : Bool) : Nat → BitVec 24 → Option (BitVec 24)
  | 0, _ => none
  | fuel + 1, l =>
    if l = endLink then none
    else if linkAper l then
      match aget s.aperts (linkKey l) with
      | some a => if a.vpn = v && a.ctx == c && large then some l else chainFind s c v large fuel a.next
      | none => none
    else
      match aget s.frames (linkKey l) with
      | some f =>
        if f.vpn = v && f.ctx == c && f.st != .free && f.large == large then some l
        else chainFind s c v large fuel f.next
      | none => none

/-- The anchor of a context and key. -/
def anchorOf (s : State) (c v : Nat) : BitVec 24 := agetD s.anchors (pageHash c v) endLink

/-- Walk (R223): the link of the page's entry, and whether it is the large one. -/
def walkLink (s : State) (c va : Nat) : Option (BitVec 24 × Bool) :=
  match chainFind s c (va / 2 ^ 16) false 65 (anchorOf s c (va / 2 ^ 16)) with
  | some l => some (l, false)
  | none =>
    let v := va / 2 ^ 24 * 2 ^ 8
    (chainFind s c v true 65 (anchorOf s c v)).map fun l => (l, true)

/-- Walk and translation (R223). -/
def walk (s : State) (c va : Nat) : Option Tr :=
  match walkLink s c va with
  | none => none
  | some (l, large) =>
    if linkAper l then
      (aget s.aperts (linkKey l)).map fun a =>
        { key := 0, pa := a.target * 2 ^ 24 + va % 2 ^ 24, st := .resident, perm := a.perm, reduce := a.reduce,
          accum := false, observed := false, large := true, aper := true, entry := linkKey l }
    else
      (aget s.frames (linkKey l)).map fun f =>
        { key := f.key,
          pa := if large then (linkKey l + va / 2 ^ 16 % 2 ^ 8) * 2 ^ 16 + va % 2 ^ 16
                else linkKey l * 2 ^ 16 + va % 2 ^ 16,
          st := f.st, perm := f.perm, reduce := f.reduce, accum := f.accum, observed := f.observed, large := large,
          aper := false, entry := linkKey l }

/-- Is the page absent for an access (R228): a write-like access also finds a MIGRATING page absent. -/
def Tr.absentFor (t : Tr) (writes : Bool) : Bool :=
  t.st == .requested || (writes && t.st == .migrating)

/-- Is a key slot LOADED (R87). -/
def keyLoaded (s : State) (k : Nat) : Bool :=
  match aget s.keys k with
  | some e => !e.retiring
  | none => false

/-! Reaching other modules (R371, R372) and hosts (R373). -/

/-- Is a LSTAT state UP or DEGRADED. -/
def linkUp (st : Nat) : Bool := st = 2 || st = 3

/-- LSTAT.STATE codes (R374). -/
def linkCode : LinkSt → Nat
  | .down => 0 | .training => 1 | .up => 2 | .degraded => 3 | .retraining => 4 | .dead => 5 | .isolated => 6

/-- The planes on which a partition of this module reaches a pod position (R371, R372). -/
def planesTo (s : State) (p pos : Nat) : List Nat :=
  if pos = s.podPos then []
  else (planesOf s p).filter fun n =>
    (match s.uports[n]? with
     | some q => linkUp (linkCode q.st)
     | none => false) && linkUp (agetD s.reach (pos * 18 + n) 0)

/-- Is a peer reachable from a partition. -/
def reachable (s : State) (p pos : Nat) : Bool := !(planesTo s p pos).isEmpty

/-- Is a drain round in progress that concerns a pod position (R377). -/
def draining (s : State) (pos : Nat) : Bool := s.drains.any fun d => d.pos.isNone || d.pos == some pos

/-- The planes that carry a partition's requests for a pod address (R372): a WHOLE module reaches stacks 0 to 3 of a
SPLIT one over planes 0 to 8, and stacks 4 to 7 over planes 9 to 17. -/
def planesFor (s : State) (p pos pa : Nat) : List Nat :=
  (planesOf s p).filter fun n => s.part == .split || !s.podSplit.contains pos || n / 9 == stackOf pa / 4

/-- Is a pod address reached on some plane. -/
def reaches (s : State) (p pos pa : Nat) : Bool := (planesTo s p pos).any (planesFor s p pos pa).contains

/-- Is a plane one that the LSUs applied let carry traffic, retraining or not (R371, R375, R378). -/
def planeLives (s : State) (pos n : Nat) : Bool :=
  let lives (st : Nat) : Bool := linkUp st || st = 4
  pos != s.podPos && ((s.uports[n]?).any fun q => lives (linkCode q.st)) && lives (agetD s.reach (pos * 18 + n) 0)

/-- Has an LSU made a pod address unreachable (R378). -/
def peerLost (s : State) (p pos pa : Nat) : Bool := !((planesFor s p pos pa).any (planeLives s pos))

/-- Is the host reachable through the port that owns a partition (R373). -/
def hostUp (s : State) (p : Nat) : Bool :=
  match s.pports[portOfPart s p]? with
  | some q => q.st != .down
  | none => false

/-- What stands between a partition and a physical address: nothing; traffic that is held while a link retrains or a
drain lasts (R375, R377); a peer, host or other partition that is lost; a refusal at the target (R372). -/
inductive Way where
  | free | held | lost | abort
deriving DecidableEq, Repr

/-- The way from a partition to an address (R21, R371 to R373, R377). In SPLIT mode no link carries data between the
partitions, and each is unreachable from the other (R21, R372; log 66). -/
def wayTo (s : State) (p pa : Nat) : Way :=
  match paKind pa with
  | .hbm => if s.part = .split && homeDie pa / 2 ≠ p then .lost else .free
  | .host => if hostUp s p then .free else .lost
  | .pod pos =>
    if reaches s p pos pa then
      if s.part = .split && s.podSplit.contains pos && homeDie pa / 2 ≠ p then .abort else .free
    else if pos ≠ s.podPos && (draining s pos || !peerLost s p pos pa) then .held
    else .lost
  | .reserved => .free

/-- TRAPVAL of REMOTE_LOSS at an address (R313, R373): the pod position, or 0x200 and the port. -/
def lossVal (s : State) (p pa : Nat) : Nat :=
  match paKind pa with
  | .pod pos => pos
  | .host => 0x200 + portOfPart s p
  | _ => s.podPos

end Sys2Proof.Machine
end

