-- ==== Sys2Proof/Machine/Flags.lean ====
section
/-! DEFINITION. Flag and format state of a group: the sticky flags (R41, R42), the fields of FMT (R259), the masks that
give a lane its standing (R135). -/

namespace Sys2Proof.Machine

/-- FMT.RM (R37, R259). -/
def fmtRm (fmt : Dword) : Round :=
  match bits fmt 25 24 with
  | 0 => .rn
  | 1 => .rz
  | 2 => .ru
  | _ => .rd

/-- FMT.FTZ. -/
def fmtFtz (fmt : Dword) : Bool := bit fmt 26
/-- FMT.TA. -/
def fmtTa (fmt : Dword) : Bool := bit fmt 27
/-- FMT.TB. -/
def fmtTb (fmt : Dword) : Bool := bit fmt 28
/-- FMT.SAT. -/
def fmtSat (fmt : Dword) : Bool := bit fmt 29
/-- FMT.ASC. -/
def fmtAsc (fmt : Dword) : Int := sext 8 (bits fmt 15 8)
/-- FMT.BSC. -/
def fmtBsc (fmt : Dword) : Int := sext 8 (bits fmt 23 16)

/-- The format of a code (R28); 13 to 15 are reserved. -/
def numOfCode : Nat → Option NumFmt
  | 0 => some .fp64 | 1 => some .fp32 | 2 => some .fp16 | 3 => some .bf16 | 4 => some .d8 | 5 => some .int8
  | 6 => some .nat8 | 7 => some .int16 | 8 => some .nat16 | 9 => some .int32 | 10 => some .nat32 | 11 => some .int64
  | 12 => some .nat64
  | _ => none

/-- FMT.AF. -/
def fmtAf (fmt : Dword) : Option NumFmt := numOfCode (bits fmt 3 0)
/-- FMT.BF. -/
def fmtBf (fmt : Dword) : Option NumFmt := numOfCode (bits fmt 7 4)
/-- FMT.OF. -/
def fmtOf (fmt : Dword) : Option NumFmt := numOfCode (bits fmt 35 32)

/-- The check of FMTSET and of an MTS to FMT (R259, R276). -/
def fmtLegal (v : Dword) : Bool :=
  bits v 63 36 == 0 && bits v 31 30 == 0 && (fmtAf v).isSome && (fmtBf v).isSome && (fmtOf v).isSome

/-- The guard mask (R135): all ones when no span is open. -/
def Group.guard (g : Group) : Mask := if g.grem = 0 then BitVec.allOnes 32 else g.gmask

/-- The active lanes (R135). -/
def Group.active (g : Group) : Mask := g.exec &&& g.guard

/-- The active member lanes (R135, R136). -/
def Group.members (g : Group) : Mask := g.active &&& g.lmem

/-- Is the lane an active member. -/
def Group.isMember (g : Group) (l : Nat) : Bool := g.members.getLsbD l

/-- Sets a lane's bit of a mask when asked. -/
def orLane (m : Mask) (l : Nat) (b : Bool) : Mask := if b then m ||| (1#32 <<< l) else m

/-- Raises flags in a lane (R41); a helper lane raises none (R136). -/
def Group.raise (g : Group) (l : Nat) (f : Flg) : Group :=
  if g.isMember l then
    { g with fpxNV := orLane g.fpxNV l f.nv, fpxDZ := orLane g.fpxDZ l f.dz, fpxOF := orLane g.fpxOF l f.ov,
             fpxUF := orLane g.fpxUF l f.uf, fpxNX := orLane g.fpxNX l f.nx }
  else g

/-- Raises the flags of several lanes. -/
def Group.raiseAll (g : Group) (fs : List (Nat × Flg)) : Group := fs.foldl (fun g p => g.raise p.1 p.2) g

end Sys2Proof.Machine
end

