-- ==== Sys2Proof/Machine/Operands.lean ====
section
/-! DEFINITION. Operands of a group's instructions: registers seen through the window, the scalar-destination rule,
predicates, and what each instruction reads, writes and promises (R145, R150, R246 to R248, R269, R270). -/

namespace Sys2Proof.Machine

/-- Key of a physical vector register in a lane. -/
def vKey (phys lane : Nat) : Nat := 32 * phys + lane

/-- Vector register n seen through the window, in a lane (R145). -/
def Group.readV (g : Group) (n lane : Nat) : Dword := agetD g.vregs (vKey (g.wbase + n) lane) 0
/-- Scalar register n. -/
def Group.readSn (g : Group) (n : Nat) : Dword := agetD g.sregs n 0
/-- A register of kind S (R246): z reads as 0. -/
def Group.readS (g : Group) : SReg → Dword
  | .z => 0
  | .s n => g.readSn n
/-- A register of kind R in a lane (R246, R247). -/
def Group.readR (g : Group) (r : GReg) (lane : Nat) : Dword :=
  match r with
  | .z => 0
  | .v n => g.readV n lane
  | .s n => g.readSn n
/-- Register i of an operand block in a lane (R319). -/
def Group.readB (g : Group) (r : BReg) (i lane : Nat) : Dword :=
  match r with
  | .v n => g.readV (n + i) lane
  | .s n => g.readSn (n + i)
/-- A predicate in a lane: pt reads all ones (R11). -/
def Group.readP (g : Group) (p : PReg) (lane : Nat) : BitVec 8 :=
  if p = 15 then 255 else agetD g.preds (32 * p + lane) 0

/-- Writes vector register n in a lane. -/
def Group.writeV (g : Group) (n lane : Nat) (x : Dword) : Group :=
  { g with vregs := asetD g.vregs (vKey (g.wbase + n) lane) x 0 }
/-- Writes scalar register n. -/
def Group.writeSn (g : Group) (n : Nat) (x : Dword) : Group := { g with sregs := asetD g.sregs n x 0 }
/-- Writes a register of kind S: a write to z is discarded (R246). -/
def Group.writeS (g : Group) (r : SReg) (x : Dword) : Group :=
  match r with
  | .z => g
  | .s n => g.writeSn n x
/-- Writes a register of kind R in a lane (R246). -/
def Group.writeR (g : Group) (r : GReg) (lane : Nat) (x : Dword) : Group :=
  match r with
  | .z => g
  | .v n => g.writeV n lane x
  | .s n => g.writeSn n x
/-- Writes a predicate in a lane: a write to pt is discarded (R246). -/
def Group.writeP (g : Group) (p : PReg) (lane : Nat) (x : BitVec 8) : Group :=
  if p = 15 then g else { g with preds := asetD g.preds (32 * p + lane) x 0 }

/-- The active lanes, ascending. -/
def Group.lanesOn (g : Group) : List Nat := lanesOf g.active

/-- The lanes in which an instruction with this destination is evaluated (R247). -/
def Group.evalLanes (g : Group) (d : GReg) : List Nat :=
  match d with
  | .s _ => lowest g.lanesOn
  | _ => g.lanesOn

/-- Writes a destination in lanes, the values read before (R9). -/
def Group.writeAll (g : Group) (d : GReg) (vs : List (Nat × Dword)) : Group :=
  vs.foldl (fun g p => g.writeR d p.1 p.2) g

/-- Writes a predicate in lanes. -/
def Group.writeAllP (g : Group) (p : PReg) (vs : List (Nat × BitVec 8)) : Group :=
  vs.foldl (fun g q => g.writeP p q.1 q.2) g

/-- Writes f of each evaluated lane to d (R247). -/
def Group.laneResult (g : Group) (d : GReg) (f : Nat → Dword) : Group :=
  g.writeAll d ((g.evalLanes d).map fun l => (l, f l))

/-- Writes f of each evaluated lane to d and raises its flags there (R41, R247). -/
def Group.laneResultF (g : Group) (d : GReg) (f : Nat → Dword × Flg) : Group :=
  let r := (g.evalLanes d).map fun l => (l, f l)
  (g.writeAll d (r.map fun p => (p.1, p.2.1))).raiseAll (r.map fun p => (p.1, p.2.2))

/-- Writes f of each active lane to predicate p (R247, R270). -/
def Group.laneResultP (g : Group) (p : PReg) (f : Nat → BitVec 8) : Group :=
  g.writeAllP p (g.lanesOn.map fun l => (l, f l))

/-- The status of a SYNC function: 0xFF or 0x00 in each active lane (R163). -/
def Group.status (g : Group) (pd : PReg) (ok : Bool) : Group := g.laneResultP pd fun _ => if ok then 255 else 0

/-- A value that is one for the group, written to d as QSTAT writes it (R330): a scalar whatever EXEC holds. -/
def Group.writeGroup (g : Group) (d : GReg) (x : Dword) : Group :=
  match d with
  | .s n => g.writeSn n x
  | d => g.laneResult d fun _ => x

/-- A source that gives one value: a scalar or z, or the lowest active lane's value of a vector register (R257). -/
def Group.readOne (g : Group) (r : GReg) : Option Dword :=
  match r with
  | .v n => (g.lanesOn.head?).map fun l => g.readV n l
  | .z => some 0
  | .s n => some (g.readSn n)

/-! What an instruction names. -/

/-- The registers an instruction names: runs of vector registers in the order d, a, b, scalar registers, predicates,
and runs of accumulators. -/
structure Uses where
  v : List (Nat × Nat) := []
  s : List Nat := []
  p : List Nat := []
  a : List (Nat × Nat) := []
deriving DecidableEq, Repr

/-- Both. -/
def Uses.and (x y : Uses) : Uses := ⟨x.v ++ y.v, x.s ++ y.s, x.p ++ y.p, x.a ++ y.a⟩

/-- A register of kind R. -/
def useR : GReg → Uses
  | .z => {}
  | .v n => { v := [(n, 1)] }
  | .s n => { s := [n] }
/-- A register of kind S. -/
def useS : SReg → Uses
  | .z => {}
  | .s n => { s := [n] }
/-- k registers of an operand block. -/
def useB (k : Nat) : BReg → Uses
  | .v n => { v := [(n, k)] }
  | .s n => { s := (List.range k).map (n + ·) }
/-- A predicate. -/
def useP (p : PReg) : Uses := { p := [p] }
/-- k accumulators. -/
def useA (a : CReg) (k : Nat) : Uses := { a := [(a, k)] }
/-- k vector registers. -/
def useV (n : VReg) (k : Nat) : Uses := { v := [(n, k)] }
/-- Scalar registers n to n + k − 1. -/
def useSs (n k : Nat) : Uses := { s := (List.range k).map (n + ·) }
/-- Three of kind R. -/
def useRRR (d a b : GReg) : Uses := ((useR d).and (useR a)).and (useR b)
/-- Two of kind R. -/
def useRR (d a : GReg) : Uses := (useR d).and (useR a)
/-- An M-format d, a, f of kind R. -/
def useRRP (d a : GReg) (f : PReg) : Uses := (useRR d a).and (useP f)
/-- An atomic's d, operand block and f. -/
def useRBP (d : GReg) (k : Nat) (a : BReg) (f : PReg) : Uses := ((useR d).and (useB k a)).and (useP f)

/-- What an instruction reads or writes (R145, R150, R343). SYNC functions read and write no lookahead result (R329)
and are handled apart; STAGE reads nothing (R148). -/
def uses : Instr → Uses
  | .trap _ a => useR a
  | .sleep a | .win a | .awin a | .record a => useS a
  | .mfs d _ | .mts _ d | .fmtget d | .clock d => useR d
  | .fmtset a b | .launch a b => (useS a).and (useS b)
  | .bra p _ _ | .brl p _ _ | .brd p _ _ | .gspan p _ _ => useP p
  | .call _ | .ret => { s := [15] }
  | .jmpr a => useS a
  | .callr a => (useS a).and { s := [15] }
  | .loop _ _ a => useS a
  | .pgreq d a f _ | .pgqry d a f _ | .pgpin d a f _ | .pgunpin d a f _ => useRRP d a f
  | .pref a f _ => (useR a).and (useP f)
  | .spl d a f _ | .fil d a f _ => ((useV d 1).and (useS a)).and (useP f)
  | .mapr d a f _ | .ldu d a _ f _ => ((useS d).and (useS a)).and (useP f)
  | .syncr d f _ | .unmapr d f _ => (useS d).and (useP f)
  | .iadd _ d a b | .isub _ d a b | .imul _ d a b | .imulhs _ d a b | .imulhn _ d a b | .imad _ d a b
  | .imins _ d a b | .imaxs _ d a b | .iminn _ d a b | .imaxn _ d a b
  | .andR _ d a b | .orR _ d a b | .xorR _ d a b | .andnR _ d a b | .shl _ d a b | .shr _ d a b | .sar _ d a b
  | .rot _ d a b | .bfxs _ d a b | .bfxn _ d a b | .bfi _ d a b | .prmb d a b | .iadds _ d a b | .iaddn _ d a b
  | .lea d a b _ => useRRR d a b
  | .iaddc _ d a b | .isubb _ d a b | .imadw d a b => (useRRR d a b).and { p := [14] }
  | .iabs _ d a | .popc _ d a | .clz _ d a | .brev _ d a | .mov _ d a => useRR d a
  | .iset _ _ _ pd a b | .fset _ _ _ pd a b | .fsets _ _ _ pd a b => (useP pd).and (useRR a b)
  | .pand d a b | .por d a b | .pxor d a b | .pandn d a b => { p := [d, a, b] }
  | .pnot d a | .pmov d a | .vany d a | .vall d a => { p := [d, a] }
  | .addi d a _ | .andi d a _ | .ori d a _ | .xori d a _ | .shli d a _ | .shri d a _ | .sari d a _ => useRR d a
  | .movw d _ _ | .movk d _ _ => useR d
  | .fadd _ _ d a b | .fsub _ _ d a b | .fmul _ _ d a b | .ffma _ _ d a b | .ffms _ _ d a b | .fnma _ _ d a b
  | .fmin _ _ d a b | .fmax _ _ d a b | .fcsgn _ _ d a b | .fdiv _ _ d a b | .fscl _ _ d a b => useRRR d a b
  | .fabs _ _ d a | .fneg _ _ d a | .frndn _ _ d a | .frndz _ _ d a | .frndp _ _ d a | .frndm _ _ d a
  | .fclass _ _ d a | .frcp _ _ d a | .frsq _ _ d a | .fsqrt _ _ d a | .fexp2 _ _ d a | .flog2 _ _ d a
  | .cvt _ _ _ _ d a => useRR d a
  | .qpush _ a n | .ecpy _ a n | .egath _ a n | .escat _ a n | .ercpy _ a n | .efill _ a n | .emig _ a n =>
    useSs a (n + 1)
  | .qpop d _ | .qtry d _ =>
    match d with
    | .z => {}
    | .s n => useSs n 2
  | .qbind _ a => useS a
  | .qstat d _ | .qdrain d _ => useR d
  | .laclr d n | .lacrs d n => useA d (n + 1)
  | .laadd d a | .laadds d a | .lasub d a | .laput d a _ => (useR a).and (useA d 1)
  | .lamad d a b | .lamsb d a b | .ladot d a b => (useRR a b).and (useA d 1)
  | .lamrg d a | .lamov d a | .laneg d a | .laxb d a _ => (useA d 1).and (useA a 1)
  | .laxl d a b => ((useA d 1).and (useA a 1)).and (useR b)
  | .laflg d a | .larnd d a _ _ _ | .laseg d a _ _ => (useR d).and (useA a 1)
  | .mma d a b _ _ => ((useV a 4).and (useV b 4)).and (useA d 8)
  | .mmas d a b _ _ => ((useV a 4).and (useV b 8)).and (useA d 8)
  | .xln _ _ d a b => useRRR d a b
  | .xliBfly _ d a _ _ | .xliBcast _ d a _ _ | .xliRotup _ d a _ _ | .xliRotdn _ d a _ _ => useRR d a
  | .qxh d a | .qxv d a | .qxd d a | .qbc0 d a | .qbc1 d a | .qbc2 d a | .qbc3 d a | .mbcnt d a => useRR d a
  | .vbal d a | .vfirst d a => (useR d).and (useP a)
  | .last d a f _ | .lald d a f _ => ((useR a).and (useP f)).and (useA d 1)
  | .ld _ _ d a f _ | .ldx _ _ d a f _ | .st _ _ d a f _ | .stx _ _ d a f _ | .lds _ d a f _ | .ldsc _ d a f _
  | .sts _ d a f _ | .stsc _ d a f _ => useRRP d a f
  | .atomAdd d a f _ | .atomMins d a f _ | .atomMaxs d a f _ | .atomMinn d a f _ | .atomMaxn d a f _
  | .atomAnd d a f _ | .atomOr d a f _ | .atomXor d a f _ | .atomXchg d a f _ | .atomIncw d a f _
  | .atomwAdd d a f _ | .atomwMins d a f _ | .atomwMaxs d a f _ | .atomwMinn d a f _ | .atomwMaxn d a f _
  | .atomwAnd d a f _ | .atomwOr d a f _ | .atomwXor d a f _ | .atomwXchg d a f _ | .atomwIncw d a f _ =>
    useRBP d 2 a f
  | .atomCas d a f _ | .atomwCas d a f _ => useRBP d 3 a f
  | .ataccAddp d a f _ => useRBP d 2 a f
  | .ataccAddv d a f _ | .ataccClr d a f _ => useRBP d 1 a f
  | _ => {}

/-- The results an M- or X-format instruction promises under its lookahead, with the lookahead (R150, R248). -/
def promised : Instr → Uses × Nat
  | .pgreq d _ f la | .pgqry d _ f la | .pgpin d _ f la | .pgunpin d _ f la => ((useR d).and (useP f), la)
  | .pref _ f la | .spl _ _ f la => (useP f, la)
  | .fil d _ f la => ((useV d 1).and (useP f), la)
  | .mapr _ _ f la => (useP f, la)
  | .syncr _ f la | .unmapr _ f la => (useP f, la)
  | .ldu d _ _ f la => ((useS d).and (useP f), la)
  | .larnd d _ _ _ la | .laseg d _ _ la => (useR d, la)
  | .mma d _ _ _ la | .mmas d _ _ _ la => (useA d 8, la)
  | .last _ _ f la => (useP f, la)
  | .lald d _ f la => ((useA d 1).and (useP f), la)
  | .ld _ _ d _ f la | .ldx _ _ d _ f la | .lds _ d _ f la | .ldsc _ d _ f la => ((useR d).and (useP f), la)
  | .st _ _ _ _ f la | .stx _ _ _ _ f la | .sts _ _ _ f la | .stsc _ _ _ f la => (useP f, la)
  | .atomAdd d _ f la | .atomMins d _ f la | .atomMaxs d _ f la | .atomMinn d _ f la | .atomMaxn d _ f la
  | .atomAnd d _ f la | .atomOr d _ f la | .atomXor d _ f la | .atomXchg d _ f la | .atomIncw d _ f la
  | .atomwAdd d _ f la | .atomwMins d _ f la | .atomwMaxs d _ f la | .atomwMinn d _ f la | .atomwMaxn d _ f la
  | .atomwAnd d _ f la | .atomwOr d _ f la | .atomwXor d _ f la | .atomwXchg d _ f la | .atomwIncw d _ f la
  | .atomCas d _ f la | .atomwCas d _ f la => ((useR d).and (useP f), la)
  | .ataccAddv _ _ f la | .ataccAddp _ _ f la | .ataccClr _ _ f la => (useP f, la)
  | _ => ({}, 0)

/-- Window indices of runs. -/
def runNums (l : List (Nat × Nat)) : List Nat := l.flatMap fun p => (List.range p.2).map (p.1 + ·)

end Sys2Proof.Machine
end

