-- ==== Sys2Proof/Machine/GroupOps.lean ====
section
/-! DEFINITION. What happens to a group around one instruction: lookahead (R150), spans (R142 to R144), loops (R152),
regions (R118), signature (R157), trap entry (R393). Nothing here looks beyond the group. -/

namespace Sys2Proof.Machine

/-- The addresses of a program counter: 56 bits (R218). -/
def pcNext (pc : Dword) : Dword := pc + 4

/-! Pending results (R150). -/

/-- Lands the register and predicate results of a pending instruction. -/
def Group.land (g : Group) (p : Pend) : Group :=
  { g with vregs := p.vw.foldl (fun m e => asetD m e.1 e.2 0) g.vregs,
           sregs := p.sw.foldl (fun m e => asetD m e.1 e.2 0) g.sregs,
           preds := p.pw.foldl (fun m e => asetD m e.1 e.2 0) g.preds }

/-- Lands LA results: replaced, or merged (R72). -/
def landLas (las : AMap LA) (lw : AMap (Bool × LA)) : AMap LA :=
  lw.foldl (fun m e =>
    asetD m e.1 (if e.2.1 then e.2.2 else (agetD m e.1 LA.zero).merge e.2.2) LA.zero) las

/-- A group and the LAs of its block. -/
abbrev GLas := Group × AMap LA

/-- Lands one pending instruction, and keeps its promise. -/
def landOne (x : GLas) (p : Pend) : GLas := if p.landed then x else (x.1.land p, landLas x.2 p.lw)

/-- Lands every pending instruction that p chooses, in order; those keep is false of are dropped. -/
def landWhere (x : GLas) (p keep : Pend → Bool) : GLas :=
  let y := (x.1.pend.filter p).foldl landOne x
  let mark (q : Pend) : Pend := if p q then { q with landed := true, vw := [], sw := [], pw := [], lw := [] } else q
  ({ y.1 with pend := (x.1.pend.map mark).filter keep }, y.2)

/-- Before an instruction issues, those whose promise is used up complete (R150). -/
def landDue (x : GLas) : GLas := landWhere x (fun p => p.left == 0) (fun p => p.left != 0)

/-- The full drain (R150): all results complete; promises not used up stand. -/
def drain (x : GLas) : GLas := landWhere x (fun _ => true) (fun _ => true)

/-- The full drain of a trap entry (R150): promises that are not used up stand and count on. -/
def drainTrap (x : GLas) : GLas := landWhere x (fun _ => true) (fun p => p.left != 0)

/-- The full drain of a save or an end of the group: promises are dropped too (log 15). -/
def drainAll (x : GLas) : GLas := landWhere x (fun _ => true) (fun _ => false)

/-- Does a list of numbers meet another. -/
def meets (a b : List Nat) : Bool := a.any fun x => b.contains x

/-- The pending instruction whose promise an instruction with these uses would break (R150): of several the oldest, a
DESIGN CHOICE (log 77). -/
def Group.breach (g : Group) (u : Uses) : Option Dword :=
  (g.pend.find? fun p => p.left != 0 &&
    (meets p.resV ((runNums u.v).map (g.wbase + ·)) || meets p.resS u.s
      || meets p.resP (u.p.filter (· != 15)) || meets p.resA ((runNums u.a).map (g.awbase + ·)))).map Pend.addr

/-- The window fault (R145): the lowest register out of range of the first field at fault. -/
def Group.windowFault (g : Group) (regs : Nat) (l : List (Nat × Nat)) : Option Nat :=
  (runNums l).find? fun n => regs ≤ g.wbase + n

/-- Counts one executed instruction against every promise (R150). -/
def Group.countPromises (g : Group) : Group :=
  { g with pend := g.pend.map fun p => { p with left := p.left - 1 } }

/-- The key–value pairs of m that differ from old at keys p chooses, and those keys of old back in place. -/
def splitMap {V : Type} [DecidableEq V] (d : V) (old new : AMap V) (p : Nat → Bool) : AMap V × AMap V :=
  let ks := ((old.map Prod.fst) ++ (new.map Prod.fst)).filter p
  (ks.foldl (fun m k => aset m k (agetD new k d)) [], ks.foldl (fun m k => asetD m k (agetD old k d) d) new)

/-- Defers the results of an instruction with a lookahead (R150): the registers it wrote are put back, and land
later. -/
def Group.defer (old new : Group) (i : Instr) (lw : AMap (Bool × LA)) : Group :=
  let r := (promised i).1
  let vs := (runNums r.v).map (old.wbase + ·)
  let ps := r.p.filter (· != 15)
  let v := splitMap 0 old.vregs new.vregs fun k => vs.contains (k / 32)
  let s := splitMap 0 old.sregs new.sregs fun k => r.s.contains k
  let p := splitMap 0 old.preds new.preds fun k => ps.contains (k / 32)
  { new with
    vregs := v.2, sregs := s.2, preds := p.2,
    pend := new.pend ++ [{
      addr := old.pc, left := (promised i).2, landed := false, resV := vs, resS := r.s, resP := ps,
      resA := (runNums r.a).map (old.awbase + ·), vw := v.1, sw := s.1, pw := p.1, lw := lw }] }

/-! Spans (R142). -/

/-- Instructions that may not stand in a guard span (R142). -/
def barredInSpan : Instr → Bool
  | .bra .. | .brl .. | .brd .. | .join .. | .call .. | .jmpr .. | .callr .. | .ret | .endj | .loop .. | .loopi ..
  | .gspan .. | .exit | .rtt | .yield | .sleep .. | .win .. | .awin .. => true
  | _ => false

/-- Counts an instruction of an open span; the span closes after its last (R142). -/
def Group.countSpan (g : Group) (was : Nat) : Group :=
  if was = 0 then g else if was ≤ 1 then { g with grem := 0, gmask := 0 } else { g with grem := was - 1 }

/-! The signature (R156, R157). -/

/-- One step of the hash (R157). -/
def hashStep (h w : Nat) : Nat := (((h * 2) % 2 ^ 16 + h / 2 ^ 15 % 2) ^^^ (w / 2 ^ 16 % 2 ^ 16)) ^^^ (w % 2 ^ 16)

/-- HASH of SIG. -/
def Group.hash (g : Group) : Nat := g.sig.toNat % 2 ^ 16
/-- Sets HASH, keeping SKIP. -/
def Group.setHash (g : Group) (h : Nat) : Group :=
  { g with sig := BitVec.ofNat 17 (g.sig.toNat / 2 ^ 16 * 2 ^ 16 + h % 2 ^ 16) }

/-- Instructions that are not hashed (R157). -/
def unhashed : Instr → Bool
  | .sigck _ | .sigrst | .rtt => true
  | .mts sel _ => sel.val == 0x50
  | _ => false

/-- Instructions after which HASH is 0 (R157), apart from ENDJ and loop-back. -/
def hashClears : Instr → Bool
  | .bra .. | .brl .. | .brd .. | .call .. | .jmpr .. | .callr .. | .ret | .loop .. | .loopi .. => true
  | _ => false

/-- The hash after an instruction (R157): ho is the value ENDJ leaves. -/
def Group.hashAfter (g : Group) (i : Instr) (ho : Option Nat) : Group :=
  if unhashed i then g
  else
    let h := hashStep g.hash (encodeWord i).toNat
    let h := match i with
      | .mts sel _ => if sel.val == 1 then hashStep h 2 else h
      | _ => h
    g.setHash (ho.getD (if hashClears i then 0 else h))

/-! Loops (R152, R153). -/

/-- A loop counter by number. -/
def Group.lc (g : Group) : Nat → LoopCtr
  | 0 => g.lc0
  | 1 => g.lc1
  | _ => g.lc2

/-- Sets a loop counter. -/
def Group.setLc (g : Group) (n : Nat) (c : LoopCtr) : Group :=
  match n with
  | 0 => { g with lc0 := c }
  | 1 => { g with lc1 := c }
  | _ => { g with lc2 := c }

/-- Is an address in a loop's body. -/
def LoopCtr.covers (c : LoopCtr) (pc : Dword) : Bool :=
  c.active && c.start.toNat ≤ pc.toNat && pc.toNat < c.start.toNat + 4 * c.len

/-- A loop ended. -/
def LoopCtr.ended (c : LoopCtr) : LoopCtr := { c with active := false, count := 0 }

/-- The active loops whose body ends at an instruction, the one started most recently first. -/
def Group.loopsAt (g : Group) (pc : Dword) : List Nat :=
  let l := [0, 1, 2].filter fun n => (g.lc n).active && (g.lc n).start.toNat + 4 * (g.lc n).len == pc.toNat + 4
  sortBy (fun x y => (g.lc y).order ≤ (g.lc x).order) l

/-- Sequential advance past the instruction at pc (R152): through the loops that end there. Whether it looped back. -/
def Group.advance (g : Group) : List Nat → Group × Dword × Bool
  | [] => (g, pcNext g.pc, false)
  | n :: r =>
    let c := g.lc n
    if 1 < c.count.toNat then (g.setLc n { c with count := c.count - 1 }, c.start, true)
    else Group.advance (g.setLc n c.ended) r

/-- A transfer out of the bodies of active loops ends them (R152). -/
def Group.leaveLoops (g : Group) (target : Dword) : Group :=
  [0, 1, 2].foldl (fun h n => if (g.lc n).covers g.pc && !(g.lc n).covers target then h.setLc n (g.lc n).ended else h) g

/-- Transfers that end the loops they leave (R152). -/
def endsLoops : Instr → Bool
  | .bra .. | .brl .. | .brd .. | .jmpr .. | .ret | .endj => true
  | _ => false

/-! Regions (R118). -/

/-- The region whose START the group is about to execute is entered (R118, R155). -/
def Group.enterRegion (g : Group) (code : Dword) (rs : List (Nat × Nat)) : Group :=
  match rs.find? fun r => code + dw r.1 == g.pc with
  | none => g
  | some r =>
    { g with region := some {
      lo := code + dw r.1, hi := code + dw r.2, pc := g.pc, exec := g.exec, fmt := g.fmt,
      depth := g.stack.length, stack := g.stack, gmask := g.gmask, grem := g.grem, gheld := g.gheld,
      ghold := g.ghold, inh := g.inh, routine := g.routine } }

/-- The group leaves its region when its PC leaves the range (R118). -/
def Group.leaveRegion (g : Group) : Group :=
  match g.region with
  | none => g
  | some r => if r.lo.toNat ≤ g.pc.toNat && g.pc.toNat < r.hi.toNat then g else { g with region := none }

/-! Completion of an instruction. -/

/-- Where a completed instruction leaves the PC: sequential advance, or a transfer with the hash an ENDJ leaves. -/
inductive Flow where
  | seq
  | goto (pc : Dword) (hash : Option Nat)
deriving DecidableEq, Repr

/-- Is an arrival that stands not one of instruction i at an address (R173). -/
def notSync (i : Instr) (pc : Dword) (x : Bool × Nat × Dword) : Bool :=
  match i with
  | .barSync _ id => x != (false, id.val, pc)
  | .cbarSync _ id => x != (true, id.val, pc)
  | _ => true

/-- Notes the arrival of a BAR.SYNC or CBAR.SYNC whose wait is cut short: by a save (R173), or by NOPRE_LIMIT or another
trap (R174; log 62). -/
def Group.noteSync (g : Group) : Group :=
  match g.wait with
  | some (.barSync _ id, .bar _ _) => { g with synced := (false, id.val, g.pc) :: g.synced }
  | some (.cbarSync _ id, .bar _ _) => { g with synced := (true, id.val, g.pc) :: g.synced }
  | _ => g

/-- The acquires of R183 among the instructions. -/
def acquires : Instr → Bool
  | .fenceAcq .. | .fenceAr .. | .barWait .. | .barSync .. | .cbarWait .. | .cbarSync .. | .bwait .. | .waitm .. | .qpop ..
  | .qtry .. | .endj => true
  | _ => false

/-- The releases of R183 among the instructions, and the end of a group (R191, R192). -/
def releases : Instr → Bool
  | .fenceRel .. | .fenceAr .. | .barArr .. | .barSync .. | .cbarArr .. | .cbarSync .. | .qpush .. | .ecpy .. | .egath ..
  | .escat .. | .ercpy .. | .efill .. | .emig .. | .launch .. | .endj | .exit => true
  | _ => false

/-- The instructions that may take a value of memory, or of the scratchpad where another group has put it: what follows
them may depend on a write of another agent (R181, R184; log 76). -/
def takesValue : Instr → Bool
  | .ldu .. | .ld .. | .ldx .. | .lald .. | .lds .. | .ldsc .. | .fil .. | .mapr .. | .syncr .. | .unmapr .. | .pgqry ..
  | .atomAdd .. | .atomMins .. | .atomMaxs .. | .atomMinn .. | .atomMaxn .. | .atomAnd .. | .atomOr .. | .atomXor ..
  | .atomXchg .. | .atomCas .. | .atomIncw .. | .atomwAdd .. | .atomwMins .. | .atomwMaxs .. | .atomwMinn ..
  | .atomwMaxn .. | .atomwAnd .. | .atomwOr .. | .atomwXor .. | .atomwXchg .. | .atomwCas .. | .atomwIncw .. => true
  | _ => false

/-- Completes instruction i of a group that has had its effect (R142, R150, R152, R154, R157, R118): new is the group
after the effect, old the group as it issued, sig whether SIGEN is set, now the clock. DESIGN CHOICE (log 77): where
an MTS to SIG ends a loop body that goes back, the hash is 0, as after any instruction that goes back. -/
def Group.retire (old new : Group) (i : Instr) (flow : Flow) (lw : AMap (Bool × LA)) (sig : Bool) (now : Nat) : Group :=
  let g := if (promised i).2 = 0 then new else old.defer new i lw
  let pend := g.pend
  let n := old.pend.length
  let count (p : Pend) : Pend := { p with left := p.left - 1 }
  let g := { g with pend := (pend.take n).map count ++ pend.drop n }
  let g := if sig then g.hashAfter i (match flow with
    | .goto _ h => h
    | .seq => none) else g
  let g := match flow with
    | .goto pc _ => { (if endsLoops i then g.leaveLoops pc else g) with pc := pc }
    | .seq =>
      let a := g.advance (g.loopsAt g.pc)
      { (if sig && a.2.2 then a.1.setHash 0 else a.1) with pc := a.2.1 }
  let g := g.countSpan old.grem
  let g := { g with urg := min (g.urg + 1) (2 ^ 20 - 1), lastIssue := now, 
                    acqAt := if acquires i || takesValue i then now else g.acqAt,
                    relAt := if releases i then now else g.relAt,
                    wait := none, synced := g.synced.filter (notSync i old.pc),
                    staging := (match i with
                      | .stage .. => true
                      | _ => false) }
  g.leaveRegion

/-! Traps (R392, R393). -/

/-- Fault codes (R394); TRAP carries its user code (R273). -/
def Trap.code : Trap → Nat
  | .illegal => 0x01 | .reservedField => 0x02 | .lookahead => 0x03 | .membership => 0x04 | .barrierMask => 0x05
  | .stackOverflow => 0x06 | .loopNest => 0x07 | .windowRange => 0x08 | .allotment => 0x09 | .format => 0x0A
  | .gang => 0x0B | .pageAbsent => 0x10 | .protection => 0x11 | .alignment => 0x12 | .spill => 0x13 | .region => 0x14
  | .key => 0x15 | .poison => 0x18 | .signature => 0x19 | .remoteLoss => 0x1A | .bookFull => 0x1B
  | .queueHalted => 0x1D | .nopreLimit => 0x1E | .user c => c.toNat | .bkpt => 0x21 | .clusterLost => 0x22

/-- Faults that never enter a handler (R394). -/
def Trap.halts : Trap → Bool
  | .poison | .signature => true
  | _ => false

/-- Writes the trap registers (R392): TRAPPC bits [1:0] are written as zero. -/
def Group.setTrap (g : Group) (t : Trap) (v pc : Dword) : Group :=
  { g with trapCause := BitVec.ofNat 8 t.code, trapPc := dw (pc.toNat % 2 ^ 56 / 4 * 4), trapVal := v }

/-- Trap entry (R393, R144, R149, R157): the drained group with the trap registers written enters the handler. A fault
counts toward the span it stands in (R142). A BAR.SYNC whose wait it cuts short has arrived, and performs only its wait
part when the handler returns to it (log 62). -/
def Group.trapEntry (g : Group) (handler : Dword) (sig : Bool) : Group :=
  let g := if sig then g.noteSync.setHash 0 else g.noteSync
  { g with st := .running, wings := [], staging := false, gheld := g.grem, ghold := g.gmask, grem := 0, gmask := 0,
           inh := true, routine := .handler, pc := handler, wait := none, fenceAt := none,
           stalled := false, held := none, region := none }

/-- The return from a trap handler (R144, R158): the guard span, INH and the PC as saved. -/
def Group.trapReturn (g : Group) (sig : Bool) : Group :=
  { g with gmask := g.ghold, grem := g.gheld, ghold := 0, gheld := 0, inh := false, routine := .none, wings := [],
           staging := false, pc := g.trapPc, sig := if sig then 0x10000 else g.sig }

end Sys2Proof.Machine
end

