-- ==== Sys2Proof/Machine/Coh.lean ====
section
/-! DEFINITION. Coherence protocol engines (R201 to R215): tables, checker, the transition of a quarter, requests. Data
lives in memory alone; the directory says who holds what. -/

namespace Sys2Proof.Machine

/-! Entries (R207, R208). -/

/-- Events (R209). -/
abbrev evGets : Nat := 0
/-- GETX. -/
abbrev evGetx : Nat := 1
/-- UPGR. -/
abbrev evUpgr : Nat := 2
/-- PUTS. -/
abbrev evPuts : Nat := 3
/-- PUTL. -/
abbrev evPutl : Nat := 4
/-- PUTX. -/
abbrev evPutx : Nat := 5
/-- WTHR. -/
abbrev evWthr : Nat := 6
/-- ATOM. -/
abbrev evAtom : Nat := 7
/-- GETM. -/
abbrev evGetm : Nat := 8
/-- PUTM. -/
abbrev evPutm : Nat := 9
/-- IACK. -/
abbrev evIack : Nat := 10
/-- FACK. -/
abbrev evFack : Nat := 11
/-- RECL. -/
abbrev evRecl : Nat := 12
/-- FLSH. -/
abbrev evFlsh : Nat := 13
/-- NCRD. -/
abbrev evNcrd : Nat := 14
/-- NCWR. -/
abbrev evNcwr : Nat := 15

/-- A decoded entry (R207). -/
structure CohEntry where
  next : Nat
  grant : Nat
  acts : Nat
deriving DecidableEq, Repr

/-- Splits an entry. -/
def cohEntry (w : Nat) : CohEntry := ⟨w / 2 ^ 28 % 16, w / 2 ^ 26 % 4, w / 2 ^ 10 % 2 ^ 16⟩

/-- Does an entry carry action bit b of R208, 10 to 25. -/
def CohEntry.has (e : CohEntry) (b : Nat) : Bool := e.acts / 2 ^ (b - 10) % 2 = 1

/-- Builds an entry from its printed cell (R213): PCHK joins DATA, MRG, FWD and HWR. -/
def cohCell (next grant : Nat) (acts : List Nat) : Nat :=
  let p := acts.any fun b => b = 11 || b = 14 || b = 16 || b = 23
  next * 2 ^ 28 + grant * 2 ^ 26 + ((if p then 17 :: acts else acts).map (2 ^ ·)).sum

/-- A printed row: the cells of one event in state order; 16 stands for the current state. -/
def cohRow (l : List (Nat × Nat × List Nat)) (st : Nat) : Nat :=
  match l[st]? with
  | some (nx, g, a) => cohCell (if nx = 16 then st else nx) g a
  | none => 0

/-- Entries from the 16 rows. -/
def cohEntries (rows : List (List (Nat × Nat × List Nat))) : List Nat :=
  (List.range 256).map fun k => cohRow ((rows[k % 16]?).getD []) (k / 16)

/-- "= ACK". -/
def cAck : Nat × Nat × List Nat := (16, 0, [15])
/-- "= RMS ACK". -/
def cRms : Nat × Nat × List Nat := (16, 0, [20, 15])
/-- "= ERR ACK". -/
def cErr : Nat × Nat × List Nat := (16, 0, [25, 15])
/-- WAIT. -/
def cWait : Nat × Nat × List Nat := (16, 0, [22])
/-- "= HWR ACK". -/
def cHwr : Nat × Nat × List Nat := (16, 0, [23, 15])
/-- "= DATA ACK". -/
def cDat : Nat × Nat × List Nat := (16, 0, [11, 15])
/-- "= FWD ACK". -/
def cFwd : Nat × Nat × List Nat := (16, 0, [16, 15])
/-- Next state with INV. -/
def cInv (n : Nat) : Nat × Nat × List Nat := (n, 0, [10])
/-- "r DATA ADDS" into a state. -/
def cRead (n : Nat) : Nat × Nat × List Nat := (n, 1, [11, 19])
/-- "r FWD ADDS" into a state. -/
def cReadF (n : Nat) : Nat × Nat × List Nat := (n, 1, [16, 19])
/-- "w DATA ADDS" into a state. -/
def cWrite (n : Nat) : Nat × Nat × List Nat := (n, 2, [11, 19])
/-- "w FWD" into a state. -/
def cWriteF (n : Nat) : Nat × Nat × List Nat := (n, 2, [16])
/-- "RMS ACK" into a state. -/
def cRmsTo (n : Nat) : Nat × Nat × List Nat := (n, 0, [20, 15])
/-- "WB RMS ACK" into a state. -/
def cWb (n : Nat) : Nat × Nat × List Nat := (n, 0, [13, 20, 15])
/-- "CLRS RPLY" into a state. -/
def cClr (n : Nat) : Nat × Nat × List Nat := (n, 0, [21, 24])
/-- RECALL into a state. -/
def cRec (n : Nat) : Nat × Nat × List Nat := (n, 0, [18])

/-- INV (R213): I S E O M B. -/
def tableInv : CohTable :=
  let wr := [cHwr, cInv 5, cInv 5, cInv 5, cInv 5, cWait]
  let gx := [cWrite 4, cInv 5, cWriteF 4, cInv 5, cWriteF 4, cWait]
  let re := [cAck, cInv 5, cInv 5, cInv 5, cInv 5, cWait]
  { stable := 0x1F, comm := false, ns := 6, hold := [0, 1, 2, 3, 2, 0],
    entries := cohEntries [
      [cWrite 2, cRead 16, cReadF 3, cReadF 16, cReadF 3, cWait], gx, gx,
      [cAck, cRms, cErr, cRms, cErr, cRms],
      [cAck, cRmsTo 0, cWb 0, cWb 0, cWb 0, cWb 16],
      [cAck, cErr, cErr, cWb 1, cErr, cWb 16],
      wr, wr, [cAck, cAck, cAck, cAck, cAck, cAck], wr,
      [cAck, cAck, cAck, cAck, cAck, cClr 0], [cAck, cAck, cAck, cAck, cAck, cAck],
      re, re, [cDat, cDat, cFwd, cFwd, cFwd, cWait], wr] }

/-- UPD (R213): I S B U. -/
def tableUpd : CohTable :=
  let wr := [cHwr, (3, 0, [12, 23]), cWait, cWait]
  let er := [cErr, cErr, cErr, cErr]
  let re := [cAck, cInv 2, cWait, cWait]
  let ak := [cAck, cAck, cAck, cAck]
  { stable := 0x3, comm := false, ns := 4, hold := [0, 1, 0, 1],
    entries := cohEntries [
      [cRead 1, cRead 16, cWait, cWait], er, er, [cAck, cRms, cRms, cRms], [cAck, cRmsTo 0, cRms, cRms], er,
      wr, wr, ak, wr, [cAck, cAck, cClr 0, (1, 0, [15])], ak, re, re, [cDat, cDat, cWait, cWait], wr] }

/-- MIG (R213): I M B. -/
def tableMig : CohTable :=
  let gx := [cWrite 1, cWriteF 16, cWait]
  let pu := [cAck, cErr, cAck]
  let wr := [cHwr, cInv 2, cWait]
  let re := [cAck, cInv 2, cWait]
  let ak := [cAck, cAck, cAck]
  { stable := 0x3, comm := false, ns := 3, hold := [0, 2, 0],
    entries := cohEntries [
      gx, gx, gx, pu, [cAck, cWb 0, cWb 16], pu, wr, wr, ak, wr, [cAck, cAck, cClr 0], ak, re, re,
      [cDat, cFwd, cWait], wr] }

/-- WONCE (R213): I W R B Z. -/
def tableWonce : CohTable :=
  let gx := [cWrite 1, cErr, cErr, cWait, cErr]
  let wr := [(2, 0, [23, 15]), cErr, cErr, cWait, cErr]
  let re := [cAck, cInv 3, cInv 3, cWait, cAck]
  let ak := [cAck, cAck, cAck, cAck, cAck]
  { stable := 0x17, comm := false, ns := 5, hold := [0, 2, 1, 0, 0],
    entries := cohEntries [
      [cRead 2, cReadF 2, cRead 16, cWait, cRead 2], gx, gx, [cAck, cAck, cRms, cRms, cAck],
      [cAck, cWb 2, cRms, cRms, cAck], [cAck, cErr, cAck, cAck, cAck], wr, wr, ak, wr,
      [cAck, cAck, cAck, cClr 4, cAck], ak, re, re, [cDat, cFwd, cDat, cWait, cDat], wr] }

/-- ACCUM (R213): I S G B C. -/
def tableAccum : CohTable :=
  let er := [cErr, cErr, cErr, cErr, cErr]
  let wr := [cHwr, cInv 3, cRec 4, cWait, cWait]
  let re := [cAck, cInv 3, cRec 4, cWait, cWait]
  { stable := 0x7, comm := true, ns := 5, hold := [0, 1, 4, 0, 0],
    entries := cohEntries [
      [cRead 1, cRead 16, cRec 4, cWait, cWait], er, er, [cAck, cRms, cAck, cRms, cAck],
      [cAck, cRmsTo 0, cAck, cRms, cAck], er, wr, er,
      [(2, 3, [19, 15]), cInv 3, (16, 3, [19, 15]), cWait, cWait],
      [(16, 0, [14, 15]), cInv 3, (16, 0, [14, 20, 15]), cWait, (16, 0, [14, 20, 15])],
      [cAck, cAck, cAck, cClr 0, cClr 0], [cAck, cAck, cAck, cAck, cAck], re, re,
      [cDat, cDat, cRec 4, cWait, cWait], wr] }

/-- Standard tables by id (R205). -/
def stdTable : Nat → CohTable
  | 0 => tableInv
  | 1 => tableUpd
  | 2 => tableMig
  | 3 => tableWonce
  | _ => tableAccum

/-- Entry of a state and event. -/
def CohTable.at (t : CohTable) (st ev : Nat) : CohEntry := cohEntry ((t.entries[16 * st + ev]?).getD 0)
/-- Is a state stable. -/
def CohTable.isStable (t : CohTable) (st : Nat) : Bool := t.stable / 2 ^ st % 2 = 1
/-- HOLD of a state. -/
def CohTable.holdOf (t : CohTable) (st : Nat) : Nat := (t.hold[st]?).getD 0

/-! The checker (R212). -/

/-- A table image (R207): 1,088 bytes as header dwords and entry words. -/
structure CohImage where
  d0 : Nat
  d1 : Nat
  rest : List Nat
  words : List Nat
deriving DecidableEq, Repr

/-- Reads an image. -/
def cohImage (l : List Byte) : CohImage :=
  let q (i : Nat) : Nat := ofBytes ((l.drop (8 * i)).take 8)
  { d0 := q 0, d1 := q 1, rest := (List.range 6).map fun i => q (i + 2),
    words := (List.range 256).map fun i => ofBytes ((l.drop (64 + 4 * i)).take 4) }

/-- The table an image holds. -/
def CohImage.table (m : CohImage) : CohTable :=
  { stable := m.d0 / 2 ^ 48, comm := m.d0 / 2 ^ 36 % 2 = 1, ns := m.d0 / 2 ^ 32 % 16 + 1,
    hold := (List.range 16).map fun i => m.d1 / 2 ^ (4 * i) % 16, entries := m.words }

/-- Rule 1 (R212). DESIGN CHOICE (log 78): a STABLE bit of a state that the table does not have breaks it too. -/
def CohImage.header (m : CohImage) : Bool :=
  let t := m.table
  m.d0 % 2 ^ 32 == 0 && m.d0 / 2 ^ 37 % 2 ^ 11 == 0 && m.rest.all (· == 0)
    && (List.range 16).all (fun i => if i < t.ns then t.holdOf i ≤ 4 else t.holdOf i == 0)
    && t.isStable 0 && t.holdOf 0 == 0 && t.stable / 2 ^ t.ns == 0

/-- All (state, event) pairs. -/
def cohPairs : List (Nat × Nat) := (List.range 256).map fun k => (k / 16, k % 16)

/-- Rule 2. -/
def ruleUndefined (t : CohTable) (p : Nat × Nat) : Bool :=
  let w := (t.entries[16 * p.1 + p.2]?).getD 0
  let e := cohEntry w
  if p.1 < t.ns then e.acts != 0 && e.next < t.ns && w % 2 ^ 10 == 0 else w == 0

/-- Rule 3. -/
def ruleHold (t : CohTable) (p : Nat × Nat) : Bool :=
  let e := t.at p.1 p.2
  (!e.has 22 || (!t.isStable p.1 && e.next == p.1 && e.grant == 0 && e.acts == 2 ^ 12))
    && (!e.has 24 || t.isStable e.next)

/-- The states reachable from those listed, after fuel rounds or when nothing is added. -/
def cohReach (t : CohTable) : Nat → List Nat → List Nat
  | 0, l => l
  | n + 1, l =>
    let l2 := (List.range t.ns).filter fun x =>
      l.contains x || l.any fun y => (List.range 16).any fun e => (t.at y e).next == x
    if l2 = l then l else cohReach t n l2

/-- Rule 4. -/
def ruleWriters (t : CohTable) (p : Nat × Nat) : Bool :=
  let e := t.at p.1 p.2
  if e.grant = 2 then
    t.holdOf e.next == 2 && (t.holdOf p.1 == 0 || (t.holdOf p.1 == 2 && e.has 16))
  else !(t.holdOf e.next == 2 && e.has 19)

/-- Rule 5. -/
def ruleGrant (t : CohTable) (p : Nat × Nat) : Bool :=
  let e := t.at p.1 p.2
  let h := t.holdOf e.next
  (!(e.grant == 1 || e.grant == 2) || e.has 11 || e.has 16)
    && (e.grant != 1 || h == 1 || h == 3 || h == 2)
    && (e.grant != 3 || h == 4)
    && (e.grant != 0 || !e.has 19)
    && (!e.has 25 || e.grant == 0)
    && (!(e.has 11 || e.has 16 || e.has 23 || e.has 14) || e.has 17)

/-- Rule 6: a stable state within n transitions. -/
def nearStable (t : CohTable) : Nat → Nat → Bool
  | 0, st => t.isStable st
  | n + 1, st => t.isStable st || (List.range 16).any fun e => nearStable t n (t.at st e).next

/-- Rule 7. -/
def ruleComm (t : CohTable) (p : Nat × Nat) : Bool :=
  let e := t.at p.1 p.2
  !(e.grant == 3 || e.has 14) || t.comm

/-- The checker (R212): 0, or the first failure's status with the offending state and event. -/
def cohCheckImage (m : CohImage) : Nat × Nat × Nat :=
  let t := m.table
  if !m.header then (1, 0, 0)
  else
    let live := cohReach t 16 [0]
    let on := cohPairs.filter fun p => live.contains p.1
    let first (code : Nat) (l : List (Nat × Nat)) (r : Nat × Nat → Bool) : Option (Nat × Nat × Nat) :=
      (l.find? fun p => !r p).map fun p => (code, p.1, p.2)
    match first 2 cohPairs (ruleUndefined t) with
    | some x => x
    | none => match first 3 (cohPairs.filter fun p => p.1 < t.ns) (ruleHold t) with
      | some x => x
      | none => match first 4 on (ruleWriters t) with
        | some x => x
        | none => match first 5 on (ruleGrant t) with
          | some x => x
          | none => match live.find? fun st => !nearStable t 4 st with
            | some st => (6, st, 0)
            | none => match first 7 on (ruleComm t) with
              | some x => x
              | none => (0, 0, 0)

/-! The directory (R203 to R205). -/

/-- The protocol id of an address (R205). -/
def protoId (s : State) (pa : Nat) : Nat :=
  let p := partOfDie s (homeDie pa)
  match s.rmap.find? fun e => e.1 / 64 = p && e.2.base ≤ pa / 2 ^ 16 && pa / 2 ^ 16 < e.2.base + e.2.pages with
  | some e => e.2.pid
  | none => 0

/-- The table in force at an address. -/
def protoTable (s : State) (pa : Nat) : CohTable :=
  let i := protoId s pa
  if i < 5 then stdTable i else agetD s.tables (partOfDie s (homeDie pa) * 8 + i) tableInv

/-- Key of a quarter. -/
def dirKey (key pa : Nat) : Nat := (key * 2 ^ 52 + pa) / 32
/-- The directory entry of a quarter. -/
def dirAt (s : State) (key pa : Nat) : DirE := agetD s.dir (dirKey key pa) {}
/-- Sets a directory entry; state 0 without holders is not listed. -/
def setDir (s : State) (key pa : Nat) (d : DirE) : State := { s with dir := asetD s.dir (dirKey key pa) d {} }

/-- The holder bit of a requester as a mask. -/
def holderBit (who : Nat) : BitVec 43 := if who < 43 then 1#43 <<< who else 0
/-- Has the requester a copy to read. -/
def DirE.holds (d : DirE) (who : Nat) : Bool := who < 43 && d.copies.getLsbD who

/-- The holder a core is at an address (R203): its L1 at home, its die's remote-data cache elsewhere. -/
def coreHolder (core pa : Nat) : Nat :=
  let h := homeDie pa
  let d := core / 40
  if d = h then core % 40 else if d < h then 40 + d else 39 + d

/-- The entry's effect on the holder set, the owner and its dirty mark, and on the copies that loads can hit (R208): INV
clears every copy, a grant of read or write that adds the requester gives it one, and who leaves the set has none. -/
def DirE.apply (d : DirE) (t : CohTable) (e : CohEntry) (who : Nat) : DirE :=
  let h := t.holdOf e.next
  let fw := e.has 16
  let d0 := if e.has 10 then { d with copies := 0, dirty := false } else d
  let d1 := if fw && e.grant == 2 then
      { d0 with holders := holderBit who, copies := holderBit who, owner := some who, dirty := false }
    else if fw && h == 1 then { d0 with owner := none, dirty := false } else d0
  let d2 := if e.has 19 then
      { d1 with holders := d1.holders ||| holderBit who,
                copies := if e.grant == 3 then d1.copies else d1.copies ||| holderBit who,
                owner := if h == 2 then some who else d1.owner }
    else d1
  let d3 := if e.has 20 then
      { d2 with holders := d2.holders &&& ~~~(holderBit who), copies := d2.copies &&& ~~~(holderBit who),
                owner := if d2.owner == some who then none else d2.owner,
                dirty := d2.dirty && d2.owner != some who }
    else d2
  let d4 := if e.has 21 then { d3 with holders := 0, copies := 0, owner := none, dirty := false } else d3
  { d4 with st := e.next }

/-- The acknowledgement events that an entry's actions ask for (R208, R209): IACK for INV, UPD and RECALL, FACK for
FWD. -/
def CohEntry.acks (e : CohEntry) : List Nat :=
  (if e.has 10 || e.has 12 || e.has 18 then [evIack] else []) ++ (if e.has 16 then [evFack] else [])

/-- Does an entry move the request's data home (R208): HWR, MRG or WB. -/
def CohEntry.moves (e : CohEntry) : Bool := e.has 23 || e.has 14 || e.has 13

/-! Time. -/

/-- TIME in ns (R260): the clock ticks every 0.4 ns (R6). -/
def timeOf (s : State) : Nat := s.clock * 2 / 5
/-- Clocks of a number of ns (R6). -/
def nsClocks (n : Nat) : Nat := (n * 5 + 1) / 2

/-! Records of the Prompt Book (R405, R408, R409). -/

/-- A die's book. -/
def bookOf (s : State) (die : Nat) : Book := agetD s.books die {}
/-- Sets a die's book. -/
def setBook (s : State) (die : Nat) (b : Book) : State := { s with books := asetD s.books die b {} }

/-- Appends a record to an armed book (R405, R408). -/
def bookPut (s : State) (die kind ctx : Nat) (d2 d3 : Dword) : State :=
  let b := bookOf s die
  if !b.arm then s
  else
    let d0 := dw (kind * 2 ^ 60 + die * 2 ^ 58 + ctx * 2 ^ 46 + b.count % 2 ^ 32)
    let at_ := b.base * 65536 + b.head % (b.pages * 65536)
    let s := homeWrite s 0 at_ (bytesOf [d0, dw (timeOf s), d2, d3])
    setBook s die { b with head := b.head + 32, count := b.count + 1 }

/-- ACC codes (R408). -/
inductive AccCode where
  | read | write | rmw | update
deriving DecidableEq, Repr

/-- The code of a kind of access. -/
def AccCode.code : AccCode → Nat
  | .read => 0 | .write => 1 | .rmw => 2 | .update => 3

/-- The context of an identifier; one that is not listed reads as a FREE one would. -/
def ctxOf (s : State) (c : Nat) : Ctx := agetD s.ctxs c { st := .wiping }
/-! Books (R405 to R411). -/

/-- Records of buffered updates that a book must keep room for (R410). -/
def reservedIn (s : State) (die : Nat) : Nat := (s.upd.filter fun u => u.note.isSome && homeDie u.pa == die).length

/-- Is a book armed and full for n further records (R406, R410). -/
def bookFull (s : State) (die n : Nat) : Bool :=
  let b := bookOf s die
  b.arm && n != 0 && b.pages * 65536 < b.head - b.tail + 32 * reservedIn s die + 32 * (n - 1) + 64

/-- The agent field of a group's lane (R408). -/
def groupAgent (b : Block) (g : Group) (lane : Nat) : Dword :=
  dw (b.lcore * 2 ^ 54 + b.slot * 2 ^ 50 + g.idx * 2 ^ 45 + lane * 2 ^ 40 + (agetD g.observed lane 0).toNat)

/-- Counts a lane's access to an OBSERVED range (R408). -/
def Group.countObserved (g : Group) (lane : Nat) : Group :=
  { g with observed := asetD g.observed lane (agetD g.observed lane 0 + 1) 0 }

/-- Is an access of this group logged (R409). -/
def logsAccess (s : State) (b : Block) (g : Group) (t : Tr) : Bool := t.observed && (ctxOf s b.ctx).obs && !g.inh

/-- Has a performed write changed the dword that a group in WAITM watches (R170): its home slice re-tests it then, where the
group's partition reaches it. -/
def watchMet (s : State) (b : Block) (va : Dword) (v : Dword) : Bool :=
  match walk s b.ctx va.toNat with
  | some t => !t.absentFor false && !inError s t.pa 8 && wayTo s (partOfDie s (b.core / 40)) t.pa = .free
      && dwordAt (readRaw s t.key t.pa 8) 0 != v
  | none => false

/-- The place of the dword that a group waits for in WAITM, with its block. -/
def watched (s : State) (g : Group) : Option (Block × Tr) :=
  match g.wait, aget s.blocks g.blk with
  | some (.waitm _ _ a _, .mem _ false), some b => (walk s b.ctx (bits (g.readS a) 55 0)).map fun t => (b, t)
  | _, _ => none

/-- Notes that the wait of a group is over: what stands there later changes nothing. -/
def Group.wakeWatch (g : Group) : Group :=
  match g.wait with
  | some (.waitm pd sc a v, .mem d false) => { g with wait := some (.waitm pd sc a v, .mem d true) }
  | _ => g

/-- Has a performed write changed the dword that a group watches. -/
def Group.watchMet (s : State) (g : Group) : Bool :=
  match g.wait, aget s.blocks g.blk with
  | some (.waitm _ _ a v, .mem _ false), some b => Machine.watchMet s b (dw (bits (g.readS a) 55 0)) (g.readS v)
  | _, _ => false

/-- A write that has been performed re-tests a dword that a group watches (R170): a load of the group, recorded where its page
is OBSERVED; the one that finds it changed is recorded when the wait ends. Where the book has no room the wait ends with
BOOK_FULL (R410; log 82). -/
def noteTest (pa size : Nat) (s : State) (e : Nat × Group) : State :=
  match watched s e.2 with
  | none => s
  | some (b, t) =>
    if !(t.pa < pa + size && pa < t.pa + 8) || !logsAccess s b e.2 t || t.absentFor false || inError s t.pa 8
        || e.2.watchMet s then s
    else if bookFull s (homeDie t.pa) 1 then { s with groups := amod s.groups e.1 Group.wakeWatch }
    else
      let lane := e.2.lanesOn.head?.getD 0
      let s := bookPut s (homeDie t.pa) 3 b.ctx (dw (3 * 2 ^ 56 + t.pa)) (groupAgent b e.2 lane)
      { s with groups := amod s.groups e.1 fun g => g.countObserved lane }

/-- An ACCESS record of an access performed at home, and of the tests that it makes (R409). -/
def bookAccess (s : State) (ctx pa size : Nat) (k : AccCode) (agent : Dword) : State :=
  let s1 := bookPut s (homeDie pa) 3 ctx (dw (k.code * 2 ^ 60 + Nat.log2 size * 2 ^ 56 + pa)) agent
  if k = .read then s1 else s1.groups.foldl (noteTest pa size) s1

/-! Performing at home. -/

/-- What an atomic operation makes of the old value, n bytes wide (R320). -/
def atomNew (op : AtomOp) (n : Nat) (old v c : Nat) : Nat :=
  let w := 8 * n
  let lt (x y : Nat) : Bool := sext w x < sext w y
  match op with
  | .add => (old + v) % 2 ^ w
  | .mins => if lt v old then v else old
  | .maxs => if lt old v then v else old
  | .minn => min old v
  | .maxn => max old v
  | .and => old &&& v
  | .or => old ||| v
  | .xor => old ^^^ v
  | .xchg => v
  | .cas => if old = c then v else old
  | .incw => if v ≤ old then 0 else old + 1

/-- Performs an atomic operation on memory. -/
def homeAtomic (s : State) (key pa n : Nat) (op : AtomOp) (v c : Dword) : State :=
  let old := ofBytes (readRaw s key pa n)
  homeWrite s key pa (toBytes n (atomNew op n old (v.toNat % 2 ^ (8 * n)) (c.toNat % 2 ^ (8 * n))))

/-- Merges a contribution into the cell in memory (R71, R72). One to a cell that holds an error finds it, and is
discarded as a partial write of a poisoned granule is (R208, R227; log 79). -/
def homeMerge (s : State) (key pa : Nat) (image : List Byte) : State :=
  if inError s pa 128 then findErrors s pa 128
  else homeWrite s key pa (mergeCell (readRaw s key pa 128) image)

/-- Performs what a request carries (R208). -/
def homePayload (s : State) (r : CohReq) : State :=
  match r.load with
  | .none => s
  | .bytes l => homeWrite s r.key (r.line + 4 * r.word) (l.take (4 * r.len))
  | .atomic op wide v c => homeAtomic s r.key (r.line + 4 * r.word) (if wide then 4 else 8) op v c
  | .cell im => homeMerge s r.key r.line im

/-- Quarters a span of bytes overlaps, by base address, ascending (R202). -/
def quarters (pa n : Nat) : List Nat :=
  (List.range ((pa + n + 31) / 32 - pa / 32)).map fun i => (pa / 32 + i) * 32

/-- Writes the bytes of a span that lie in the quarters listed. -/
def writeQuarters (s : State) (key pa : Nat) (data : List Byte) (qs : List Nat) : State :=
  if (quarters pa data.length).all qs.contains then homeWrite s key pa data
  else qs.foldl (fun s q =>
    let lo := max q pa
    homeWrite s key lo ((data.drop (lo - pa)).take (q + 32 - lo))) s

/-- Performs what a request carries in the quarters whose entries move its data (R202, R208): an update or a
contribution where every one of them does. -/
def homePayloadIn (s : State) (r : CohReq) (qs : List Nat) : State :=
  match r.load with
  | .bytes l => writeQuarters s r.key (r.line + 4 * r.word) (l.take (4 * r.len)) qs
  | _ => if (quarters (r.line + 4 * r.word) (4 * r.len)).all qs.contains then homePayload s r else s

/-- Counts a discarded store or update (R211). -/
def countErr (s : State) (die : Nat) : State := { s with cohErrs := aset s.cohErrs die (agetD s.cohErrs die 0 + 1) }

/-- What a refused request comes to (R211): a completer abort for a non-caching agent; a store or update of a group is
counted; a read and an RMW are answered where they were made. -/
def refuse (s : State) (q ev : Nat) : State :=
  if ev = evNcrd || ev = evNcwr then { s with ncOut := s.ncOut ++ [none] }
  else if ev = evGetx || ev = evUpgr || ev = evWthr || ev = evGetm || ev = evPutm then countErr s (homeDie q)
  else s

/-- What a buffered update does to memory; one that its L1 holds in error poisons its home granule instead (R397). -/
def updPayload (s : State) (u : Upd) : State :=
  if u.bad && paKind u.pa = .hbm then poisonGranule s u.pa
  else
    match u.cell with
    | some a => homeMerge s u.key u.pa a.image
    | none => homeAtomic s u.key u.pa u.size u.op u.v 0

/-- The ACCESS record of an update that merges (R409). -/
def noteUpd (s : State) (u : Upd) : State :=
  match u.note with
  | some (c, agent) => bookAccess s c u.pa u.size .update agent
  | none => s

/-! One quarter at a time (R202, R204, R209). -/

/-- Is what a request carries an integer update (R210). -/
def reqInteger (r : CohReq) : Bool :=
  match r.load with
  | .atomic _ _ _ _ => true
  | _ => false

/-- The event as the directory takes it: an eviction is classified by who holds the quarter and whether data comes with
it (R209); under ACCUM an integer update is taken as ATOM (R210). -/
def takenAs (s : State) (key q ev : Nat) (r : CohReq) : Nat :=
  let d := dirAt s key q
  if ev = evPuts || ev = evPutl || ev = evPutx then
    if d.holders &&& ~~~(holderBit r.who) = 0 then evPutl
    else if d.owner = some r.who && r.load ≠ .none then evPutx else evPuts
  else if (ev = evGetm || ev = evPutm) && protoId s q = 4 && reqInteger r then evAtom
  else ev

/-- Answers a read of a non-caching agent that an entry serves. -/
def answerNc (s : State) (ev : Nat) (e : CohEntry) (r : CohReq) : State :=
  if ev = evNcrd && (e.has 11 || e.has 16) then
    { s with ncOut := s.ncOut ++ [some (readRaw s r.key (r.line + 4 * r.word) (4 * r.len))] }
  else s

/-- The directory entry after an event's entry, with the acknowledgements that are on their way. -/
def DirE.acked (d : DirE) (ev : Nat) (e : CohEntry) : DirE :=
  { d with iack := (d.iack && ev != evIack) || e.acks.contains evIack,
           fack := (d.fack && ev != evFack) || e.acks.contains evFack }

/-- Does a buffered update lie in a line. -/
def Upd.inLine (u : Upd) (key line : Nat) : Bool := u.key == key && u.pa / 128 == line / 128

/-- The event as which a buffered update comes home: under ACCUM an integer one is taken as ATOM (R210). -/
def updEvent (s : State) (u : Upd) (q : Nat) : Nat := if u.cell.isNone && protoId s q = 4 then evAtom else evPutm

/-- A merge line's return to one quarter in answer to RECALL: ahead of what the quarter holds (R208), with the
acknowledgements its entry asks for. -/
def returnTo (s : State) (u : Upd) (q : Nat) : State × CohEntry :=
  let t := protoTable s q
  let d := dirAt s u.key q
  let e := t.at d.st (updEvent s u q)
  let who := coreHolder u.core q
  if e.has 22 then (s, e)
  else (setDir s u.key q (e.acks.foldl (fun d a => d.apply t (t.at d.st a) who) (d.apply t e who)), e)

/-- What RECALL brings about (R208, R213): every merge holder returns the line's updates as PUTM, which merge at home in
their order before anything else that waits there is performed. -/
def flushLine (s : State) (key line : Nat) : State :=
  (s.upd.filter fun u => u.inLine key line).foldl (fun s u =>
    let r := (quarters u.pa u.size).foldl (fun (r : State × Bool × Bool) q =>
      let x := returnTo r.1 u q
      (x.1, r.2.1 || x.2.has 25, r.2.2 && (x.2.moves || x.2.has 22))) (s, false, true)
    if r.2.1 then countErr r.1 (homeDie u.pa)
    else noteUpd (if r.2.2 then updPayload r.1 u else r.1) u) { s with upd := s.upd.filter fun u => !u.inLine key line }

/-- What follows when a quarter enters a stable state (R204): the write staged by HWR is performed, the staged request is
presented again where the entry says RPLY, and then those held, in order. -/
def resumeHeld (present : State → Nat → CohReq → State) (s : State) (d : DirE) (e : CohEntry) : State :=
  let s1 := match d.staged with
    | some (c, h) => if 16 ≤ c then homePayload s h else s
    | none => s
  let s2 := match d.staged with
    | some (c, h) => if e.has 24 then present s1 (c % 16) h else s1
    | none => s1
  d.held.foldl (fun s p => present s p.1 p.2) s2

/-- Presents a request to a quarter (R202, R204): held, refused, or performed; a request that enters a non-stable state
is staged until the quarter leaves it. A write of HWR that enters or stays in a non-stable state is performed when that is
left; what the request of another event carries then is performed at once. -/
def presentW : Nat → State → Nat → Nat → Nat → CohReq → State
  | 0, s, _, _, _, _ => s
  | n + 1, s, key, q, ev0, r =>
    let t := protoTable s q
    let d := dirAt s key q
    let ev := takenAs s key q ev0 r
    let e := t.at d.st ev
    if e.has 22 then setDir s key q { d with held := d.held ++ [(ev0, r)] }
    else
      let d1 := (d.apply t e r.who).acked ev e
      let wasStable := t.isStable d.st
      let ok := !e.has 25
      let s0 := if ok then s else refuse s q ev0
      if !t.isStable e.next then
        let st := if wasStable && ok then some (ev0 + 16 * b2n (e.has 23), r) else d.staged
        let s1 := setDir s0 key q { d1 with staged := st }
        let s2 := if e.has 18 then flushLine s1 key (q / 128 * 128) else s1
        if ok && (e.has 13 || e.has 14 || (e.has 23 && !wasStable)) then homePayload s2 r else s2
      else
        let d2 := e.acks.foldl (fun d a => d.apply t (t.at d.st a) r.who) d1
        let s1 := setDir s0 key q { d2 with staged := none, held := [], iack := false, fack := false }
        let s2 := if e.has 18 then flushLine s1 key (q / 128 * 128) else s1
        let s3 := if ok && e.moves then homePayload s2 r else s2
        let s4 := if ok then answerNc s3 ev e r else s3
        let left := if wasStable then { d with staged := d.staged.map fun x => (x.1 % 16, x.2) } else d
        resumeHeld (fun s c h => presentW n s key q c h) s4 left e

/-- The acknowledgement that a quarter awaits first. -/
def DirE.awaits (d : DirE) : Nat := if d.fack && !d.iack then evFack else evIack

/-- An acknowledgement as a request of its own. -/
def ackReq (key q : Nat) : CohReq :=
  { key := key, line := q / 128 * 128, word := q / 4 % 32, len := 8, who := 63, load := .none }

/-- Lets the acknowledgements of a quarter arrive until it is stable (R204): what was staged or held has been performed
then. -/
def settleW : Nat → State → Nat → Nat → State
  | 0, s, _, _ => s
  | n + 1, s, key, q =>
    if (protoTable s q).isStable (dirAt s key q).st then s
    else settleW n (presentW 6 s key q (dirAt s key q).awaits (ackReq key q)) key q

/-- Acknowledgements that are enough for what a quarter holds. -/
def DirE.fuel (d : DirE) : Nat := 2 * d.held.length + 4

/-- Presents a request to a quarter. -/
def presentQ (s : State) (key q ev : Nat) (r : CohReq) : State := presentW 6 s key q ev r

/-- Lets the acknowledgements of a quarter arrive. -/
def settleQ (s : State) (key q : Nat) : State := settleW (dirAt s key q).fuel s key q

/-- Has a quarter a non-caching write staged or held. -/
def DirE.ncwrWaits (d : DirE) : Bool := (d.staged.any fun x => x.1 % 16 == evNcwr) || d.held.any fun x => x.1 == evNcwr

/-- A host's writes are performed in the order in which it issued them (R193): those that still wait at a quarter are
performed before its next access. -/
def settleHost (s : State) : State :=
  (s.dir.filter fun e => e.2.ncwrWaits).foldl (fun s e => settleQ s (e.1 * 32 / 2 ^ 52) (e.1 * 32 % 2 ^ 52)) s

/-- What driving a span through an event came to: the quarters whose entries moved data, whether one met ERR, and whether
one waits (R202, R204, R211). -/
structure Drive where
  moved : List Nat := []
  err : Bool := false
  waits : Bool := false
deriving DecidableEq, Repr

/-- Was a span's request performed in every quarter. -/
def Drive.ok (x : Drive) : Bool := !x.err && !x.waits

/-- A request that a cache or an engine makes at a quarter, as the quarter keeps it while it waits: what it carries stays
where it comes from. -/
def heldReq (key q who : Nat) : CohReq := { ackReq key q with who := who }

/-- Must a request of a cache or an engine wait at a quarter (R204): its entry carries WAIT, or it is the one that drove the
quarter into the non-stable state where it still is. -/
def mustWait (s : State) (key q ev who : Nat) : Bool :=
  let d := dirAt s key q
  let t := protoTable s q
  (t.at d.st ev).has 22 || (!t.isStable d.st && d.staged == some (ev, heldReq key q who))

/-- An entry's change of a quarter, with the merge lines it recalls (R208). -/
def enterEntry (s : State) (key q who : Nat) (e : CohEntry) : State :=
  let s1 := setDir s key q ((dirAt s key q).apply (protoTable s q) e who)
  if e.has 18 then flushLine s1 key (q / 128 * 128) else s1

/-- Drives one quarter through an event, the acknowledgements arriving in the same step (R204): a request that drove it
into a non-stable state is presented again where the entry that leaves it says RPLY, and waits where none leaves it. What an
entry changes stands, also where it refuses the request (R211). -/
def driveQ : Nat → State → Nat → Nat → Nat → Nat → State × Drive
  | 0, s, _, _, _, _ => (s, { waits := true })
  | n + 1, s, key, q, ev, who =>
    let t := protoTable s q
    let d := dirAt s key q
    let e := t.at d.st ev
    if mustWait s key q ev who then (s, { waits := true })
    else
      let r := e.acks.foldl (fun (r : State × Bool) a =>
        let st := (dirAt r.1 key q).st
        let k := t.at st a
        (enterEntry r.1 key q who k, r.2 || (!t.isStable st && t.isStable k.next && k.has 24))) (enterEntry s key q who e, false)
      let s1 := r.1
      let d1 := dirAt s1 key q
      let here := if e.moves then [q] else []
      if !t.isStable d.st && t.isStable d1.st then
        let s2 := setDir s1 key q { d1 with staged := none, held := [], iack := false, fack := false }
        (resumeHeld (fun s c h => presentW 6 s key q c h) s2 d e, { moved := here, err := e.has 25 })
      else if e.has 25 then (s1, { err := true })
      else if r.2 then
        let x := driveQ n s1 key q ev who
        (x.1, { x.2 with moved := (here ++ x.2.moved).eraseDups })
      else if t.isStable d.st && !t.isStable d1.st then
        (setDir s1 key q { d1 with staged := some (ev, heldReq key q who) }, { waits := true })
      else (s1, { moved := here })

/-- Drives the quarters of a span through an event each, in ascending order as one step (R202): not while one of them must
wait. -/
def driveW (s : State) (key pa n who : Nat) (ev : State → Nat → Nat) : State × Drive :=
  let qs := quarters pa n
  let s := qs.foldl (fun s q => settleQ s key q) s
  if qs.any fun q => mustWait s key q (ev s q) who then (s, { waits := true })
  else
    qs.foldl (fun r q =>
      if r.2.waits then r
      else
        let x := driveQ 4 r.1 key q (ev r.1 q) who
        (x.1, { moved := r.2.moved ++ x.2.moved, err := r.2.err || x.2.err, waits := x.2.waits })) (s, {})

/-- Drives the quarters of a span through one event (R202). -/
def driveSpan (s : State) (key pa n ev who : Nat) : State × Drive := driveW s key pa n who fun _ _ => ev

/-! Watches (R170). -/

/-- Notes of each group in WAITM whether the dword it watches has changed (R170): what stands there later changes nothing. -/
def noteWatch (s : State) : State :=
  if s.groups.any fun e => match e.2.wait with
    | some (_, .mem _ false) => true
    | _ => false
  then { s with groups := s.groups.map fun (e : Nat × Group) => (e.1, if e.2.watchMet s then e.2.wakeWatch else e.2) }
  else s

/-- Performs several writes in order: each is tested by the groups that watch before the next one follows (R170); after the
last one the end of the step tests. -/
def eachWrite {α : Type} (f : State → α → State) (s : State) : List α → State
  | [] => s
  | x :: l => l.foldl (fun s x => f (noteWatch s) x) (f s x)

/-! Posted writes (R182, R371). -/

/-- Performs the posted writes chosen whose way is free, in their order; they stay unacknowledged. -/
def landWrites (s : State) (p : Posted → Bool) : State :=
  let hit (w : Posted) : Bool := p w && wayTo s w.part w.pa = .free
  let s1 := eachWrite (fun s w => writeRaw s 0 w.pa w.data) s (s.posted.filter hit)
  { s1 with posted := s.posted.map fun w => if hit w then { w with data := [] } else w }

/-- Performs the posted writes that overlap a location. -/
def landPosted (s : State) (pa n : Nat) : State :=
  landWrites s fun w => decide (w.pa < pa + n) && decide (pa < w.pa + w.data.length)

/-! Buffered updates (R178). -/

/-- Is it a store that is kept behind an update to its location. -/
def Upd.stores (u : Upd) : Bool := u.op == .xchg && u.cell.isNone

/-- What a buffered update that cannot be delivered comes to: its group is told, of a store as of a posted write (R377). -/
def loseUpd (s : State) (u : Upd) : State :=
  let v := lossVal s (partOfDie s (u.core / 40)) u.pa
  if u.stores then { s with lostPeers := s.lostPeers ++ [(u.grp, v)] } else { s with lostUpd := s.lostUpd ++ [(u.grp, v)] }

/-- Performs one buffered update at home as PUTM (R178, R202, R208), a cell contribution in its four quarters, the writes
posted to its location before it (R181). One on whose way traffic is held, or which must wait at a quarter (R204), stays
and merges when it can; one whose peer is lost is lost (R377). -/
def performUpd (s : State) (u : Upd) : State :=
  match wayTo s (partOfDie s (u.core / 40)) u.pa with
  | .held => { s with upd := s.upd ++ [{ u with due := true }] }
  | .lost => loseUpd s u
  | .abort => countErr s (u.core / 40)
  | .free =>
    if paKind u.pa != .hbm then noteUpd (updPayload (landPosted s u.pa u.size) u) u
    else
      let x := driveW s u.key u.pa u.size (coreHolder u.core u.pa) fun s q => updEvent s u q
      if x.2.waits then { x.1 with upd := x.1.upd ++ [{ u with due := true }] }
      else if x.2.err then countErr x.1 (homeDie u.pa)
      else noteUpd (if (quarters u.pa u.size).all x.2.moved.contains then updPayload x.1 u else x.1) u

/-- Performs the buffered updates chosen, in order (R178, R182). -/
def flushUpd (s : State) (p : Upd → Bool) : State :=
  eachWrite performUpd { s with upd := s.upd.filter fun u => !p u } (s.upd.filter p)

/-- Does a buffered update touch a location. -/
def Upd.touches (u : Upd) (key pa n : Nat) : Bool := u.key == key && decide (u.pa < pa + n) && decide (pa < u.pa + u.size)

/-- Performs what is buffered or posted for the locations that an access touches (R78, R181, R188): the groups that watch
them test before the access follows (R170). -/
def flushAt (s : State) (key pa n : Nat) : State :=
  let t := flushUpd s fun u => u.touches key pa n
  let t := if paKind pa = .hbm then t else landPosted t pa n
  if s.upd.any (fun u => u.touches key pa n) || s.posted.any (fun w => w.pa < pa + n && pa < w.pa + w.data.length) then
    noteWatch t
  else t

/-- RECL or FLSH of every listed quarter in a range of addresses (R206, R236, R87): nothing is held afterwards. -/
def recallWhere (s : State) (ev : Nat) (p : Nat → Bool) : State :=
  (s.dir.filter fun e => p (e.1 * 32)).foldl (fun s e =>
    let pa := e.1 * 32 % 2 ^ 52
    let key := e.1 * 32 / 2 ^ 52
    (driveSpan s key pa 32 ev 63).1) (flushUpd s fun u => p (u.key * 2 ^ 52 + u.pa))

/-- RECL of a range of physical addresses, under every key. -/
def recallRange (s : State) (pa n : Nat) : State :=
  recallWhere s evRecl fun k => pa ≤ k % 2 ^ 52 && k % 2 ^ 52 < pa + n

/-- Is a request well-formed (R202). -/
def cohReqOk (r : CohReq) : Bool := r.line % 128 == 0 && 1 ≤ r.len && r.word + r.len ≤ 32

/-- A coherence event at its home slice (R202, R209): one quarter is presented as it stands, several are passed in
ascending order as one indivisible step, the acknowledgements arriving within it. Where one meets ERR nothing is performed
(R211); where one waits, the request does. An ill-formed request is never issued. -/
def cohRequest (s : State) (ev : Nat) (r : CohReq) : State :=
  let pa := r.line + 4 * r.word
  if !cohReqOk r || paKind pa ≠ .hbm then s
  else
    match quarters pa (4 * r.len) with
    | [q] => presentQ s r.key q ev r
    | _ =>
      let x := driveW s r.key pa (4 * r.len) r.who fun s q => takenAs s r.key q ev r
      if x.2.waits then x.1
      else if x.2.err then refuse x.1 pa ev
      else
        let s := homePayloadIn x.1 r x.2.moved
        if ev = evNcrd then { s with ncOut := s.ncOut ++ [some (readRaw s r.key pa (4 * r.len))] } else s

end Sys2Proof.Machine
end

