-- ==== Sys2Proof/Machine/Book.lean ====
section
/-! DEFINITION. Core maps and times (R15 to R19, R260, R277) and the records of the Prompt Book (R405 to R410). -/

namespace Sys2Proof.Machine

/-! Core maps (R15 to R19). Cores are numbered die × 40 + bay × 4 + core. -/

/-- HARVEST map of a die: fuse map merged with the retirement record (R18). -/
def harvestMap (s : State) (die : Nat) : Nat :=
  (List.range 40).foldl (fun m i => if s.retired.contains (die * 40 + i) then m ||| 2 ^ i else m)
    (agetD s.fuse die 0).toNat

/-- The byte of a physical core in LTP (R19): die[7:6] bay[5:2] core[1:0]. -/
def ltpByte (core : Nat) : Byte := BitVec.ofNat 8 (core / 40 * 64 + core % 40)

/-- The physical core of a logical one, none when it is retired (R17, R19). -/
def coreOfLog (s : State) (n : Nat) : Option Nat :=
  match s.ltp[n]? with
  | some b => if b = 255 then none else some (b.toNat / 64 * 40 + b.toNat % 64)
  | none => none

/-- The logical core a physical one is bound to. -/
def logOfCore (s : State) (core : Nat) : Option Nat := (List.range 144).find? fun n => coreOfLog s n = some core

/-- Spares of a die: usable cores that are not bound (R15). -/
def sparesOf (s : State) (die : Nat) : List Nat :=
  ((List.range 40).map (die * 40 + ·)).filter fun c =>
    !(harvestMap s die).testBit (c % 40) && (logOfCore s c).isNone

/-- Cores of a list in a bay. -/
def inBay (l : List Nat) (bay : Nat) : List Nat := l.filter fun c => c % 40 / 4 = bay

/-- Step 1 of R15: n spares of a die's usable cores, one at a time. -/
def pickSpares : Nat → List Nat → List Nat
  | 0, us => us
  | n + 1, us =>
    let bays := (List.range 10).filter fun b => !(inBay us b).isEmpty
    let best := bays.foldl (fun b x => if (inBay us x).length ≤ (inBay us b).length then x else b) (bays.headD 0)
    match (inBay us best).getLast? with
    | some c => pickSpares n (us.filter (· != c))
    | none => us

/-- The binding of a die from its fuse map (R15), 36 bytes. -/
def bindDie (fuse : Nat) (die : Nat) : List Byte :=
  let us := ((List.range 40).filter fun i => !fuse.testBit i).map (die * 40 + ·)
  let l := (pickSpares (us.length - 36) us).map ltpByte
  l ++ List.replicate (36 - l.length) 255

/-- The binding of the module from the fuse map (R15). -/
def bindAll (s : State) : List Byte := (List.range 4).flatMap fun d => bindDie (agetD s.fuse d 0).toNat d

/-- The spare that takes a retired core's logical number (R16). -/
def pickSpare (s : State) (die : Nat) : Option Nat :=
  let sp := sparesOf s die
  let bays := (List.range 10).filter fun b => !(inBay sp b).isEmpty
  let best := bays.foldl (fun b x => if (inBay sp b).length < (inBay sp x).length then x else b) (bays.headD 0)
  (inBay sp best).head?

/-- Retires a physical core: its HARVEST bit is set and the binding re-made (R16 to R18). -/
def retireCoreMap (s : State) (core : Nat) : State :=
  if s.retired.contains core then s
  else
    let s1 := { s with retired := s.retired ++ [core] }
    match logOfCore s core with
    | none => s1
    | some n => { s1 with ltp := s.ltp.set n (match pickSpare s1 (core / 40) with
        | some c => ltpByte c
        | none => 255) }

/-- HARVEST as read from a die (R18, R21). -/
def harvestReg (s : State) (reader die : Nat) : Dword :=
  if partOfDie s die = partOfDie s reader then dw (harvestMap s die) else dw (2 ^ 40 - 1)

/-- One LTP selector's register (R19, R21): selector 0x140 + j. -/
def ltpReg (s : State) (reader j : Nat) : Dword :=
  dwordAt ((List.range 8).map fun i =>
    let n := 8 * j + i
    if partOfDie s (n / 36) = partOfDie s reader then (s.ltp[n]?).getD 255 else 255) 0

end Sys2Proof.Machine
end

