-- ==== Sys2Proof/Machine/Access.lean ====
section
/-! DEFINITION. Accesses of groups to memory: the checks of a lane (R313), what reaches home (R178 to R182, R210, R320),
contributions to reduction rounds (R381), records of OBSERVED accesses (R409), the deterministic grant (R411). -/

namespace Sys2Proof.Machine

/-- Sets a group. -/
def setGroup (s : State) (k : Nat) (g : Group) : State := { s with groups := aset s.groups k g }
/-- Sets a block. -/
def setBlock (s : State) (k : Nat) (b : Block) : State := { s with blocks := aset s.blocks k b }
/-- The kernel header of a launch, once read. -/
def headerOf (s : State) (l : Nat) : Header :=
  match aget s.launches l with
  | some x => x.hdr.getD ⟨0, false, false, 1, 0, 0, 0, 1, 1, none, 0, 0, 0, 0, 0, 0⟩
  | none => ⟨0, false, false, 1, 0, 0, 0, 1, 1, none, 0, 0, 0, 0, 0, 0⟩

/-- Permission bits (R222). -/
abbrev permR : Nat := 1
/-- Write. -/
abbrev permW : Nat := 2
/-- Execute. -/
abbrev permX : Nat := 4

/-- Kinds of group access (R178, R313, R321, R322). -/
inductive AccKind where
  | load | store | rmw | update | accum | accumClr | lald | last
deriving DecidableEq, Repr

/-- What an access kind needs of PERM (R313). -/
def AccKind.need : AccKind → Nat
  | .load | .lald => permR
  | .rmw => permR + permW
  | _ => permW

/-- Does the kind find a MIGRATING page absent (R228). -/
def AccKind.writes : AccKind → Bool
  | .load | .lald => false
  | _ => true

/-- The collective entry of a context that covers an address (R379). -/
def collAt (s : State) (c va : Nat) : Option (Nat × CollEntry) :=
  (ctxOf s c).colls.find? fun e => e.2.base ≤ va && va < e.2.base + e.2.pages * 65536

/-- Width in bytes of a number format code (R28). -/
def codeBytes (n : Nat) : Nat :=
  match numOfCode n with
  | some f => numBits f / 8
  | none => 1

/-- Attribute and target conditions of check 3 (R313, R321, R322, R352, R381). -/
def attrOk (s : State) (c : Nat) (k : AccKind) (size va : Nat) (t : Tr) : Bool :=
  let covered := (collAt s c va).isSome
  let host := paKind t.pa = .host
  match k with
  | .load | .lald => !t.reduce || covered
  | .store => !t.reduce || (match collAt s c va with
      | some e => t.accum || codeBytes e.2.fmt ≤ size
      | none => false)
  | .rmw | .update => !t.accum && !t.reduce && !host
  | .accum | .accumClr => t.accum && !host && (!t.reduce || covered)
  | .last => !t.reduce || covered

/-- A lane's standing after checks 1 to 5 of R313. -/
inductive LaneChk where
  | bad (order : Nat) (t : Trap)
  | absent
  | ok (t : Tr)
deriving DecidableEq, Repr

/-- Checks 1 to 5 of R313. -/
def laneChk (s : State) (c : Nat) (k : AccKind) (size : Nat) (va : Dword) : LaneChk :=
  if bits va 63 56 ≠ 0 then .bad 1 .protection
  else if va.toNat % size ≠ 0 then .bad 2 .alignment
  else
    match walk s c va.toNat with
    | none => .absent
    | some t =>
      if t.perm &&& k.need ≠ k.need || !attrOk s c k size va.toNat t then .bad 3 .protection
      else if !keyLoaded s t.key then .bad 4 .key
      else if t.absentFor k.writes then .absent
      else .ok t

/-- Check 6 of R313 and the loss of a peer, of the host or of the other partition (R313, R373; log 66): the fault of a
translated access, with its value. -/
def lateChk (s : State) (core : Nat) (k : AccKind) (size : Nat) (va : Dword) (t : Tr) : Option (Nat × Trap × Dword) :=
  let p := partOfDie s (core / 40)
  let value := k = .load || k = .lald || k = .rmw
  if value && inError s t.pa size then some (6, .poison, va)
  else
    if wayTo s p t.pa = .lost && k ≠ .store && k ≠ .last then some (7, .remoteLoss, dw (lossVal s p t.pa)) else none

/-- Must an access wait for the way to its address: traffic is held while a link retrains or a drain lasts (R375, R377).
A store is posted and an update buffered meanwhile. -/
def Tr.held (s : State) (core : Nat) (k : AccKind) (t : Tr) : Bool :=
  (k = .load || k = .lald || k = .rmw) && wayTo s (partOfDie s (core / 40)) t.pa = .held

/-- The fault of the earliest check failed, of the lowest lane that fails it (R313): lanes in ascending order. -/
def earliest (l : List (Nat × Trap × Dword)) : Option (Trap × Dword) :=
  let best := l.foldl (fun (b : Option (Nat × Trap × Dword)) x =>
    match b with
    | none => some x
    | some y => if x.1 < y.1 then some x else b) none
  best.map fun x => x.2

/-! What reaches home (R210). -/

/-- Does a core's access go to HBM of its own partition. -/
def nearHbm (s : State) (core pa : Nat) : Bool := paKind pa = .hbm && wayTo s (partOfDie s (core / 40)) pa = .free

/-- The event a core's store raises at a quarter, none when it writes a copy of its own (R210). -/
def storeEvent (s : State) (core key q : Nat) : Option Nat :=
  let who := coreHolder core q
  let d := dirAt s key q
  let p := protoId s q
  if 40 ≤ who || p = 1 || p = 4 then some evWthr
  else if d.owner = some who && d.holds who && (protoTable s q).holdOf d.st = 2 then none
  else if d.holds who && p ≠ 2 then some evUpgr
  else some evGetx

/-- The event that an access of a core raises at a quarter (R210): a read none where it hits a copy. -/
def askEvent (s : State) (core key q : Nat) : AccKind → Option Nat
  | .load | .lald => if (dirAt s key q).holds (coreHolder core q) then none else some evGets
  | .store | .last | .accumClr => storeEvent s core key q
  | .rmw => some evAtom
  | .update => if protoId s q = 4 then some evAtom else some evGetm
  | .accum => some evGetm

/-- What a core's request to a quarter came to: it waits; it is refused; or the quarter takes it, and of a WTHR or ATOM
what its entry performs (R204, R208, R211). -/
inductive Asked where
  | waits | refused | taken | dropped
deriving DecidableEq, Repr

/-- A core's request to a quarter. -/
def askQ (s : State) (core key q : Nat) (k : AccKind) : State × Asked :=
  match askEvent s core key q k with
  | none => (s, .taken)
  | some ev =>
    let x := driveSpan s key q 32 ev (coreHolder core q)
    if x.2.waits then (x.1, .waits)
    else if x.2.err then (x.1, .refused)
    else if ev = evWthr || ev = evAtom then (x.1, if x.2.moved.isEmpty then .dropped else .taken)
    else if ev = evGetx || ev = evUpgr then (setDir x.1 key q { dirAt x.1 key q with dirty := true }, .taken)
    else (x.1, .taken)

/-- A span of bytes: key, address and length. -/
abbrev Span := Nat × Nat × Nat

/-- The requests that one instruction or piece of work of a core makes for spans: what is buffered or posted for them is
performed first (R178, R181), then each quarter of HBM is asked for once (R202, R210, R342). -/
def askQuarters (s : State) (core : Nat) (k : AccKind) (l : List Span) : State × AMap Asked :=
  let s := l.foldl (fun s x =>
    if k = .update || k = .accum || wayTo s (partOfDie s (core / 40)) x.2.1 = .lost then s
    else flushAt s x.1 x.2.1 x.2.2) s
  let near := l.filter fun x => nearHbm s core x.2.1
  (near.flatMap fun x => (quarters x.2.1 x.2.2).map fun q => (x.1, q)).foldl (fun r x =>
    if ahas r.2 (dirKey x.1 x.2) then r
    else
      let y := askQ r.1 core x.1 x.2 k
      (y.1, aset r.2 (dirKey x.1 x.2) y.2)) (s, [])

/-- Does a request have to wait. -/
def askWaits (m : AMap Asked) : Bool := m.any fun e => e.2 == .waits

/-- Is a request that a span needs refused. -/
def askRefused (m : AMap Asked) (key pa n : Nat) : Bool :=
  (quarters pa n).any fun q => aget m (dirKey key q) == some .refused

/-- The quarters of a span that take what a request carries. -/
def askTaken (m : AMap Asked) (key pa n : Nat) : List Nat :=
  (quarters pa n).filter fun q => agetD m (dirKey key q) .taken == .taken

/-- Is an access refused at another module (R372). -/
def farRefused (s : State) (core pa : Nat) : Bool :=
  match paKind pa with
  | .pod _ => wayTo s (partOfDie s (core / 40)) pa = .abort
  | _ => false

/-- The bytes of a read by a core whose requests have been made: none when one meets ERR (R211) or is refused. -/
def loadAsked (s : State) (core key pa n : Nat) (m : AMap Asked) : Option (List Byte) :=
  if askRefused m key pa n || farRefused s core pa then none else some (readRaw s key pa n)

/-- What a request that takes its bytes at once comes to: the value, a refusal, or a wait (R204, R211). -/
inductive Got (α : Type) where
  | ok (v : α)
  | err
  | waits
deriving DecidableEq, Repr

/-- A read by a core (R210). -/
def coreLoad (s : State) (core key pa n : Nat) : State × Got (List Byte) :=
  let r := askQuarters s core .load [(key, pa, n)]
  if askWaits r.2 then (r.1, .waits)
  else
    match loadAsked r.1 core key pa n r.2 with
    | some l => (r.1, .ok l)
    | none => (r.1, .err)

/-- The launch of a group. -/
def launchOf (s : State) (grp : Nat) : Nat :=
  (((aget s.groups grp).bind fun g => aget s.blocks g.blk).map Block.launch).getD 0

/-- Aligned pieces of at most 8 bytes of a span: address, offset, length. -/
def exchangePieces : Nat → Nat → Nat → Nat → List (Nat × Nat × Nat)
  | 0, _, _, _ => []
  | k + 1, pa, at_, n =>
    if n = 0 then []
    else
      let w := if pa % 8 = 0 && 8 ≤ n then 8 else if pa % 4 = 0 && 4 ≤ n then 4 else 1
      (pa, at_, w) :: exchangePieces k (pa + w) (at_ + w) (n - w)

/-- A store beyond HBM: posted to another module, also while traffic to it is held, then behind the updates to its location
that are kept back (R181); written to the host. What cannot be delivered is lost (R182, R373, R377) or refused there
(R372). -/
def storeFar (s : State) (core grp key pa : Nat) (data : List Byte) : State :=
  let p := partOfDie s (core / 40)
  match paKind pa, wayTo s p pa with
  | .pod pos, .lost => { s with lostPeers := s.lostPeers ++ [(grp, pos)] }
  | .pod _, .abort => countErr s (core / 40)
  | .pod pos, _ =>
    let s := flushAt s key pa data.length
    if s.upd.any fun u => u.touches key pa data.length then
      { s with upd := s.upd ++ (exchangePieces data.length pa 0 data.length).map fun x =>
          { grp := grp, core := core, key := key, pa := x.1, size := x.2.2, op := .xchg,
            v := dw (ofBytes ((data.drop x.2.1).take x.2.2)), cell := none, due := true } }
    else { s with posted := s.posted ++ [⟨grp, p, pos, pa, data, launchOf s grp⟩] }
  | .host, .lost => { s with log := s.log ++ [.lostStore (portOfPart s p)] }
  | .host, _ => homeWrite s key pa data
  | .hbm, _ => { s with lostPeers := s.lostPeers ++ [(grp, s.podPos)] }
  | .reserved, _ => s

/-- A core's store whose requests have been made: one that meets ERR is discarded and counted (R211), of a WTHR each
quarter takes what its entry performs (R208). -/
def storeAsked (s : State) (core grp key pa : Nat) (data : List Byte) (m : AMap Asked) : State :=
  if nearHbm s core pa then
    if askRefused m key pa data.length then countErr s (homeDie pa)
    else writeQuarters s key pa data (askTaken m key pa data.length)
  else storeFar s core grp key pa data

/-- A store by a core: none while it must wait (R204). -/
def coreStore (s : State) (core grp key pa : Nat) (data : List Byte) : State × Bool :=
  let r := askQuarters s core .store [(key, pa, data.length)]
  if askWaits r.2 then (r.1, false) else (storeAsked r.1 core grp key pa data r.2, true)

/-- A value-returning RMW at home whose request has been made (R210): none when it meets ERR. One whose entry performs
nothing leaves memory as it is (R208). -/
def rmwAsked (s : State) (core key pa n : Nat) (op : AtomOp) (v c : Dword) (m : AMap Asked) : Option (State × Dword) :=
  if askRefused m key pa n || farRefused s core pa then none
  else
    some (if (askTaken m key pa n).isEmpty then s else homeAtomic s key pa n op v c, dw (ofBytes (readRaw s key pa n)))

/-- A commutative update whose request has been made (R178): buffered; one that meets ERR, as every integer one does under
ACCUM, is discarded and counted (R210, R211). -/
def updAsked (s : State) (u : Upd) (m : AMap Asked) : State :=
  if askRefused m u.key u.pa u.size then countErr s (homeDie u.pa) else { s with upd := s.upd ++ [u] }

/-! Contributions (R381, R383). -/

/-- The rounds of an entry at this rank. -/
def roundsOf (s : State) (c e : Nat) : Rounds := agetD s.rounds (c * 512 + e) {}
/-- Sets them. -/
def setRounds (s : State) (c e : Nat) (r : Rounds) : State := { s with rounds := asetD s.rounds (c * 512 + e) r {} }

/-- Frames of a page. -/
def spanOf (large : Bool) : Nat := if large then 256 else 1
/-- The backing entry that covers a page (R234). -/
def backingOf (x : Ctx) (v : Nat) : Option Backing :=
  (x.backing.find? fun e => e.2.vpn ≤ v && v < e.2.vpn + e.2.count * spanOf e.2.large).map Prod.snd

/-- The index that a location's number holds. Cells and elements are counted alike from BASE (R381): where an entry has pages
of both kinds, the number of an element is 2^40 more than its index if a cell has that index (log 83). -/
def locIx (loc : Nat) : Nat := loc % 2 ^ 40

/-- Has the page at an address ACCUM. -/
def accumAt (s : State) (c va : Nat) : Bool :=
  match walk s c va with
  | some t => t.accum
  | none =>
    match backingOf (ctxOf s c) (va / 65536) with
    | some b => b.attr / 2 % 2 == 1
    | none => false

/-- Is a location a 128-byte cell: the page that it would lie in has ACCUM (R381). -/
def cellAt (s : State) (c : Nat) (x : CollEntry) (loc : Nat) : Bool :=
  loc < 2 ^ 40 && loc * 128 < x.pages * 65536 && accumAt s c (x.base + loc * 128)

/-- The number of a location. -/
def locNum (s : State) (c : Nat) (x : CollEntry) (cell : Bool) (i : Nat) : Nat :=
  if !cell && cellAt s c x i then i + 2 ^ 40 else i

/-- Page index of a location of an entry, a cell or an element (R381, R384). -/
def collPage (x : CollEntry) (cell : Bool) (loc : Nat) : Nat :=
  locIx loc * (if cell then 128 else codeBytes x.fmt) / 65536

/-- The reducer of a location (R384). -/
def reducerOf (x : CollEntry) (cell : Bool) (loc : Nat) : Nat := collPage x cell loc % x.nrank

/-- Merges a contribution to the cell or element of an index into the round it joins (R383): that of the next close, or,
where a close is in progress whose partial for the location this rank still merges itself, the closing one; which one is a
free choice, unless the contributing group gk has read or acquired since the close, and may so come after it (log 76). -/
def contribute (s : State) (gk c e : Nat) (x : CollEntry) (cell : Bool) (i : Nat) (f : LA → LA) : State :=
  let r := roundsOf s c e
  let loc := locNum s c x cell i
  let mine := ((aget s.groups gk).any fun g => g.acqAt < r.closedAt) && reducerOf x cell loc = x.myRank
    && r.reduced < r.closed && r.ending.isNone && !r.slots.contains loc
  let s := { s with freeCtr := s.freeCtr + 1 }
  if mine && Config.freeRound (s.freeCtr - 1) then
    let m := agetD r.merged loc (0, LA.zero)
    setRounds s c e { r with closedC := aset r.closedC loc (f (agetD r.closedC loc LA.zero)),
                             merged := aset r.merged loc (m.1 ||| (1#512 <<< x.myRank), f m.2) }
  else setRounds s c e { r with openC := aset r.openC loc (f (agetD r.openC loc LA.zero)) }

/-- Merges an LA that holds contributions. -/
def mergeIn (b a : LA) : LA := a.merge b

/-- A store to a REDUCE page (R381): each aligned element of the stored bytes is a term. -/
def contributeStore (s : State) (gk c va : Nat) (t : Tr) (data : List Byte) : State :=
  match collAt s c va with
  | none => s
  | some (e, x) =>
    if t.accum then contribute s gk c e x true ((va - x.base) / 128) LA.mergeIll
    else
      match numOfCode x.fmt with
      | none => s
      | some f =>
        let w := numBits f / 8
        (List.range (data.length / w)).foldl (fun s i =>
          let v := ofBytes ((data.drop (i * w)).take w)
          contribute s gk c e x false ((va + i * w - x.base) / w) fun a => a.addTerm (some (exactOf f 0 v))) s

/-! Observed accesses (R408 to R411). -/

/-- Logs an access and counts it. -/
def noteAccess (s : State) (k : Nat) (b : Block) (lane : Nat) (t : Tr) (size : Nat) (code : AccCode) : State :=
  match aget s.groups k with
  | none => s
  | some g =>
    if !t.observed then s
    else
      let s := if logsAccess s b g t then bookAccess s b.ctx t.pa size code (groupAgent b g lane) else s
      setGroup s k (g.countObserved lane)

/-- Is a group's run over. -/
def Group.ended (g : Group) : Bool := g.st == .exited || g.st == .halted

/-- Groups of a block, by key. -/
def groupsOf (s : State) (b : Nat) : AMap Group := s.groups.filter fun e => e.2.blk == b

/-- Total blocks of a launch. -/
def Launch.total (l : Launch) : Nat := l.gx * l.gy * l.gz

/-- The grant rule (R411): every group of the context with a lower key has ended, and will not be followed by another of an
earlier launch. -/
def granted (s : State) (b : Block) (g : Group) : Bool :=
  match aget s.launches b.launch with
  | none => true
  | some l =>
    (s.launches.all fun e => e.2.ctx != l.ctx || e.1 == b.launch || e.2.st == .waiting || l.order ≤ e.2.order
        || (e.2.st == .running && s.blocks.all fun x => x.2.launch != e.1 || (groupsOf s x.1).all fun y => y.2.ended))
      && (s.blocks.all fun e => e.2.launch != b.launch || b.id ≤ e.2.id
        || (groupsOf s e.1).all fun x => x.2.ended)
      && (groupsOf s g.blk).all fun x => g.idx ≤ x.2.idx || x.2.ended

end Sys2Proof.Machine
end

