-- ==== Sys2Proof/Machine/Pages.lean ====
section
/-! DEFINITION. The page engine: frames, chains, requests, fills, copies, shootdowns and the moves of a page (R220 to
R225, R230, R233 to R239). Frames are named stack × 2^20 + local frame. -/

namespace Sys2Proof.Machine

/-! Frames. -/

/-- The frames that migrations in progress have taken as destinations (R236): the first frame and the number of each. -/
def moveTargets (s : State) : List (Nat × Nat) :=
  s.pageOps.filterMap fun e =>
    let n := match aget s.frames e.1 with
      | some f => if f.large then 256 else 1
      | none => 1
    match e.2 with
    | .migrate d _ _ _ | .unmapAfter d _ _ _ _ _ => some (d, n)
    | _ => none

/-- Is a frame taken by a migration in progress. -/
def movingTo (s : State) (id : Nat) : Bool := (moveTargets s).any fun m => m.1 ≤ id && id < m.1 + m.2

/-- Is a frame free (R220, R222, R398). -/
def frameFree (s : State) (id : Nat) : Bool :=
  !reservedFrame id && !ahas s.frames id && !ahas s.wiping id && !movingTo s id

/-- Frames of a stack that are not free (R230). -/
def usedFrames (s : State) (stack : Nat) : Nat :=
  (s.frames.filter fun e => e.1 / 2 ^ 20 = stack && !reservedFrame e.1).length
    + (s.wiping.filter fun e => e.1 / 2 ^ 20 = stack).length
    + ((moveTargets s).filter fun m => m.1 / 2 ^ 20 = stack).foldl (fun n m => n + m.2) 0

/-- The lowest free frame of a stack from a local number on. -/
def scanFrame (s : State) (stack : Nat) : Nat → Nat → Option Nat
  | 0, _ => none
  | fuel + 1, f => if frameFree s (stack * 2 ^ 20 + f) then some (stack * 2 ^ 20 + f) else scanFrame s stack fuel (f + 1)

/-- The lowest 256 free frames of a stack on a multiple of 256. -/
def scanLarge (s : State) (stack : Nat) : Nat → Nat → Option Nat
  | 0, _ => none
  | fuel + 1, k =>
    let f := stack * 2 ^ 20 + k * 256
    if (List.range 256).all fun i => frameFree s (f + i) then some f else scanLarge s stack fuel (k + 1)

/-- A free frame, or free large frame, of a stack: the lowest (log 16). -/
def stackFrame (s : State) (large : Bool) (stack : Nat) : Option Nat :=
  if large then scanLarge s stack 4095 0 else scanFrame s stack 0xFFEA0 0

/-- A die's stacks, the one with more free frames first, ties to the lower (R230). -/
def stackOrder (s : State) (die : Nat) : List Nat :=
  if usedFrames s (2 * die + 1) < usedFrames s (2 * die) then [2 * die + 1, 2 * die] else [2 * die, 2 * die + 1]

/-- Distance of two dies round the ring (R13). -/
def ringDist (a b : Nat) : Nat := min ((a + 4 - b) % 4) ((b + 4 - a) % 4)

/-- The dies in the order R230 tries them. -/
def dieOrder (s : State) (p : Nat) (pref : Option Nat) (from_ : Nat) : List Nat :=
  let others := (diesOf s p).filter (· != from_)
  let far := [1, 2].flatMap fun k => others.filter fun d => ringDist d from_ = k
  (match pref with
   | some d => [d]
   | none => []) ++ [from_] ++ far

/-- Takes a free frame, or large frame, from the first place of R230 that has one. -/
def takeFrame (s : State) (p : Nat) (pref : Option Nat) (from_ : Nat) (large : Bool) : Option Nat :=
  ((dieOrder s p pref from_).filter fun d => partOfDie s d = p).findSome? fun d =>
    (stackOrder s d).findSome? fun st => stackFrame s large st

/-! Chains (R221, R223). -/

/-- Sets the NEXT link of the entry a link names. -/
def setNext (s : State) (l nx : BitVec 24) : State :=
  if linkAper l then { s with aperts := amod s.aperts (linkKey l) fun a => { a with next := nx } }
  else { s with frames := amod s.frames (linkKey l) fun f => { f with next := nx } }

/-- NEXT of the entry a link names. -/
def nextOf (s : State) (l : BitVec 24) : BitVec 24 :=
  if linkAper l then ((aget s.aperts (linkKey l)).map Aperture.next).getD endLink
  else ((aget s.frames (linkKey l)).map Frame.next).getD endLink

/-- The links of a chain. -/
def chainFrom (s : State) : Nat → BitVec 24 → List (BitVec 24)
  | 0, _ => []
  | fuel + 1, l => if l = endLink then [] else l :: chainFrom s fuel (nextOf s l)

/-- The chain of a context and key. -/
def chainOf (s : State) (c v : Nat) : List (BitVec 24) := chainFrom s 65 (anchorOf s c v)

/-- Sets an anchor; the end of a chain is not listed. -/
def setAnchor (s : State) (c v : Nat) (l : BitVec 24) : State :=
  { s with anchors := asetD s.anchors (pageHash c v) l endLink }

/-- Is there room in a chain for n more entries (R223). -/
def chainRoom (s : State) (c v n : Nat) : Bool := (chainOf s c v).length + n ≤ 64

/-- Puts an entry, already written, at the head of its chain (log 16). -/
def linkIn (s : State) (c v : Nat) (l : BitVec 24) : State :=
  setAnchor (setNext s l (anchorOf s c v)) c v l

/-- Replaces one link of a chain by another. -/
def relink (s : State) (c v : Nat) (old new : BitVec 24) : State :=
  if anchorOf s c v = old then setAnchor s c v new
  else
    match (chainOf s c v).find? fun l => nextOf s l == old with
    | some l => setNext s l new
    | none => s

/-- Takes an entry out of its chain. -/
def linkOut (s : State) (c v : Nat) (l : BitVec 24) : State := relink s c v l (nextOf s l)

/-- Key VPN of a page. -/
def keyVpn (large : Bool) (v : Nat) : Nat := if large then v / 256 * 256 else v

/-- Writes the entries of a page from its first frame on and chains the first (R222). -/
def enterPage (s : State) (id : Nat) (f : Frame) : State :=
  let v := keyVpn f.large f.vpn
  let s := { s with frames := (List.range (spanOf f.large)).foldl (fun m i =>
    aset m (id + i) { f with vpn := v + i, next := endLink }) s.frames }
  linkIn s f.ctx v (frameLink id)

/-- Removes the entries of a page from its first frame on. -/
def leavePage (s : State) (id : Nat) : State :=
  match aget s.frames id with
  | none => s
  | some f =>
    let s := linkOut s f.ctx (keyVpn f.large f.vpn) (frameLink id)
    { s with frames := (List.range (spanOf f.large)).foldl (fun m i => adel m (id + i)) s.frames }

/-- The page a frame holds: the first frame of its large page, or itself. -/
def pageBase (s : State) (id : Nat) : Nat :=
  match aget s.frames id with
  | some f => if f.large then id - f.vpn % 256 else id
  | none => id

/-- A RETIRED frame's entry (R222, R238). -/
def Frame.retiredEntry : Frame :=
  { vpn := 0, ctx := 0, key := 0, next := 0, st := .retired, gran := 0, perm := 0, reduce := false, accum := false,
    observed := false, large := false, pincnt := 0, rcnt := 0 }

/-- Retires a frame that is free (R238, R400): it is never allocated and is recorded; the record holds 8,192 frames a
stack. -/
def retireFrame (s : State) (id : Nat) : State :=
  { s with frames := aset s.frames id Frame.retiredEntry,
           retiredFrames := if s.retiredFrames.contains id ||
               8192 ≤ (s.retiredFrames.filter fun f => f / 2 ^ 20 = id / 2 ^ 20).length then s.retiredFrames
             else s.retiredFrames ++ [id] }

/-- The frames of a POISONED page that are retired when it leaves them: those that hold poison, or the first where every
poisoned granule has been written anew (R227). -/
def badFrames (s : State) (id n : Nat) : List Nat :=
  let l := ((List.range n).filter fun i => s.bad.any fun b => b.1 / 2 ^ 16 = id + i).map (id + ·)
  if l.isEmpty then [id] else l

/-- Key of the retirement mark of a frame among page operations (R235). -/
def markOp (id : Nat) : Nat := 2 ^ 24 + id

/-- The frames of a page that are marked for retirement. -/
def markedFrames (s : State) (id n : Nat) : List Nat :=
  ((List.range n).map (id + ·)).filter fun k => ahas s.pageOps (markOp k)

/-- Marks frames that are to be retired with the last pin of their page (R235). -/
def markRetire (s : State) (l : List Nat) : State :=
  { s with pageOps := l.foldl (fun m id => aset m (markOp id) .retireMark) s.pageOps }

/-- Takes the marks of frames away. -/
def unmark (s : State) (l : List Nat) : State := { s with pageOps := l.foldl (fun m id => adel m (markOp id)) s.pageOps }

/-- Retires frames that are free. -/
def retireFrames (s : State) (l : List Nat) : State := l.foldl retireFrame s

/-- Writes a page's frames with zeros and frees them, or retires those that hold poison or are marked (R227, R235). -/
def freePage (s : State) (id : Nat) : State :=
  match aget s.frames id with
  | none => s
  | some f =>
    let bad := (if f.bad then badFrames s id (spanOf f.large) else []) ++ markedFrames s id (spanOf f.large)
    let s := leavePage s id
    let s := wipePages s (id * 2 ^ 16) (spanOf f.large)
    let s := { s with pageOps := adel s.pageOps id }
    retireFrames (unmark s bad) bad

/-- A shootdown of a page (R225): every access already translated through its entries is performed at its home, also one
that had to wait at a quarter (log 36). -/
def shootdown (s : State) (id : Nat) : State :=
  let n := match aget s.frames id with
    | some f => spanOf f.large
    | none => 1
  let here (u : Upd) : Bool := decide (id * 2 ^ 16 ≤ u.pa) && decide (u.pa < (id + n) * 2 ^ 16)
  let s := flushUpd s here
  (s.upd.filter here).foldl (fun s u => noteUpd (updPayload s u) u) { s with upd := s.upd.filter fun u => !here u }

/-- The partition in whose tables an aperture entry stands. -/
def apertPart (s : State) (k : Nat) : Nat := partOfDie s (k / 2 ^ 18)

/-- Does an access translated through an aperture entry wait for the way to its home (R375, R377): its shootdown does
too. -/
def apertHeld (s : State) (k : Nat) : Bool :=
  match aget s.aperts k with
  | none => false
  | some a =>
    let lo := a.target * 2 ^ 24
    let at_ (pa : Nat) : Bool := lo ≤ pa && pa < lo + 2 ^ 24
    (s.posted.any fun w => at_ w.pa && !w.data.isEmpty && wayTo s w.part w.pa = .held)
      || s.upd.any fun u => at_ u.pa && wayTo s (partOfDie s (u.core / 40)) u.pa = .held

/-- A shootdown of an aperture entry (R225). -/
def shootAperture (s : State) (k : Nat) : State :=
  match aget s.aperts k with
  | none => s
  | some a =>
    let lo := a.target * 2 ^ 24
    landPosted (flushUpd s fun u => lo ≤ u.pa && u.pa < lo + 2 ^ 24) lo (2 ^ 24)

/-! Bulk copies: what is not listed in memory reads as zero on both sides. -/

/-- Copies n bytes between places that hold no error. -/
def copyCells (s : State) (k1 pa1 k2 pa2 n : Nat) : State :=
  let lo := memKey k1 pa1
  let dst := memKey k2 pa2
  let cells := (s.mem.filter fun c => lo ≤ c.1 && c.1 < lo + n).map fun c => (dst + (c.1 - lo), c.2)
  let kept := s.mem.filter fun c => !(dst ≤ c.1 && c.1 < dst + n)
  { s with mem := cells.foldl (fun m c => aset m c.1 c.2) kept }

/-- Bytes of a range before its first granule in error (R227). -/
def cleanPrefix (s : State) (pa n : Nat) : Nat :=
  let bads := (s.bad.map Prod.fst) ++ s.latent.map fun a => a / granAt s a * granAt s a
  (bads.filter fun b => b < pa + n && pa < b + 512 && inError s (max b pa) 1).foldl (fun m b => min m (b - pa)) n

/-! Requests (R230). -/

/-- The entry a page gets (R222, R230, R235). -/
def newEntry (key c v : Nat) (large : Bool) (gran perm attr : Nat) (st : PState) : Frame :=
  { vpn := v, ctx := c, key := key, next := endLink, st := st, gran := gran, perm := perm, reduce := attr % 2 = 1,
    accum := attr / 2 % 2 = 1, observed := attr / 4 % 2 = 1, large := large, pincnt := 0, rcnt := 0 }

/-- Status codes of PGREQ (R230). -/
abbrev reqQueued : Nat := 0
/-- PRESENT. -/
abbrev reqPresent : Nat := 1
/-- NOFRAME. -/
abbrev reqNoFrame : Nat := 2
/-- BUSY. -/
abbrev reqBusy : Nat := 3
/-- NOBACK. -/
abbrev reqNoBack : Nat := 4

/-- A request for the page of an address (R230), from a die of a partition. A page of a chain that is full counts as
NOFRAME (log 16). -/
def requestPage (s : State) (c va p die : Nat) : State × Nat :=
  match walk s c va with
  | some t =>
    match t.st with
    | .requested => (s, reqQueued)
    | .migrating | .deferred => (s, reqBusy)
    | _ => (s, reqPresent)
  | none =>
    let x := ctxOf s c
    let v := va / 2 ^ 16
    match backingOf x v with
    | none => (s, reqNoBack)
    | some b =>
      let key := keyVpn b.large v
      match takeFrame s p b.die die b.large with
      | none => (s, reqNoFrame)
      | some id =>
        if !chainRoom s c key 1 then (s, reqNoFrame)
        else
          let s := enterPage s id (newEntry x.keySlot c key b.large b.gran b.perm b.attr .requested)
          let src := if b.src = 0 then 0 else b.src + (key - b.vpn) * 2 ^ 16
          ({ s with pageOps := aset s.pageOps id (.fill src) }, reqQueued)

/-- Fills a page's frames from a source, or with zeros (R230, R235). -/
def fillFrom (s : State) (id src key : Nat) (large : Bool) : State :=
  let n := spanOf large * 2 ^ 16
  let s := wipePages s (id * 2 ^ 16) (spanOf large)
  if src = 0 then s else copyCells (landPosted s src n) 0 src key (id * 2 ^ 16) n

/-- The end of a fill (R239): the page becomes RESIDENT, or ABSENT on a source error, which is logged. A source that
cannot be reached is such an error. -/
def endFill (s : State) (id : Nat) (ok : Bool) : State :=
  match aget s.pageOps id, aget s.frames id with
  | some (.fill src), some f =>
    if ok then
      let s := fillFrom s id src f.key f.large
      modPage { s with pageOps := adel s.pageOps id } id fun f => { f with st := .resident }
    else
      let s := leavePage { s with pageOps := adel s.pageOps id } id
      { s with log := s.log ++ [.fillError id] }
  | _, _ => s

/-! Pins (R238). -/

/-- Raises PINCNT: false where it is 255. -/
def pinPage (s : State) (id : Nat) : State × Bool :=
  match aget s.frames id with
  | none => (s, false)
  | some f =>
    if f.pincnt = 255 then (s, false)
    else (modPage s id fun f => { f with pincnt := f.pincnt + 1, st := if f.st = .resident then .pinned else f.st }, true)

/-- Lowers PINCNT: false where it is 0. A retirement that waited for the last pin is left to the caller. -/
def unpinPage (s : State) (id : Nat) : State × Bool :=
  match aget s.frames id with
  | none => (s, false)
  | some f =>
    if f.pincnt = 0 then (s, false)
    else (modPage s id fun f =>
      { f with pincnt := f.pincnt - 1, st := if f.pincnt = 1 && f.st == .pinned then .resident else f.st }, true)

/-! Migration (R236). -/

/-- Starts the migration of a page whose checks have passed, to a destination frame: MIGRATING, shot down, every dirty
line at the source. -/
def startMove (s : State) (id dst gran : Nat) (who : Option QRef) (retire : List Nat) : State :=
  let n := match aget s.frames id with
    | some f => spanOf f.large
    | none => 1
  let s := shootdown s id
  let s := recallRange s (id * 2 ^ 16) (n * 2 ^ 16)
  let s := modPage s id fun f => { f with st := .migrating }
  { s with pageOps := aset s.pageOps id (.migrate dst gran who retire) }

/-- The words of a page that have been overwritten go with it to another frame (R192). -/
def moveStale (s : State) (key src dst n : Nat) : State :=
  let lo := memKey key src / 4
  let mine (k : Nat) : Bool := lo ≤ k && k < lo + n / 4
  let moved := s.stale.filter fun e => mine e.1
  { s with stale := moved.foldl (fun m e => aset m (memKey key dst / 4 + (e.1 - lo)) e.2) <|
      s.stale.filter fun e => !mine e.1 }

/-- The entry rewritten to the destination frame, the copy made, the source written with zeros and freed, or retired where
the page is POISONED (R227, R236); such a page stays so until it is unmapped. -/
def finishMove (s : State) (id dst gran : Nat) : State :=
  match aget s.frames id with
  | none => s
  | some f =>
    let n := spanOf f.large
    let s := wipePages s (dst * 2 ^ 16) n
    let s := copyCells s f.key (id * 2 ^ 16) f.key (dst * 2 ^ 16) (n * 2 ^ 16)
    let s := moveStale s f.key (id * 2 ^ 16) (dst * 2 ^ 16) (n * 2 ^ 16)
    let v := keyVpn f.large f.vpn
    let s := { s with frames := (List.range n).foldl (fun m i =>
      aset m (dst + i) { f with vpn := v + i, st := f.rest, gran := gran, next := if i = 0 then f.next else endLink }) s.frames }
    let s := relink s f.ctx v (frameLink id) (frameLink dst)
    let s := { s with frames := (List.range n).foldl (fun m i => adel m (id + i)) s.frames,
                      pageOps := adel s.pageOps id }
    let s := wipePages s (id * 2 ^ 16) n
    if f.bad then retireFrames s (badFrames s id n) else s

end Sys2Proof.Machine
end

