-- ==== Sys2Proof/Machine/Queues.lean ====
section
/-! DEFINITION. Queues: the queue agent's reads and writes, completions, halts, bindings (R96 to R112, R330 to R336). -/

namespace Sys2Proof.Machine

/-! Which queue. -/

/-- The context a queue serves. -/
def queueCtx (s : State) : QRef → Nat
  | .host p q => ((aget s.queues (p * 8192 + q)).map HostQ.ctx).getD 0
  | .ep c _ => c

/-- The partition a queue acts in. -/
def queuePart (s : State) : QRef → Nat
  | .host p _ => (partOfPort s p).getD 0
  | .ep c slot => partOfDie s (((aget s.eps (c * 64 + slot)).map EpQ.die).getD 0)

/-- The die that requests pages for a queue (R230). -/
def queueDie (s : State) : QRef → Nat
  | .host p _ => ((diesOf s ((partOfPort s p).getD 0)).head?).getD 0
  | .ep c slot => ((aget s.eps (c * 64 + slot)).map EpQ.die).getD 0

/-- The agent field of a queue (R408). -/
def queueAgent : QRef → Dword
  | .host _ q => dw (2 ^ 62 + q)
  | .ep _ slot => dw (2 ^ 62 + 2 ^ 13 + slot)

/-- Is a queue a system queue (R96). -/
def isSystem (s : State) : QRef → Bool
  | .host p q => ((aget s.queues (p * 8192 + q)).map fun x => x.ctx == 0).getD false
  | .ep _ _ => false

/-- The records of a queue. -/
def queueRecs (s : State) : QRef → List QRec
  | .host p q => ((aget s.queues (p * 8192 + q)).map HostQ.recs).getD []
  | .ep c slot => ((aget s.eps (c * 64 + slot)).map EpQ.recs).getD []

/-- Sets the records of a queue. -/
def setRecs (s : State) (q : QRef) (l : List QRec) : State :=
  match q with
  | .host p n => { s with queues := amod s.queues (p * 8192 + n) fun x => { x with recs := l } }
  | .ep c slot => { s with eps := amod s.eps (c * 64 + slot) fun x => { x with recs := l } }

/-- Is a queue halted. -/
def queueHalted (s : State) : QRef → Bool
  | .host p q => ((aget s.queues (p * 8192 + q)).map HostQ.halted).getD true
  | .ep c slot => (aget s.eps (c * 64 + slot)).isNone

/-! Reads and writes of the queue agent (R176, R336). -/

/-- What an agent's access finds. -/
inductive EngRes where
  | ok (t : Tr)
  | wait
  | err (status : Nat)
deriving DecidableEq, Repr

/-- ERR_ILLFORMED. -/
abbrev errIll : Nat := 0x80
/-- ERR_PROT. -/
abbrev errProt : Nat := 0x81
/-- ERR_NOFRAME. -/
abbrev errNoFrame : Nat := 0x82
/-- ERR_SOURCE. -/
abbrev errSource : Nat := 0x83
/-- ERR_DEST. -/
abbrev errDest : Nat := 0x84
/-- ERR_TIMEOUT. -/
abbrev errTimeout : Nat := 0x85
/-- ERR_ABORTED. -/
abbrev errAborted : Nat := 0x86
/-- ERR_TARGET. -/
abbrev errTarget : Nat := 0x87
/-- ERR_REMOTE. -/
abbrev errRemote : Nat := 0x88

/-- Translates an agent's access in a context, requesting an absent page from a die (R230, R336): unmapped or not
permitted ends in ERR_PROT, a REDUCE page written in ERR_TARGET, a peer out of reach to the end of the drain rounds in
ERR_REMOTE. -/
def engPage (s : State) (c va : Nat) (write : Bool) (p die : Nat) : State × EngRes :=
  if 2 ^ 56 ≤ va then (s, .err errProt)
  else match walk s c va with
  | some t =>
    let need := if write then permW else permR
    if t.perm &&& need ≠ need || !keyLoaded s t.key then (s, .err errProt)
    else if write && t.reduce then (s, .err errTarget)
    else if t.absentFor write then (s, .wait)
    else
      if paKind t.pa = .reserved || paKind t.pa = .pod s.podPos then (s, .err errProt)
      else (s, match wayTo s p t.pa with
        | .free => .ok t
        | .held => .wait
        | .lost => .err errRemote
        | .abort => .err errProt)
  | none =>
    let r := requestPage s c va p die
    if r.2 = reqNoBack then (s, .err errProt)
    else if r.2 = reqNoFrame then (s, .err errNoFrame)
    else (r.1, .wait)

/-- What a read or an update of an agent gives. -/
inductive EngVal where
  | ok (bytes : List Byte)
  | wait
  | err (status : Nat)
deriving DecidableEq, Repr

/-- The aligned pieces of at most 128 bytes in which an agent's access is recorded (log 20); fuel bounds their number. -/
def agentPieces : Nat → Nat → Nat → List (Nat × Nat)
  | 0, _, _ => []
  | fuel + 1, pa, n =>
    if n = 0 then []
    else
      let k := ([128, 64, 32, 16, 8, 4, 2].find? fun k => pa % k = 0 && k ≤ n).getD 1
      (pa, k) :: agentPieces fuel (pa + k) (n - k)

/-- The records of an agent's access of n bytes, none where it is not logged (R409). -/
def agentRecords (s : State) (c : Nat) (t : Tr) (n : Nat) : List (Nat × Nat) :=
  if t.observed && (ctxOf s c).obs then agentPieces n t.pa n else []

/-- The context that logs accesses of hosts and of other modules to an address: that of an OBSERVED page (R409). -/
def pageLogged (s : State) (pa : Nat) : Option Nat :=
  match aget s.frames (pa / 2 ^ 16) with
  | some f => if f.observed && (ctxOf s f.ctx).obs then some f.ctx else none
  | none => none

/-- Must an agent's accesses wait for room in a book (R410). -/
def bookWaits (s : State) (c : Nat) (l : List (Tr × Nat)) : Bool :=
  (List.range 4).any fun d =>
    bookFull s d ((l.filter fun e => homeDie e.1.pa = d).map fun e => (agentRecords s c e.1 e.2).length).sum

/-- Must an agent's access wait for room in a book. -/
def bookHolds (s : State) (c : Nat) (t : Tr) (n : Nat) : Bool := bookWaits s c [(t, n)]

/-- Records an agent's access (R409). -/
def noteAgent (s : State) (c : Nat) (t : Tr) (size : Nat) (code : AccCode) (agent : Dword) : State :=
  (agentRecords s c t size).foldl (fun s e => bookAccess s c e.1 e.2 code agent) s

/-- Reads n bytes of one page at home for an agent: NCRD (R209). -/
def homeReadNc (s : State) (key pa n : Nat) : State × Got (List Byte) :=
  let s := flushAt s key pa n
  if paKind pa = .hbm then
    let x := driveSpan s key pa n evNcrd 63
    (x.1, if x.2.waits then .waits else if x.2.err then .err else .ok (readRaw x.1 key pa n))
  else (s, .ok (readRaw s key pa n))

/-- Writes bytes of one page at home for an agent: NCWR (R209). -/
def homeWriteNc (s : State) (key pa : Nat) (data : List Byte) : State × Got Unit :=
  let s := flushAt s key pa data.length
  if paKind pa = .hbm then
    let x := driveSpan s key pa data.length evNcwr 63
    if x.2.waits then (x.1, .waits)
    else if x.2.err then (x.1, .err)
    else (writeQuarters x.1 key pa data x.2.moved, .ok ())
  else (writeRaw s key pa data, .ok ())

/-- A read of n bytes in one page by a queue agent (R428, R131, R103): poison ends in ERR_SOURCE, ERR in ERR_PROT
(R211). -/
def engRead (s : State) (q : QRef) (c va n : Nat) (die : Nat) : State × EngVal :=
  let r := engPage s c va false (queuePart s q) die
  match r.2 with
  | .wait => (r.1, .wait)
  | .err e => (r.1, .err e)
  | .ok t =>
    if inError s t.pa n then (findErrors s t.pa n, .err errSource)
    else if bookHolds s c t n then (s, .wait)
    else
      match homeReadNc s t.key t.pa n with
      | (s, .waits) => (s, .wait)
      | (s, .err) => (s, .err errProt)
      | (s, .ok l) => (noteAgent s c t n .read (queueAgent q), .ok l)

/-- One atomic operation of a queue agent on a dword (R104): write, add or or. -/
def engUpdate (s : State) (q : QRef) (c va : Nat) (die op : Nat) (v : Dword) : State × EngVal :=
  let r := engPage s c va true (queuePart s q) die
  match r.2 with
  | .wait => (r.1, .wait)
  | .err e => (r.1, .err e)
  | .ok t =>
    if op ≠ 0 && paKind t.pa ≠ .hbm then (s, .err errTarget)
    else if op ≠ 0 && inError s t.pa 8 then (findErrors s t.pa 8, .err errSource)
    else if bookHolds s c t 8 then (s, .wait)
    else
      match if op = 0 then (s, .ok []) else homeReadNc s t.key t.pa 8 with
      | (s, .waits) => (s, .wait)
      | (s, .err) => (s, .err errProt)
      | (s, .ok old) =>
        let x := ofBytes old
        let new := if op = 0 then v.toNat else if op = 1 then x + v.toNat else x ||| v.toNat
        match homeWriteNc s t.key t.pa (toBytes 8 new) with
        | (s, .waits) => (s, .wait)
        | (s, .err) => (s, .err errProt)
        | (s, .ok ()) => (noteAgent s c t 8 (if op = 0 then .write else .rmw) (queueAgent q), .ok [])

/-! Completions (R101, R102). -/

/-- A completion value (R101). -/
def completionValue (seq status : Nat) : Dword := dw (2 ^ 63 + seq % 2 ^ 32 * 2 ^ 8 + status)

/-- Tries one event write (R102): none when its page has to be waited for. -/
def tryEvent (s : State) (e : EvWrite) : State × Bool :=
  let r := engPage s e.ctx e.addr.toNat true (queuePart s e.queue) (queueDie s e.queue)
  let lost (s : State) : State :=
    { s with log := s.log ++ [.lostEvent e.ctx e.queue e.seq (e.value.toNat % 256)] }
  match r.2 with
  | .wait => (r.1, false)
  | .err _ => (lost r.1, true)
  | .ok t =>
    if inError s t.pa 8 then (lost (findErrors s t.pa 8), true)
    else if bookHolds s e.ctx t 8 then (s, false)
    else
      match homeWriteNc s t.key t.pa (toBytes 8 e.value.toNat) with
      | (s, .waits) => (s, false)
      | (s, .err) => (lost s, true)
      | (s, .ok ()) => (noteAgent s e.ctx t 8 .write (queueAgent e.queue), true)

/-- Writes a completion event, or keeps it until its page is there: events of one queue are written in order. An event
address of 0 writes none. -/
def writeEvent (s : State) (e : EvWrite) : State :=
  if e.addr = 0 then s
  else if s.evq.any fun x => x.queue = e.queue then { s with evq := s.evq ++ [e] }
  else
    let r := tryEvent s e
    if r.2 then r.1 else { r.1 with evq := r.1.evq ++ [e] }

/-- Retries the events that wait, in order (R102). -/
def retryEvents (s : State) : State :=
  s.evq.foldl (fun s e => writeEvent s e) { s with evq := [] }

/-- A completion reaches the register that pushed its record (R109, R171); the completions of an ended group are
discarded. -/
def deliverNow (s : State) (r : QRec) (status : Nat) (extra : Dword) : State :=
  match r.owner with
  | none => s
  | some (k, reg) =>
    { s with groups := amod s.groups k fun g =>
      if g.ended then g
      else
        let g := { g with qregs := amod g.qregs reg fun x =>
          { x with done := x.done ++ [{ value := completionValue r.seq status, extra := extra, copy := r.copy, batch := r.batch }] } }
        if !r.copy then g
        else
          match r.batch with
          | none => { g with openRecs := g.openRecs - 1, openFailed := g.openFailed || status != 0 }
          | some n => { g with batches := g.batches.map fun b =>
              if b.num = n then { b with left := b.left - 1, failed := b.failed || status != 0 } else b } }

/-- A completion is delivered at once, or once its context is resident again (R92). -/
def deliverDone (s : State) (c : Nat) (r : QRec) (status : Nat) (extra : Dword) : State :=
  if r.owner.isSome && (ctxOf s c).st ≠ .resident then { s with lateDone := s.lateDone ++ [⟨c, r, status, extra⟩] }
  else deliverNow s r status extra

/-- Delivers the completions held for contexts that are resident (R92). -/
def deliverLate (s : State) : State :=
  let now (x : LateDone) : Bool := (ctxOf s x.ctx).st == .resident
  (s.lateDone.filter now).foldl (fun s x => deliverNow s x.done x.status x.extra)
    { s with lateDone := s.lateDone.filter fun x => !now x }

/-- A launch record that ends without becoming a launch is a producer that has completed with a nonzero status (R125,
R132). -/
def producerGone (s : State) (q : QRef) (seq : Nat) : State :=
  { s with launches := s.launches.map fun e =>
      if e.2.queuedProd.contains (q, seq) then
        (e.1, { e.2 with queuedProd := e.2.queuedProd.filter (· != (q, seq)), depFailed := true })
      else e }

/-- TYPE of a record (R100). -/
def recType (r : QRec) : Nat := (dwd r.dw 0).toNat % 256

/-- Completes a record that has left its queue: its event, or its register (R101). DESIGN CHOICE (log 78): the event
of a record that is ill-formed for its EVENT itself cannot be written, and is logged as R102 says of such events. -/
def completeRec (s : State) (q : QRef) (r : QRec) (status : Nat) (extra : Dword) : State :=
  if r.fence.isSome then s
  else
    let s := deliverDone s (queueCtx s q) r status extra
    let s := { s with ctxs := amod s.ctxs (queueCtx s q) fun x => { x with idleSince := s.clock } }
    match q with
    | .host _ _ =>
      let s := if recType r = 1 then producerGone s q r.seq else s
      -- an EVENT that breaks R100 cannot be written (R102)
      let ev := dwd r.dw 7
      if bits ev 63 56 ≠ 0 || ev.toNat % 8 ≠ 0 then
        { s with log := s.log ++ [.lostEvent (queueCtx s q) q r.seq status] }
      else writeEvent s ⟨queueCtx s q, q, r.seq, ev, completionValue r.seq status⟩
    | .ep _ _ => s

/-- Halts an endpoint queue (R109): every record behind completes ERR_ABORTED to its own register, and the registers
bound to it become HALTED, each until its own next QBIND (the manual does not say whether a QBIND by one clears the halt of
all: DESIGN CHOICE; log 73). -/
def haltEndpoint (s : State) (c slot : Nat) : State :=
  let q := QRef.ep c slot
  let l := queueRecs s q
  let s := setRecs s q []
  let s := l.foldl (fun s r => completeRec s q r errAborted 0) s
  { s with groups := s.groups.map fun e =>
      match aget s.blocks e.2.blk with
      | some b =>
        if b.ctx = c then
          (e.1, { e.2 with qregs := e.2.qregs.map fun x => if x.2.slot = slot then (x.1, { x.2 with halted := true }) else x })
        else e
      | none => e }

/-- Halts a work queue (R107); a system queue never halts. -/
def haltQueue (s : State) (q : QRef) : State :=
  match q with
  | .host p n =>
    if isSystem s q then s else { s with queues := amod s.queues (p * 8192 + n) fun x => { x with halted := true } }
  | .ep c slot => haltEndpoint s c slot

/-- Frees a queue whose destruction waited for its last record, and clears a reset that did (R107). The waiting record
is completed by the caller of `kick`. -/
def headDone (s : State) (q : QRef) : State :=
  setRecs s q (queueRecs s q).tail

/-- Completes the record at the head of a queue (R101, R110). -/
def finishHead (s : State) (q : QRef) (status : Nat) (extra : Dword) : State :=
  match queueRecs s q with
  | [] => s
  | r :: _ => completeRec (headDone s q) q r status extra

/-- Completes the head as ill-formed (R107, R109): a queue other than a system queue halts. -/
def finishIll (s : State) (q : QRef) (status : Nat) : State := haltQueue (finishHead s q status 0) q

/-- Have the launches that have left a queue completed. -/
def launchesDone (s : State) (q : QRef) : Bool := !(s.launches.any fun e => e.2.queue == q && !e.2.detached)

/-- May a queue perform the record at its head: no fence stands there (R111), and the record has started already (R90),
or the queue is open, its context resident with no block being pre-empted (R90, R107), and the launches ahead of it complete
unless it is a launch itself (R110). -/
def startable (s : State) (q : QRef) : Bool :=
  match queueRecs s q with
  | [] => false
  | r :: _ =>
    r.fence.isNone && (r.started.isSome || (!queueHalted s q && (ctxOf s (queueCtx s q)).st == .resident
      && !(s.blocks.any fun e => e.2.ctx == queueCtx s q && e.2.pre.isSome)
      && (recType r = 1 || launchesDone s q)))

/-- Marks the head as started, and the context as served. -/
def startHead (s : State) (q : QRef) : State :=
  match queueRecs s q with
  | [] => s
  | r :: l =>
    if r.started.isSome then s
    else
      let s := setRecs s q ({ r with started := some s.clock } :: l)
      { s with ctxs := amod s.ctxs (queueCtx s q) fun x => { x with served := s.clock } }

/-- Is EVENT well-formed (R100). -/
def eventOk (r : QRec) : Bool := bits (dwd r.dw 7) 63 56 == 0 && (dwd r.dw 7).toNat % 8 == 0

/-- Engine kinds that accept a TYPE (R331, R382). -/
def kindAccepts (kind ty : Nat) : Bool :=
  ty == 2 || ty == 3 || (kind == 0 && (ty == 0x10 || ty == 0x13 || ty == 0x14))
    || (kind == 1 && (ty == 0x11 || ty == 0x12)) || (kind == 3 && ty == 0x15)

/-- Does a queue accept a record of a TYPE (R96, R216, R234, R402). -/
def queueAccepts (s : State) (q : QRef) (ty : Nat) : Bool :=
  match q with
  | .ep c slot => kindAccepts (((aget s.eps (c * 64 + slot)).map EpQ.kind).getD 0) ty
  | .host _ _ =>
    (1 ≤ ty && ty ≤ 4) || (isSystem s q &&
      ((0x20 ≤ ty && ty ≤ 0x26) || (0x30 ≤ ty && ty ≤ 0x32) || (0x40 ≤ ty && ty ≤ 0x42) || (0x50 ≤ ty && ty ≤ 0x54)
        || (0x60 ≤ ty && ty ≤ 0x63)))

/-- Rejects the head of a queue when its TYPE is reserved or not accepted there (R100, R107). -/
def rejectHead (s : State) (q : QRef) : State :=
  match queueRecs s q with
  | [] => s
  | r :: _ => if startable s q && r.started.isNone && !queueAccepts s q (recType r) then finishIll s q errIll else s

/-! Fences (R111). -/

/-- Removes a fence that stands at the head of every queue it was placed in. -/
def passFences (s : State) : State :=
  let heads := s.eps.filterMap fun e => e.2.recs.head?.bind QRec.fence
  let ready := heads.filter fun f => s.eps.all fun e =>
    !(e.2.recs.any fun r => r.fence == some f) || (e.2.recs.head?.bind QRec.fence) == some f
  { s with eps := s.eps.map fun e =>
      match e.2.recs with
      | r :: l => if r.fence.any ready.contains then (e.1, { e.2 with recs := l }) else e
      | [] => e }

/-! Bindings (R108). -/

/-- Ends a binding: an endpoint queue ends with its last (R108). A slot number of 64 or above stands for no binding: that
of a register whose bind was refused. Where records are still queued then, the endpoint with its KIND and SEQ lives until
they are done, and a bind of another KIND is refused meanwhile: the manual does not say what becomes of them (DESIGN CHOICE;
log 73). -/
def unbind (s : State) (c slot : Nat) : State :=
  if 64 ≤ slot then s
  else match aget s.eps (c * 64 + slot) with
  | none => s
  | some e =>
    if e.bound ≤ 1 && e.recs.isEmpty then { s with eps := adel s.eps (c * 64 + slot) }
    else { s with eps := aset s.eps (c * 64 + slot) { e with bound := e.bound - 1 } }

/-- Every queue there is. -/
def allQueues (s : State) : List QRef :=
  s.queues.map (fun e => QRef.host (e.1 / 8192) (e.1 % 8192)) ++ s.eps.map fun e => QRef.ep (e.1 / 64) (e.1 % 64)

end Sys2Proof.Machine
end

