-- ==== Sys2Proof/Machine/Life.lean ====
section
/-! DEFINITION. Ends: deferred page work (R233, R236 to R239), regions written back (R231, R232), barriers and the
departure of groups (R162 to R168), retirement of blocks and completion of launches (R128, R131, R132, R395). -/

namespace Sys2Proof.Machine

/-! Page work that a record waits for. -/

/-- Takes the name of a record's queue from every page operation: the record waits for none of them any more. -/
def forgetOps (s : State) (q : QRef) : State :=
  let clear (o : Option QRef) : Option QRef := if o = some q then none else o
  { s with pageOps := s.pageOps.map fun e => (e.1, match e.2 with
      | .migrate d g w r => .migrate d g (clear w) r
      | .deferMigrate d g w r => .deferMigrate d g (clear w) r
      | .deferUnmap o w => .deferUnmap o (clear w)
      | .unmapAfter d g m r o w => .unmapAfter d g (clear m) r o (clear w)
      | .fill src => .fill src
      | .retireMark => .retireMark) }

/-- Page work of the record at the head of a queue has ended (R235, R340): EMIG goes on to its next page, other records
complete with their last; an error ends the record at once. -/
def pageDone (s : State) (who : Option QRef) (status : Nat) : State :=
  match who with
  | none => s
  | some q =>
    match queueRecs s q with
    | [] => s
    | r :: l =>
      if status ≠ 0 then finishHead (forgetOps s q) q status (if recType r = 0x15 then dw r.work else 0)
      else if recType r = 0x15 then setRecs s q ({ r with work := r.work + 1 } :: l)
      else if r.work ≤ 1 then finishHead s q 0 0
      else setRecs s q ({ r with work := r.work - 1 } :: l)

/-- Is any byte of a page in error. -/
def pageInError (s : State) (id : Nat) (large : Bool) : Bool :=
  (cleanPrefix s (id * 2 ^ 16) (spanOf large * 2 ^ 16)) < spanOf large * 2 ^ 16

/-- Finds the errors of a page (R227). -/
def findPageErrors (s : State) (id : Nat) (large : Bool) : State := findErrors s (id * 2 ^ 16) (spanOf large * 2 ^ 16)

/-- What keeps a copy to or from an address of another module or of the host: none, the end of a retraining or of the drain
rounds, or ERR_REMOTE (R336, R373, R375, R377); one that is refused there ends in ERR_PROT (R211, R372). -/
def farStatus (s : State) (p pa : Nat) : EngVal :=
  match wayTo s p pa with
  | .free => .ok []
  | .held => .wait
  | .lost => .err errRemote
  | .abort => .err errProt

/-- farStatus of a copy's target, where 0 stands for none. -/
def outStatus (s : State) (p out : Nat) : EngVal := if out = 0 then .ok [] else farStatus s p out

/-- Unmaps a page (R235): copied out when out is not 0, its frame zeroed and freed. A page that is pinned by now (R238; log
69), a copy that meets an uncorrectable error, or one whose target is out of reach, ends in a status and leaves the page
mapped; none while the way to the target is held. -/
def unmapNow (s : State) (id out : Nat) : State × Option Nat :=
  match aget s.frames id with
  | none => (s, some 3)
  | some f =>
    let keep (s : State) : State :=
      modPage { s with pageOps := adel s.pageOps id } id fun f => if f.st == .deferred then { f with st := f.rest } else f
    if f.pincnt ≠ 0 then (keep s, some 4)
    else if out ≠ 0 && pageInError s id f.large then (keep (findPageErrors s id f.large), some errSource)
    else
      match outStatus s (partOfDie s (id / 2 ^ 21)) out with
      | .ok _ =>
        let n := spanOf f.large * 2 ^ 16
        let s := recallRange (shootdown s id) (id * 2 ^ 16) n
        let s := if out = 0 then s else copyCells (landPosted s out n) f.key (id * 2 ^ 16) 0 out n
        (freePage s id, some 0)
      | .wait => (s, none)
      | .err e => (keep s, some e)

/-- Key of an aperture entry among page operations. -/
def apertOp (k : Nat) : Nat := 2 ^ 23 + k

/-- Unmaps an aperture page (R235), as unmapNow does a page of frames. -/
def unmapAperture (s : State) (k out : Nat) : State × Option Nat :=
  match aget s.aperts k with
  | none => (s, some 3)
  | some a =>
    let src := a.target * 2 ^ 24
    match if out = 0 then .ok [] else
        (match farStatus s (apertPart s k) src with
         | .ok _ => farStatus s (apertPart s k) out
         | x => x) with
    | .ok _ =>
      if apertHeld s k then (s, none)
      else
        let s := shootAperture { s with pageOps := adel s.pageOps (apertOp k) } k
        let s := if out = 0 then s else copyCells (landPosted (landPosted s src (2 ^ 24)) out (2 ^ 24)) 0 src 0 out (2 ^ 24)
        let s := linkOut s a.ctx a.vpn (apertLink k)
        ({ s with aperts := adel s.aperts k }, some 0)
    | .wait => (s, none)
    | .err e => ({ s with pageOps := adel s.pageOps (apertOp k) }, some e)

/-- Retires frames after their page has left them. -/
def retireAfter (s : State) (l : List Nat) : State :=
  l.foldl (fun s id => if frameFree s id then retireFrame s id else s) s

/-- The PERM and ATTR that a PAGE_ATTR record at the head of its queue gives a page (R234, R235). -/
def QRec.attrs (r : QRec) (f : Frame) : Frame :=
  let d := dwd r.dw 0
  { f with perm := bits d 24 22, reduce := bit d 25, accum := bit d 26, observed := bit d 27 }

/-- A granule change takes its other attributes with its new frame: one that fails changes nothing (R235, R237). -/
def attrsAfter (s : State) (id : Nat) : Option QRef → State
  | none => s
  | some q =>
    match queueRecs s q with
    | [] => s
    | r :: _ => if recType r = 0x52 then modPage s id r.attrs else s

/-- The destination frame of a migration (R236, R340): of the stacks of the die that is named, else under R230 as seen
from the page's own die. -/
def moveFrame (s : State) (id : Nat) (die : Option Nat) (large : Bool) : Option Nat :=
  let home := id / 2 ^ 21
  let p := partOfDie s home
  match die with
  | some d => if partOfDie s d = p then (stackOrder s d).findSome? (stackFrame s large) else none
  | none => takeFrame s p none home large

/-- Begins a migration whose checks have passed (R236), or ends its asker in ERR_NOFRAME. -/
def beginMove (s : State) (id gran : Nat) (die : Option Nat) (who : Option QRef) (retire : List Nat) : State :=
  match aget s.frames id with
  | none => pageDone s who 3
  | some f =>
    match moveFrame s id die f.large with
    | none => pageDone s who errNoFrame
    | some dst => startMove s id dst gran who retire

/-- The end of an unmap that its record has waited for: none where it waits on. -/
def unmapDone (r : State × Option Nat) (who : Option QRef) : State :=
  match r.2 with
  | some n => pageDone r.1 who n
  | none => r.1

/-- RCNT of a page has fallen to 0: its pending operation is performed (R233, R239); a page that has been pinned since is
not moved (R238; log 69). -/
def rcntZero (s : State) (id : Nat) : State :=
  match aget s.pageOps id, aget s.frames id with
  | some (.deferUnmap out who), some _ => unmapDone (unmapNow s id out) who
  | some (.deferMigrate die gran who retire), some f =>
    let s := modPage { s with pageOps := adel s.pageOps id } id fun f => { f with st := f.rest }
    if f.pincnt ≠ 0 then pageDone (markRetire s retire) who 4
    else beginMove s id gran die who retire
  | _, _ => s

/-- Changes RCNT of a page. -/
def dropRcnt (s : State) (id : Nat) : State :=
  match aget s.frames id with
  | none => s
  | some f =>
    let s := modPage s id fun f => { f with rcnt := f.rcnt - 1 }
    if f.rcnt = 1 then rcntZero s id else s

/-- The frames of a range that take no more writes. -/
def failedFrames (s : State) (dst n : Nat) : List Nat := ((List.range n).map (dst + ·)).filter s.failing.contains

/-- The end of a migration's copy (R236, R237). -/
def endMove (s : State) (id : Nat) (res : MigEnd) : State :=
  let after (s : State) (dst gran : Nat) (who : Option QRef) (retire : List Nat) : State × Nat :=
    let back (s : State) : State := modPage { s with pageOps := adel s.pageOps id } id fun f => { f with st := f.rest }
    match res with
    | .ok =>
      if ((aget s.frames id).map Frame.pincnt).getD 0 ≠ 0 then (pageDone (markRetire (back s) retire) who 4, id)
      else (pageDone (retireAfter (attrsAfter (finishMove s id dst gran) dst who) retire) who 0, dst)
    | .sourceError =>
      let s := back s
      let large := ((aget s.frames id).map Frame.large).getD false
      let s := if pageInError s id large then
          modPage (findPageErrors s id large) id Frame.poison
        else poisonGranule s (id * 2 ^ 16)
      (pageDone s who errSource, id)
    | .destError =>
      let l := failedFrames s dst (((aget s.frames id).map fun f => spanOf f.large).getD 1)
      (pageDone (retireFrames (back s) (if l.isEmpty then [dst] else l)) who errDest, id)
  match aget s.pageOps id with
  | some (.migrate dst gran who retire) => (after s dst gran who retire).1
  | some (.unmapAfter dst gran mover retire out who) =>
    let r := after { s with pageOps := aset s.pageOps id (.migrate dst gran mover retire) } dst gran mover retire
    unmapDone (unmapNow { r.1 with pageOps := aset r.1.pageOps r.2 (.deferUnmap out who) } r.2 out) who
  | _ => s

/-- A page with RCNT > 0 is DEFERRED (R233); a POISONED one stays so (R227). -/
def deferPage (s : State) (id : Nat) : State := modPage s id fun f => { f with st := if f.bad then f.st else .deferred }

/-- Adds frames to those that a move of their page, pending or in progress, retires: none where there is no such move. -/
def addRetire (s : State) (id : Nat) (l : List Nat) : Option State :=
  let put (o : PageOp) : Option State := some { s with pageOps := aset s.pageOps id o }
  match aget s.pageOps id with
  | some (.migrate d g w r) => put (.migrate d g w (r ++ l))
  | some (.deferMigrate d g w r) => put (.deferMigrate d g w (r ++ l))
  | some (.unmapAfter d g m r o w) => put (.unmapAfter d g m (r ++ l) o w)
  | _ => none

/-- A page whose last pin has gone starts the retirement that waited for it (R235, R238). -/
def unpinned (s : State) (id : Nat) : State :=
  match aget s.frames id with
  | none => s
  | some f =>
    if f.pincnt ≠ 0 then s
    else
      match markedFrames s id (spanOf f.large) with
      | [] => s
      | l =>
        match aget s.pageOps id with
        | some (.deferUnmap _ _) => s
        | some _ => (addRetire (unmark s l) id l).getD s
        | none =>
          let s := unmark s l
          if f.rcnt ≠ 0 then deferPage { s with pageOps := aset s.pageOps id (.deferMigrate none f.gran none l) } id
          else beginMove s id f.gran none none l

/-! Scratchpad regions (R231, R232). -/

/-- The pages of a region's global range, by VA. -/
def regionPages (va : Nat) (len : Nat) : List Nat :=
  (List.range ((va + len * 512 + 65535) / 65536 - va / 65536)).map fun i => (va / 65536 + i) * 65536

/-- The pages of a region, by their first frame or by their aperture entry. -/
def regionEntries (s : State) (c : Nat) (r : Region) (aper : Bool) : List Nat :=
  ((regionPages r.va.toNat r.len).filterMap fun va =>
    match walk s c va with
    | some t => if t.aper == aper then some t.entry else none
    | none => none).eraseDups

/-- Does an open region map an aperture entry: its page cannot leave (R232), though the entry has no RCNT (log 70). -/
def apertInUse (s : State) (k : Nat) : Bool :=
  s.blocks.any fun e => e.2.regions.any fun r => (regionEntries s e.2.ctx r.2 true).contains k

/-- An unmap of an aperture page that waited for its regions is performed with the last of them (R232, R233). -/
def apertFree (s : State) (k : Nat) : State :=
  match aget s.pageOps (apertOp k) with
  | some (.deferUnmap out who) => if apertInUse s k then s else unmapDone (unmapAperture s k out) who
  | _ => s

/-- The pages of a region that has closed are left (R232, R233). -/
def leaveRegion (s : State) (frames aperts : List Nat) : State := aperts.foldl apertFree (frames.foldl dropRcnt s)

/-- The dirty bytes of a region, by scratchpad offset. -/
def dirtyBytes (b : Block) (r : Region) : List Nat :=
  (b.marks.filter fun m => r.sp * 512 ≤ m.1 && m.1 < (r.sp + r.len) * 512 && m.2.getLsbD 1).map Prod.fst

/-- A span of virtual addresses cut at page boundaries: address, offset in the span and length. -/
def pieces (va n : Nat) : List (Nat × Nat × Nat) :=
  (List.range ((va + n + 65535) / 65536 - va / 65536)).map fun i =>
    let lo := max va ((va / 65536 + i) * 65536)
    let hi := min (va + n) ((va / 65536 + i + 1) * 65536)
    (lo, lo - va, hi - lo)

/-- The runs of dirty bytes of a region: the scratchpad offset and the length of each. -/
def dirtyRuns (b : Block) (r : Region) : List (Nat × Nat) :=
  (dirtyBytes b r).foldr (fun m l => match l with
    | (a, n) :: t => if a = m + 1 then (m, n + 1) :: t else (m, 1) :: l
    | [] => [(m, 1)]) []

/-- The stores that a region's write-back makes: each run of dirty bytes in a page, with its translation and address. -/
def backStores (s : State) (b : Block) (r : Region) : List (Tr × Nat × List Byte) :=
  (dirtyRuns b r).flatMap fun x =>
    (pieces (r.va.toNat + (x.1 - r.sp * 512)) x.2).filterMap fun p => (walk s b.ctx p.1).map fun t =>
      (t, p.1, (List.range p.2.2).map fun i => agetD b.spad (x.1 + p.2.1 + i) 0)

/-- The accesses that a store of a run is recorded as where its page is OBSERVED: aligned pieces of at most 128 bytes (log
20); a contribution is performed elsewhere (R381). -/
def backPieces (x : Tr × Nat × List Byte) : List (Tr × Nat) :=
  if x.1.reduce then []
  else (agentPieces x.2.2.length x.1.pa x.2.2.length).map fun p => ({ x.1 with pa := p.1 }, p.2)

/-- The terms that a run makes of a REDUCE page, where its stores are contributions (R381): the elements, or the cells, that
it covers whole or meets (log 72). -/
def contributeRun (s : State) (gk c va : Nat) (t : Tr) (data : List Byte) : State :=
  let w := if t.accum then 128 else ((collAt s c va).map fun e => codeBytes e.2.fmt).getD 1
  if t.accum then ((List.range ((va + data.length + 127) / 128 - va / 128)).map fun i => (va / 128 + i) * 128).foldl
    (fun s v => contributeStore s gk c v t (data.take 1)) s
  else
    let lo := (va + w - 1) / w * w
    contributeStore s gk c lo t ((data.drop (lo - va)).take ((va + data.length) / w * w - lo))

/-- One store of a write-back (R190, R381). -/
def backStore (s : State) (b : Block) (gk : Nat) (x : Tr × Nat × List Byte) : State :=
  if x.1.reduce then contributeRun s gk b.ctx x.2.1 x.1 x.2.2 else (coreStore s b.core gk x.1.key x.1.pa x.2.2).1

/-- Has some book no room for the records of the write-backs of a block's regions, by a group (R410). -/
def backShort (s : State) (b : Block) (gk : Nat) : Bool :=
  match aget s.groups gk with
  | none => false
  | some g =>
    let stores := b.regions.flatMap fun r => backStores s b r.2
    let l := (stores.flatMap backPieces).filter fun p => logsAccess s b g p.1
    (List.range 4).any fun d => bookFull s d (l.filter fun p => homeDie p.1.pa = d).length

/-- The requests that the stores of a write-back make. -/
def askBack (s : State) (b : Block) (l : List (Tr × Nat × List Byte)) : State × AMap Asked :=
  askQuarters s b.core .store ((l.filter fun x => !x.1.reduce).map fun x => (x.1.key, x.1.pa, x.2.2.length))

/-- Must the write-backs of a block's regions wait, for a book or at a quarter (R204, R410). -/
def backWaits (s : State) (b : Block) (gk : Nat) : Bool :=
  backShort s b gk || askWaits (askBack s b (b.regions.flatMap fun r => backStores s b r.2)).2

/-- Writes the dirty bytes of a region back (R232): stores at home (R190), as writes of a group's lane, recorded where their
page is OBSERVED unless they met ERR (R211, R409). -/
def writeBack (s : State) (k gk lane : Nat) (r : Region) : State :=
  match aget s.blocks k with
  | none => s
  | some b =>
    let s := (backStores s b r).foldl (fun s x =>
      let s' := backStore s b gk x
      if s'.cohErrs == s.cohErrs then (backPieces x).foldl (fun s p => noteAccess s gk b lane p.1 p.2 .write) s' else s') s
    setBlock s k { b with marks := b.marks.map fun m =>
      if r.sp * 512 ≤ m.1 && m.1 < (r.sp + r.len) * 512 then (m.1, 1) else m }

/-- Writes a region back and closes it (R232). The manual does not say which group issues the stores when a block exits
or is saved (R190): lane 0 of its group 0 does (log 20). -/
def closeRegion (s : State) (k slot : Nat) : State :=
  match aget s.blocks k with
  | none => s
  | some b =>
    match aget b.regions slot with
    | none => s
    | some r =>
      let s := writeBack s k (k * 32) 0 r
      leaveRegion { s with blocks := amod s.blocks k fun b =>
        { b with regions := adel b.regions slot,
                 marks := b.marks.filter fun m => !(r.sp * 512 ≤ m.1 && m.1 < (r.sp + r.len) * 512) } }
        (regionEntries s b.ctx r false) (regionEntries s b.ctx r true)

/-! Barriers (R162 to R168). -/

/-- A named barrier's launch state (R162). -/
def Bar.fresh (groups : Nat) : Bar := { mask := BitVec.ofNat 128 (2 ^ groups - 1) }

/-- The live groups of a block: bits rank × 32 + group with rank 0. -/
def liveBlock (s : State) (k : Nat) : BitVec 128 :=
  (groupsOf s k).foldl (fun m e => if e.2.ended then m else m ||| (1#128 <<< e.2.idx)) 0

/-- The live groups of a cluster (R168). -/
def liveCluster (s : State) (c : Nat) : BitVec 128 :=
  (s.blocks.filter fun e => e.2.clu == c).foldl (fun m e => m ||| (liveBlock s e.1 <<< (32 * e.2.rank))) 0

/-- Do the arrivals cover the live members of an open phase (R164, R167): at an arrival, or when members have left
(R169). -/
def Bar.covered (b : Bar) (live gone : BitVec 128) : Bool :=
  (b.arr != 0 || b.mask &&& gone != 0) && (b.mask &&& live &&& ~~~b.arr) == 0

/-- Complete(B) (R164). -/
def Bar.complete (b : Bar) : Bar :=
  { b with lst := if b.abnd then b.lst &&& ~~~b.arr else b.lst ||| b.arr, arr := 0, abnd := false, phase := b.phase + 1 }

/-- The arrival of a member (R164). -/
def Bar.arrive (b : Bar) (m : Nat) : Bar :=
  { b with arr := b.arr ||| (1#128 <<< m), lph := asetD b.lph m b.phase 0, seen := b.seen ||| (1#128 <<< m) }

/-- Has the phase of a member's last arrival completed. -/
def Bar.done (b : Bar) (m : Nat) : Bool := agetD b.lph m 0 != b.phase || !(b.arr.getLsbD m)

/-- URG of the groups concerned is reset (R154). -/
def resetUrg (s : State) (p : Group → Bool) : State :=
  { s with groups := s.groups.map fun e => if p e.2 then (e.1, { e.2 with urg := 0 }) else e }

/-- A named barrier of a block. -/
def namedBar (b : Block) (id : Nat) : Bar := agetD b.bars id (Bar.fresh b.groups)
/-- Sets a named barrier. -/
def setNamed (s : State) (k id : Nat) (x : Bar) : State :=
  { s with blocks := amod s.blocks k fun b => { b with bars := aset b.bars id x } }
/-- A cluster barrier's launch state: every group of every block (R168). -/
def clusterFresh (s : State) (c : Nat) : Bar :=
  { mask := (s.blocks.filter fun e => e.2.clu == c).foldl (fun m e =>
      m ||| (BitVec.ofNat 128 (2 ^ e.2.groups - 1) <<< (32 * e.2.rank))) 0 }
/-- A cluster barrier. -/
def clusterBar (s : State) (c id : Nat) : Bar :=
  match aget s.clusters c with
  | some x => agetD x.bars id (clusterFresh s c)
  | none => clusterFresh s c
/-- Sets a cluster barrier. -/
def setClusterBar (s : State) (c id : Nat) (x : Bar) : State :=
  { s with clusters := amod s.clusters c fun y => { y with bars := aset y.bars id x } }

/-- Completes a named barrier whose arrivals cover its live members; `gone` are members that have just left. -/
def settleNamed (s : State) (k id : Nat) (gone : BitVec 128) : State :=
  match aget s.blocks k with
  | none => s
  | some b =>
    let x := namedBar b id
    if x.covered (liveBlock s k) gone then resetUrg (setNamed s k id x.complete) fun g => g.blk == k else s

/-- Completes a cluster barrier whose arrivals cover its live members. -/
def settleCluster (s : State) (c id : Nat) (gone : BitVec 128) : State :=
  let x := clusterBar s c id
  if x.covered (liveCluster s c) gone then
    resetUrg (setClusterBar s c id x.complete) fun g => ((aget s.blocks g.blk).map Block.clu) == some c
  else s

/-- A group that has ended leaves every live set (R167); a halt sets ABND on each barrier. -/
def departBars (s : State) (k : Nat) (halt : Bool) : State :=
  match aget s.groups k with
  | none => s
  | some g =>
    match aget s.blocks g.blk with
    | none => s
    | some b =>
      let s := (List.range b.barsN).foldl (fun s id =>
        let x := (aget s.blocks g.blk).map fun b => namedBar b id
        let s := match x with
          | some x => if halt then setNamed s g.blk id { x with abnd := true } else s
          | none => s
        settleNamed s g.blk id (1#128 <<< g.idx)) s
      (List.range 8).foldl (fun s id =>
        let s := if halt then setClusterBar s b.clu id { clusterBar s b.clu id with abnd := true } else s
        settleCluster s b.clu id (1#128 <<< (b.rank * 32 + g.idx))) s

/-! Launches (R131, R132). -/

/-- Blocks of a launch that have been placed. -/
def Launch.placed (l : Launch) : Nat := min l.total (l.nextClu * ((l.hdr.map Header.csize).getD 1))

/-- The status of a launch that reaches DONE from RUNNING (R132). -/
def Launch.status (l : Launch) : Nat :=
  if l.early && l.depFailed then 0x05 else if l.noCluster then 0x03 else if l.halted then 0x04 else 0

/-- Is a running launch ready to complete (R131). -/
def Launch.over (l : Launch) : Bool := l.st == .running && l.retired == l.placed && l.producers.isEmpty

/-- Is a store of a launch's blocks on its way to another module where traffic is held (R375, R377): the completion, which
follows every store, waits (R132, R191). -/
def storesHeld (s : State) (k : Nat) : Bool :=
  s.posted.any fun w => w.launch == k && !w.data.isEmpty && wayTo s w.part w.pa = .held

/-- Ends a launch with a status: its event is written, and those it produces for learn of it (R125, R132). -/
def dropLaunch (s : State) (k : Nat) (l : Launch) (status : Nat) (write : Bool) : State :=
  let s := { s with launches := (adel s.launches k).map fun e =>
    if e.2.producers.contains k then
      (e.1, { e.2 with producers := e.2.producers.filter (· != k), depFailed := e.2.depFailed || status != 0 })
    else e }
  let s := if write then writeEvent s ⟨l.ctx, l.queue, l.seq, l.event, completionValue l.seq status⟩ else s
  { s with ctxs := amod s.ctxs l.ctx fun x => { x with idleSince := s.clock } }

/-- Completes every launch that is ready, one at a time, once its stores have been performed (R131, R132, R191). -/
def completeLaunches : Nat → State → State
  | 0, s => s
  | n + 1, s =>
    match s.launches.find? fun e => e.2.over && !storesHeld s e.1 with
    | some (k, l) => completeLaunches n (dropLaunch (landWrites s fun w => w.launch == k) k l l.status true)
    | none => s

/-- Completes the launches that are ready. -/
def settleLaunches (s : State) : State := completeLaunches s.launches.length s

/-! Blocks that end without retiring (R93, R396, R398, R399). -/

/-- Closes a region without writing it back. -/
def dropRegion (s : State) (k slot : Nat) : State :=
  match aget s.blocks k with
  | none => s
  | some b =>
    match aget b.regions slot with
    | none => s
    | some r =>
      leaveRegion { s with blocks := amod s.blocks k fun b => { b with regions := adel b.regions slot } }
        (regionEntries s b.ctx r false) (regionEntries s b.ctx r true)

/-- Ends a group's bindings (R108). -/
def unbindAll (s : State) (ctx : Nat) (g : Group) : State := g.qregs.foldl (fun s e => unbind s ctx e.2.slot) s

/-- Ends a block with no save and no retirement: its groups stop, what they have executed stands. -/
def discardBlock (s : State) (k : Nat) : State :=
  match aget s.blocks k with
  | none => s
  | some b =>
    let s := flushUpd s fun u => u.grp / 32 == k
    let s := (groupsOf s k).foldl (fun s e => unbindAll s b.ctx e.2) s
    let s := (List.range 8).foldl (fun s i => dropRegion s k i) s
    let s := { s with blocks := adel s.blocks k, groups := s.groups.filter fun e => !(e.2.blk == k),
                      latches := s.latches.filter fun l => !(l.blk == k) }
    if s.blocks.any fun e => e.2.clu == b.clu then s else { s with clusters := adel s.clusters b.clu }

/-- Ends a launch with ERR_ABORTED (R93, R131, R399), its event written or not. -/
def abortLaunch (s : State) (k : Nat) (write : Bool) : State :=
  match aget s.launches k with
  | none => s
  | some l =>
    let s := (s.blocks.filter fun e => e.2.launch == k).foldl (fun s e => discardBlock s e.1) s
    let s := if write then s else { s with log := s.log ++ [.aborted l.ctx l.seq] }
    let s := if l.st == .waiting then setRecs s l.queue ((queueRecs s l.queue).filter fun r => r.seq != l.seq) else s
    dropLaunch s k l errAborted write

/-! Health (R399, R400). -/

/-- Logical cores of a die retired in the field (R17, R399). -/
def lostCores (s : State) (die : Nat) : Nat :=
  let unbound (l : List Byte) : Nat := (l.filter (· == 255)).length
  unbound ((s.ltp.drop (36 * die)).take 36) - unbound (bindDie (agetD s.fuse die 0).toNat die)

/-- Frames of a stack that have been retired. -/
def lostFrames (s : State) (stack : Nat) : Nat := (s.retiredFrames.filter fun f => f / 2 ^ 20 = stack).length

/-- UALink ports that are ISOLATED. -/
def lostPorts (s : State) : Nat := (s.uports.filter fun p => p.st == .isolated).length

/-- Warm resets of the last n ns. -/
def warmWithin (s : State) (n : Nat) : Nat := (s.warmAt.filter fun t => s.era + s.clock ≤ t + nsClocks n).length

/-- 24 h in ns. -/
abbrev dayNs : Nat := 86400000000000
/-- 1 h in ns. -/
abbrev hourNs : Nat := 3600000000000

/-- How severe a health state is, as HEALTH_QUERY numbers it (R402). -/
def Health.code : Health → Nat
  | .nominal => 0 | .degraded => 1 | .replaceAdvised => 2 | .failed => 3

/-- The state the conditions of R399 call for. -/
def healthNow (s : State) : Health :=
  if ((List.range 4).any fun d => 19 ≤ lostCores s d) || 3 ≤ warmWithin s hourNs || s.unusable ≠ 0 || s.postFailed then .failed
  else if ((List.range 4).any fun d => 4 ≤ lostCores s d) || ((List.range 8).any fun k => 1024 ≤ lostFrames s k)
      || 4 ≤ lostPorts s || 2 ≤ warmWithin s dayNs
      || 9 * (160 + 8 * 8192) ≤ 10 * (s.retired.length + s.retiredFrames.length) then .replaceAdvised
  else if ((List.range 4).any fun d => 1 ≤ lostCores s d) || ((List.range 8).any fun k => 64 ≤ lostFrames s k)
      || 1 ≤ lostPorts s then .degraded
  else .nominal

/-- HEALTH_TRANSITION (R399): the state moves only toward FAILED; in FAILED every launch of a context other than 0 ends
in ERR_ABORTED. -/
def settleHealth (s : State) : State :=
  if Health.code (healthNow s) ≤ Health.code s.health then s
  else
    let s := { s with health := healthNow s, log := s.log ++ [.health (healthNow s)] }
    if s.health == .failed then
      ((s.launches.filter fun e => e.2.ctx != 0).map Prod.fst).foldl (fun s k => abortLaunch s k true) s
    else s

/-! Cores (R16, R17, R129, R130). -/

/-- Does a core hold a block. -/
def coreBusy (s : State) (core : Nat) : Bool := s.blocks.any fun e => e.2.core == core && e.2.st == .placed

/-- The bound cores of a bay, by logical number, with it. -/
def bayCores (s : State) (die bay : Nat) : List (Nat × Nat) :=
  (List.range 144).filterMap fun n =>
    match coreOfLog s n with
    | some c => if c / 40 = die && c % 40 / 4 = bay then some (n, c) else none
    | none => none

/-- The (die, bay) pairs of a partition, in the order of R123. -/
def baysOf (s : State) (p : Nat) : List (Nat × Nat) :=
  (diesOf s p).flatMap fun d => (List.range 10).map fun b => (d, b)

/-- Has some bay of the partition n logical cores. -/
def hasBay (s : State) (p n : Nat) : Bool := (baysOf s p).any fun x => n ≤ (bayCores s x.1 x.2).length

/-- After a retirement, launches that no bay can serve place no further block (R130). -/
def noteNoCluster (s : State) : State :=
  { s with launches := s.launches.map fun e =>
      if e.2.st == .placing && !hasBay s (queuePart s e.2.queue) ((e.2.hdr.map Header.csize).getD 1) then
        (e.1, { e.2 with noCluster := true, st := .running })
      else e }

/-- CORE_RETIREMENT (R16 to R18, R129): with what health and the launches in PLACING make of it. -/
def retireCore (s : State) (core : Nat) : State :=
  settleHealth (settleLaunches (noteNoCluster (retireCoreMap { s with draining := s.draining.filter (· != core) } core)))

/-- Retires every drained core that holds no block any more (R129). -/
def settleCores (s : State) : State :=
  (s.draining.filter fun c => !coreBusy s c).foldl retireCore s

/-- Drains a core, which is retired once its blocks retire (R129). -/
def drainCore (s : State) (core : Nat) : State :=
  if s.retired.contains core || s.draining.contains core then s
  else settleCores { s with draining := s.draining ++ [core] }

/-- Counts a SIGNATURE mismatch or an uncorrectable SRAM error of a core: the second within 24 h drains it (R400).
The maps hold the clock of the last. -/
def countCoreErr (m : AMap Nat) (s : State) (core : Nat) : AMap Nat × State :=
  (aset m core s.clock, match aget m core with
    | some t => if s.clock ≤ t + nsClocks dayNs then drainCore s core else s
    | none => s)

/-- A SIGNATURE mismatch on a core. -/
def countSig (s : State) (core : Nat) : State :=
  let r := countCoreErr s.sigErrs s core
  { r.2 with sigErrs := r.1 }

/-- An uncorrectable error of an on-chip memory consumed on a core. -/
def countSram (s : State) (core : Nat) : State :=
  let r := countCoreErr s.sramErrs s core
  { r.2 with sramErrs := r.1 }

/-- Retires a frame as FRAME_RETIRE does (R400): at once where it is free, with the page's move, or marked until that can
be. -/
def retireSoon (s : State) (id : Nat) : State :=
  if reservedFrame id then s
  else
    match aget s.frames id with
    | none => if frameFree s id then retireFrame s id else s
    | some f =>
      let base := pageBase s id
      if f.st == .retired then s
      else if f.pincnt ≠ 0 || f.st == .requested then markRetire s [id]
      else
        match addRetire s base [id] with
        | some s => s
        | none =>
          if ahas s.pageOps base || (moveFrame s base none f.large).isNone then markRetire s [id]
          else if f.rcnt ≠ 0 then deferPage { s with pageOps := aset s.pageOps base (.deferMigrate none f.gran none [id]) } base
          else beginMove s base f.gran none none [id]

/-- The clocks of a unit's corrected errors of the last 24 h, with one more now. -/
def withError (s : State) (l : List Nat) : List Nat := (l.filter fun t => s.clock ≤ t + nsClocks dayNs) ++ [s.clock]

/-- Is a line dirty in an L2: a quarter's owner holds it dirty, or the L2 of its home die does, which is a free choice (log
29). -/
def lineDirty (s : State) (key pa : Nat) : Bool :=
  ((quarters (pa / 128 * 128) 128).any fun q => (dirAt s key q).dirty) || Config.freeDirty s.freeCtr

/-- What a report of ECC comes to (R397, R400): 256 corrected errors of a core within 24 h drain it, and 16 of a frame
retire it; a line of a cache in error is written back poisoned when it is dirty, else discarded and counted. -/
def eccReport (s : State) : EccReport → State
  | .core c =>
    let l := withError s (agetD s.softErrs c [])
    let s := { s with softErrs := aset s.softErrs c l }
    if 256 ≤ l.length then drainCore s c else s
  | .frame id =>
    let l := withError s (agetD s.frameErrs id [])
    let s := { s with frameErrs := aset s.frameErrs id l }
    if 16 ≤ l.length then retireSoon s id else s
  | .line key pa =>
    let dirty := lineDirty s key pa
    let s := { s with freeCtr := s.freeCtr + 1 }
    if paKind pa ≠ .hbm then s
    else if dirty then (quarters (pa / 128 * 128) 128).foldl poisonGranule s
    else { s with lineErrs := aset s.lineErrs (homeDie pa) (agetD s.lineErrs (homeDie pa) 0 + 1) }

/-- Acts on what ECC has reported since the last step. -/
def settleEcc (s : State) : State := s.ecc.foldl eccReport { s with ecc := [] }

/-! Retirement (R128, R129). -/

/-- Retires a block (R128): regions written back and closed, resources freed, its launch counted. -/
def retireBlock (s : State) (k : Nat) : State :=
  match aget s.blocks k with
  | none => s
  | some b =>
    let s := (List.range 8).foldl (fun s i => closeRegion s k i) s
    let s := { s with blocks := adel s.blocks k, groups := s.groups.filter fun e => !(e.2.blk == k),
                      latches := s.latches.filter fun l => !(l.blk == k),
                      launches := amod s.launches b.launch fun l => { l with retired := l.retired + 1 } }
    let s := if s.blocks.any fun e => e.2.clu == b.clu then s else { s with clusters := adel s.clusters b.clu }
    settleCores (settleLaunches s)

/-- May a block whose groups have ended retire: its updates have merged, which traffic that is held delays (R375, R377), and
its write-backs need not wait (R204, R410). -/
def mayRetire (s : State) (k : Nat) (b : Block) : Bool :=
  (groupsOf s k).all (fun e => e.2.ended) && !(s.upd.any fun u => u.grp / 32 == k) && !backWaits s b (k * 32)

/-- Retires a block every group of which has ended. -/
def settleBlock (s : State) (k : Nat) : State :=
  match aget s.blocks k with
  | some b => if mayRetire s k b then retireBlock s k else s
  | none => s

/-! The end of a group (R159, R272, R395). -/

/-- A group leaves the latch it waits at (R365). -/
def leaveLatch (s : State) (k : Nat) : State :=
  { s with latches := (s.latches.map fun l => { l with members := l.members.filter fun m => m.2 != k }).filter fun l =>
      !l.members.isEmpty }

/-- Ends a group that has been drained, or whose results are discarded, as EXITED or HALTED: buffered updates merge, its
bindings end, it leaves every live set, and its block retires with it when it is the last. -/
def endGroup (s : State) (k : Nat) (halt : Bool) : State :=
  match aget s.groups k with
  | none => s
  | some g =>
    match aget s.blocks g.blk with
    | none => s
    | some b =>
      let s := flushUpd s fun u => u.grp == k
      let s := unbindAll s b.ctx g
      let g' := { g with st := if halt then .halted else .exited, pend := [], qregs := [], wings := [], wait := none,
                         nopre := none, region := none, stalled := false }
      let g' := if halt then g' else
        { g' with stack := [], lc0 := g.lc0.ended, lc1 := g.lc1.ended, lc2 := g.lc2.ended }
      let s := leaveLatch (setGroup s k g') k
      let s := if halt then { s with launches := amod s.launches b.launch fun l => { l with halted := true } } else s
      settleBlock (departBars s k halt) g.blk

/-- A contained halt (R395): the trap registers are written already. -/
def haltGroup (s : State) (k : Nat) : State :=
  match aget s.groups k with
  | none => s
  | some g =>
    match aget s.blocks g.blk with
    | none => s
    | some b =>
      let seq := ((aget s.launches b.launch).map Launch.seq).getD 0
      endGroup { s with log := s.log ++ [.halt b.ctx seq b.id g.idx b.core g.trapCause g.trapPc g.trapVal] } k true

/-- Drains a group's pending results (R150). -/
def drainGroup (s : State) (k : Nat) (f : GLas → GLas) : State :=
  match aget s.groups k with
  | none => s
  | some g =>
    match aget s.blocks g.blk with
    | none => s
    | some b =>
      let r := f (g, b.las)
      setBlock (setGroup s k r.1) g.blk { b with las := r.2 }

/-- SIGEN of a group's kernel (R116). -/
def sigenOf (s : State) (b : Block) : Bool := (headerOf s b.launch).sigen

/-- A trap of a group at an instruction boundary (R393 to R396, R275): trap entry, or a contained halt. pc is what
TRAPPC takes. -/
def raiseAt (s : State) (k : Nat) (t : Trap) (v pc : Dword) : State :=
  match aget s.groups k with
  | none => s
  | some g =>
    match aget s.blocks g.blk with
    | none => s
    | some b =>
      let handler := (ctxOf s b.ctx).handler
      let s := leaveLatch (setGroup s k (g.setTrap t v pc)) k
      if t.halts || g.inh || handler = 0 then
        let s := haltGroup s k
        if t = .signature then countSig s b.core else s
      else
        let s := drainGroup s k drainTrap
        { s with groups := amod s.groups k fun g =>
            { g.trapEntry handler (sigenOf s b) with lastIssue := s.clock, lost := g.lost || t == .clusterLost } }

/-- A fault of an instruction of a group, which counts toward the span it stands in (R142) and toward every promise
(R150). -/
def raiseFault (s : State) (k : Nat) (t : Trap) (v pc : Dword) : State :=
  raiseAt { s with groups := amod s.groups k fun g => (g.countSpan g.grem).countPromises } k t v pc

end Sys2Proof.Machine
end

