-- ==== Sys2Proof/Machine/Save.lean ====
section
/-! DEFINITION. Pre-emption, the save slot and its layout, restore (R77, R88 to R92, R231, R367, R390). -/

namespace Sys2Proof.Machine

/-! Register images. -/

/-- RSDEPTH (R143). -/
def rsdepthReg (g : Group) : Dword :=
  dw (g.gmask.toNat * 2 ^ 32 + g.gheld * 2 ^ 22 + g.grem * 2 ^ 17 + b2n g.inh * 2 ^ 6 + g.stack.length)

/-- LC0 to LC2 (R153). -/
def lcReg (c : LoopCtr) : Dword := dw (b2n c.active * 2 ^ 63 + c.count.toNat)

/-- The two dwords of a stack entry (R139). -/
def rsDwords (e : RsEntry) : List Dword :=
  [dw (b2n e.path * 2 ^ 63 + bits e.fmt 35 32 * 2 ^ 56 + bits e.pc 55 0),
   dw (e.mask.toNat * 2 ^ 32 + bits e.fmt 31 0)]

/-- The bits of a value that a program counter holds: 56 bits, the low two zero (R218, R242). -/
def pcBits (v : Dword) : Dword := dw (bits v 55 2 * 4)

/-- The bits of a value that FMT holds: its Zero fields stay zero (R5, R259). -/
def fmtBits (v : Dword) : Dword := dw (bits v 35 32 * 2 ^ 32 + bits v 29 0)

/-- The stack entry of two dwords (R139): Zero fields stay zero (R5). -/
def rsOf (a b : Dword) : RsEntry :=
  { path := bit a 63, fmt := fmtBits (dw (bits a 59 56 * 2 ^ 32 + bits b 31 0)), pc := pcBits a,
    mask := BitVec.ofNat 32 (bits b 63 32) }

/-- KIND codes (R89). -/
def SaveKind.code : SaveKind → Nat
  | .routine => 0 | .dump => 1 | .restart => 2

/-- n zero dwords. -/
def zeros (n : Nat) : List Dword := List.replicate n 0

/-- The group header (R89), 1,024 bytes; pc is where the group resumes. -/
def groupHeader (g : Group) (kind : SaveKind) (pc : Dword) : List Byte :=
  let stack := g.stack.reverse.flatMap rsDwords
  bytesOf ([pc, dw (g.exec.toNat + g.lmem.toNat * 2 ^ 32), g.fmt, dw g.wbase, dw g.awbase, rsdepthReg g,
      lcReg g.lc0, lcReg g.lc1, lcReg g.lc2, dw g.fpxNV.toNat, dw g.fpxDZ.toNat, dw g.fpxOF.toNat,
      dw g.fpxUF.toNat, dw g.fpxNX.toNat, dw g.sig.toNat, dw g.trapCause.toNat, g.trapPc, g.trapVal,
      dw (SaveKind.code kind * 2 ^ 16 + (if kind == .routine then g.cueId.toNat else 0)), dw g.ghold.toNat]
    ++ zeros 12 ++ (List.range 16).map g.readSn ++ stack ++ zeros (64 - stack.length)
    ++ [g.lc0, g.lc1, g.lc2].flatMap (fun c =>
        if c.active then [c.start, dw (c.len - 1 + 256)] else [0, 0])
    ++ zeros 10)

/-- The loop counter a header gives: the order in which loops started is kept by the device. -/
def loopOf (old : LoopCtr) (reg start nest : Dword) : LoopCtr :=
  { old with active := bit reg 63, count := BitVec.ofNat 32 (bits reg 31 0), start := pcBits start,
             len := if bit reg 63 then bits nest 7 0 + 1 else 0 }

/-- A group with every register of a header of 128 dwords (R89, R91): the Zero fields of registers stay zero, whatever
software has written into the slot (R5). An INH that the device does not know the cause of is a handler's. -/
def loadHeader (g : Group) (h : List Dword) : Group :=
  let x (i : Nat) : Dword := dwd h i
  let m (i : Nat) : Mask := BitVec.ofNat 32 (bits (x i) 31 0)
  { g with
    pc := pcBits (x 0), exec := m 1, lmem := BitVec.ofNat 32 (bits (x 1) 63 32), fmt := fmtBits (x 2), wbase := bits (x 3) 9 0,
    awbase := bits (x 4) 8 0,
    gmask := BitVec.ofNat 32 (bits (x 5) 63 32), gheld := bits (x 5) 26 22, grem := bits (x 5) 21 17,
    inh := bit (x 5) 6,
    routine := if bit (x 5) 6 then (if g.routine = .none then .handler else g.routine) else .none,
    stack := ((List.range (bits (x 5) 5 0)).map fun i => rsOf (x (48 + 2 * i)) (x (49 + 2 * i))).reverse,
    lc0 := loopOf g.lc0 (x 6) (x 112) (x 113), lc1 := loopOf g.lc1 (x 7) (x 114) (x 115),
    lc2 := loopOf g.lc2 (x 8) (x 116) (x 117),
    fpxNV := m 9, fpxDZ := m 10, fpxOF := m 11, fpxUF := m 12, fpxNX := m 13,
    sig := BitVec.ofNat 17 (x 14).toNat, trapCause := BitVec.ofNat 8 (x 15).toNat, trapPc := pcBits (x 16), trapVal := x 17,
    ghold := m 19,
    sregs := (List.range 16).foldl (fun r i => asetD r i (x (32 + i)) 0) [] }

/-- The bits of a value that GANG holds (R363). -/
def gangBits (v : Dword) : Dword := dw (bits v 12 8 * 2 ^ 8 + bits v 5 0)

/-! The slot (R88). -/

/-- Bytes of a group's area. -/
def areaBytes (b : Block) : Nat := 1024 + b.vregs * 32 * 256 + 512
/-- Offset of a group's area. -/
def areaAt (b : Block) (idx : Nat) : Nat := 256 + idx * areaBytes b
/-- Offset of the scratchpad part. -/
def spadAt (b : Block) : Nat := areaAt b b.groups
/-- Offset of the LA images. -/
def imagesAt (b : Block) : Nat := spadAt b + b.spadKB * 1024
/-- Size of a slot, in 4 KiB units. -/
def slotUnits (b : Block) : Nat := (imagesAt b + b.lapl * 4096 + 4095) / 4096

/-- The lowest place of n units clear of those used (log 17). -/
def carve (used : List (Nat × Nat)) (limit n : Nat) : Option Nat :=
  let cands := sortBy (fun x y => x ≤ y) (0 :: used.map fun u => u.1 + u.2)
  cands.find? fun a => a + n ≤ limit && used.all fun u => a + n ≤ u.1 || u.1 + u.2 ≤ a

/-- Gives every block of a list a save slot, keeping those it has (R77); none where the save area cannot hold them. -/
def assignSlots (s : State) (c : Nat) (l : List Nat) : Option State :=
  l.foldl (fun o k =>
    match o with
    | none => none
    | some s =>
      match aget s.blocks k with
      | none => some s
      | some b =>
        if b.saveAt.isSome then some s
        else
          let used := s.blocks.filterMap fun e => if e.2.ctx = c then e.2.saveAt else none
          (carve used ((ctxOf s c).savePages * 16) (slotUnits b)).map fun a =>
            setBlock s k { b with saveAt := some (a, slotUnits b) }) (some s)

/-- Blocks of a context, by key. -/
def blocksOf (s : State) (c : Nat) : List Nat := (s.blocks.filter fun e => e.2.ctx == c).map Prod.fst

/-- Virtual address of a block's slot. -/
def slotVa (s : State) (b : Block) : Nat :=
  (ctxOf s b.ctx).saveBase.toNat + (b.saveAt.getD (0, 0)).1 * 4096

/-- The partition of a block's core. -/
def blockPart (s : State) (b : Block) : Nat := partOfDie s (b.core / 40)

/-- The pieces of a span of a block's save area that lie in one page each, with their translations: the pages are pinned
(R84). -/
def slotPieces (s : State) (b : Block) (va n : Nat) : List (Tr × Nat × Nat) :=
  (pieces va n).filterMap fun p => (walk s b.ctx p.1).map fun t => (t, p.2)

/-- Does the other partition hold a page, to which no link carries data (R21). -/
def cutOff (s : State) (b : Block) (t : Tr) : Bool := wayTo s (blockPart s b) t.pa != .free

/-- Writes bytes to a block's save area at home; what no link carries is not stored (log 80). -/
def putVa (s : State) (b : Block) (va : Nat) (data : List Byte) : State :=
  (slotPieces s b va data.length).foldl (fun s p =>
    let l := (data.drop p.2.1).take p.2.2
    if cutOff s b p.1 then s
    else
      match homeWriteNc s p.1.key p.1.pa l with
      | (s, .waits) => homeWrite s p.1.key p.1.pa l
      | (s, _) => s) s

/-- Writes zeros over a span of a block's save area. -/
def zeroVa (s : State) (b : Block) (va n : Nat) : State :=
  (slotPieces s b va n).foldl (fun s p =>
    let pa := p.1.pa
    if cutOff s b p.1 then s
    else
      let s := recallRange s pa p.2.2
      let s := { s with bad := s.bad.filter fun e => !(pa ≤ e.1 && e.1 + e.2 ≤ pa + p.2.2) }
      copyCells s p.1.key (2 ^ 51) p.1.key pa p.2.2) s

/-- Reads bytes of a block's save area at home. -/
def getVa (s : State) (b : Block) (va n : Nat) : List Byte :=
  (slotPieces s b va n).flatMap fun p =>
    if cutOff s b p.1 then (List.range p.2.2).map fun i => Config.freeLost (p.1.pa + i) else readRaw s p.1.key p.1.pa p.2.2

/-- Reads one dword of a block's save area. -/
def getDw (s : State) (b : Block) (va : Nat) : Dword := dwordAt (getVa s b va 8) 0

/-- A word that is saved although it holds an error is poison in its slot (R227, R397; log 81). -/
def poisonVa (s : State) (b : Block) (va : Nat) : State :=
  (slotPieces s b va 1).foldl (fun s p => if cutOff s b p.1 || paKind p.1.pa ≠ .hbm then s else poisonGranule s p.1.pa) s

/-- Finds the errors in a span of a block's save area (R227). -/
def findVa (s : State) (b : Block) (va n : Nat) : State :=
  (slotPieces s b va n).foldl (fun s p => if cutOff s b p.1 then s else findErrors s p.1.pa p.2.2) s

/-- Does a span of a block's save area lie in a granule in error: what is restored from it holds the error again (R397; log
81). -/
def badVa (s : State) (b : Block) (va n : Nat) : Bool :=
  (slotPieces s b va n).any fun p => !cutOff s b p.1 && inError s p.1.pa p.2.2

/-! Saving a group (R90). -/

/-- Writes the part of a group that the hardware saves for every KIND: header, GANG and MDATA (R88, R367). -/
def saveHeader (s : State) (b : Block) (g : Group) (kind : SaveKind) (pc : Dword) : State :=
  let at_ := slotVa s b + areaAt b g.idx
  let s := putVa s b at_ (groupHeader g kind pc)
  let s := (g.regBad.filter fun n => 2 ^ 16 ≤ n && n < 2 ^ 17).foldl (fun s n => poisonVa s b (at_ + 256 + 8 * (n - 2 ^ 16))) s
  putVa s b (at_ + areaBytes b - 32) (bytesOf [g.gang, g.mdata, 0, 0])

/-- Writes the vector registers and predicates of a group. -/
def saveBody (s : State) (b : Block) (g : Group) : State :=
  let at_ := slotVa s b + areaAt b g.idx + 1024
  let pr := at_ + b.vregs * 32 * 256
  let s := zeroVa s b at_ (b.vregs * 32 * 256)
  let s := g.vregs.foldl (fun s e =>
    if e.1 / 32 < 32 * b.vregs then putVa s b (at_ + e.1 * 8) (toBytes 8 e.2.toNat) else s) s
  let s := zeroVa s b pr 480
  let s := g.preds.foldl (fun s e => if e.1 < 480 then putVa s b (pr + e.1) [e.2] else s) s
  g.regBad.foldl (fun s n =>
    if n < 1024 * b.vregs then poisonVa s b (at_ + 8 * n)
    else if 2 ^ 17 ≤ n && n < 2 ^ 17 + 480 then poisonVa s b (pr + (n - 2 ^ 17))
    else s) s

/-- What stays of a group that is saved: what the slot holds is gone from the core. A barrier arrival that has been made
stands (R173); an instruction that waited is executed again. -/
def Group.vacate (g : Group) (kind : SaveKind) : Group :=
  { g.noteSync with st := .saved, kind := kind, sregs := [], vregs := [], preds := [], regBad := [], wings := [],
                    wingBad := [], staging := false, region := none, stalled := false, held := none, fenceAt := none, wait := none }

/-- Has a block's cluster been aborted (R129). -/
def clusterAborted (s : State) (b : Block) : Bool := (aget s.clusters b.clu).any Cluster.aborted

/-- A group of an aborted cluster is never saved: where it would be, it halts with CLUSTER_LOST (R396). -/
def haltLost (s : State) (k : Nat) (g : Group) (v : Dword) : State := haltGroup (setGroup s k (g.setTrap .clusterLost v g.pc)) k

/-- Saves a group whole with KIND 1 or 2 (R90); KIND 2 takes PC, EXEC, FMT and RSDEPTH as latched at the region's
entry. -/
def dumpGroup (s : State) (k : Nat) (kind : SaveKind) : State :=
  let s := leaveLatch (drainGroup s k drainAll) k
  match aget s.groups k with
  | none => s
  | some g =>
    match aget s.blocks g.blk with
    | none => s
    | some b =>
      if clusterAborted s b then haltLost s k g g.trapVal else
      let g := match kind, g.region with
        | .restart, some r =>
          { g.noteSync with
            wait := none, pc := r.pc, exec := r.exec, fmt := r.fmt, stack := r.stack, gmask := r.gmask, grem := r.grem,
            gheld := r.gheld, ghold := r.ghold, inh := r.inh, routine := r.routine }
        | _, _ => g
      let s := saveBody (saveHeader s b g kind g.pc) b g
      setGroup s k (g.vacate kind)

/-- Is a group in its save or restore routine. -/
def Group.inRoutine (g : Group) : Bool :=
  match g.routine with
  | .save _ | .restore => true
  | _ => false

/-- The state of a group that is not BLOCKED: its routine's, or RUNNING. -/
def Group.awake (g : Group) : GState :=
  match g.routine with
  | .save _ => .saving
  | .restore => .restoring
  | _ => .running

/-- QPUSH, ECMD and LAUNCH (R90, R109, R278). -/
def isSubmission : Instr → Bool
  | .qpush .. | .ecpy .. | .egath .. | .escat .. | .ercpy .. | .efill .. | .emig .. | .launch .. => true
  | _ => false

/-- Takes a group at once where its position allows (R90): inside an idempotent region, BLOCKED, or stalled at a
submission. A group in a NOPRE window is not taken, nor one that waits in a fence, before that completes (R182). -/
def takeGroup (s : State) (k : Nat) : State :=
  match aget s.groups k with
  | none => s
  | some g =>
    if g.nopre.isSome || g.fenceAt.isSome || g.inRoutine || !(g.st == .running || g.st == .blocked) then s
    else if g.region.isSome then dumpGroup s k .restart
    else if g.st == .blocked || g.held.any isSubmission then dumpGroup s k .dump
    else s

/-- Does a pre-emption wait for a group's block. -/
def preemptPending (s : State) (g : Group) : Bool :=
  match aget s.blocks g.blk with
  | some b => b.pre.isSome
  | none => false

/-- PREEMPTION_REQUEST (R90) of one block that has a save slot. -/
def preemptBlock (s : State) (k : Nat) : State :=
  match aget s.blocks k with
  | none => s
  | some b =>
    if b.pre.isSome || b.st == .saved || b.saveAt.isNone then s
    else
      let s := setBlock s k { b with pre := some s.clock }
      (groupsOf s k).foldl (fun s e => takeGroup s e.1) s

/-! Saving a block (R77, R88, R90, R92). -/

/-- The region slots of a block header (R231). -/
def regionDwords (b : Block) : List Dword :=
  (List.range 8).flatMap fun i =>
    match aget b.regions i with
    | some r => [r.va, dw (2 ^ 63 + b2n r.wr * 2 ^ 62 + r.len * 2 ^ 20 + r.sp)]
    | none => [0, 0]

/-- Saves one LA (R77): an LA not in use writes its status word, one that is clean and whose image the slot holds
writes nothing. -/
def saveLa (s : State) (b : Block) (key : Nat) : State :=
  let a := agetD b.las key LA.zero
  let at_ := slotVa s b + imagesAt b + key * 128
  if !a.inUse then putVa s b (at_ + 80) (toBytes 8 0)
  else if a.dirty || !b.everSaved then
    let s := putVa s b at_ ({ a with dirty := false } : LA).image
    if a.bad then poisonVa s b at_ else s
  else s

/-- The round timer stops (R390). -/
def Rounds.stop (r : Rounds) (now : Nat) : Rounds :=
  match r.due with
  | some t => { r with due := none, left := t - now + 1 }
  | none => r

/-- The round timer goes on where nothing holds it: `left` is the clocks that remain, plus 1. -/
def Rounds.resume (r : Rounds) (now : Nat) : Rounds :=
  if r.left = 0 || r.selfSuspended || !r.suspended.isEmpty then r else { r with due := some (now + (r.left - 1)), left := 0 }

/-- Has this rank a part in a round of an entry that is open or closing (R87): it has contributed or closed. -/
def Rounds.busy (r : Rounds) : Bool := r.completed < r.closed || !r.openC.isEmpty

/-- Sends SUSPEND or RESUME for every entry of a context in force (R390): a round that only others have contributed to yet is
open as well, and a rank does not see that (log 84). -/
def suspendRounds (s : State) (c : Nat) (on : Bool) : State :=
  (ctxOf s c).colls.foldl (fun s e =>
    let r := roundsOf s c e.1
    if (on && !r.selfSuspended) || (!on && r.selfSuspended) then
      let others := (List.range e.2.nrank).filter (· != e.2.myRank)
      let r := if on then { r.stop s.clock with selfSuspended := true, suspAt := s.clock }
        else ({ r with selfSuspended := false } : Rounds).resume s.clock
      let s := setRounds s c e.1 r
      { s with collOut := s.collOut ++ others.map fun k => if on then .suspend c e.1 (r.completed + 1) k else .resume c e.1 k }
    else s) s

/-- Context SAVING with its last block saved (R84): DEFINED, held when it was suspended. -/
def contextSaved (s : State) (c : Nat) : State :=
  let x := ctxOf s c
  if x.st == .saving && s.blocks.all fun e => e.2.ctx != c || e.2.st == .saved then
    { s with ctxs := amod s.ctxs c fun x => { x with st := .defined, held := x.held || x.why == .suspend, why := .none } }
  else s

/-- Is every group of a block saved or ended. -/
def blockQuiet (s : State) (k : Nat) : Bool := (groupsOf s k).all fun e => e.2.ended || e.2.st == .saved

/-- BLOCK_SAVE: LAs, regions written back, scratchpad and block header (R77, R90 step 4); the core is free. -/
def saveBlock (s : State) (k : Nat) : State :=
  match aget s.blocks k with
  | none => s
  | some b =>
    let s := b.regions.foldl (fun s e => writeBack s k (k * 32) 0 e.2) s
    let at_ := slotVa s b
    let s := putVa s b at_ (bytesOf (regionDwords b)
      ++ (List.range 128).map fun i => Config.freePrivate (s.freeCtr * 128 + i))
    let s := { s with freeCtr := s.freeCtr + 1 }
    let s := zeroVa s b (at_ + spadAt b) (b.spadKB * 1024)
    let s := b.spad.foldl (fun s e => putVa s b (at_ + spadAt b + e.1) [e.2]) s
    let s := b.spadBad.foldl (fun s e =>
      (List.range e.2).foldl (fun s i => poisonVa s b (at_ + spadAt b + e.1 + i)) s) s
    let s := (List.range (32 * b.lapl)).foldl (fun s i => saveLa s b i) s
    let s := { s with blocks := amod s.blocks k fun b =>
      { b with st := .saved, pre := none, spad := [], spadBad := [], everSaved := true,
               las := b.las.map fun (e : Nat × LA) => (e.1, { e.2 with dirty := false }) } }
    let s := { s with launches := amod s.launches b.launch fun l => { l with waitSince := s.clock } }
    settleCores (contextSaved (suspendRounds s b.ctx true) b.ctx)

/-! Restoring (R91, R77). -/

/-- An LA at restore (R77). -/
def restoreLa (s : State) (b : Block) (key : Nat) : LA :=
  let at_ := slotVa s b + imagesAt b + key * 128
  let im := getVa s b at_ 128
  let a := if ((im[80]?).getD 0).getLsbD 0 then
      if imageOk im then { loadImage im with dirty := false } else loadImage im
    else LA.zero
  if badVa s b at_ 128 then { a with bad := true } else a

/-- The keys of words of n bytes each, in a part of the slot, that lie in granules in error. -/
def badWords (s : State) (b : Block) (at_ n count : Nat) : List Nat :=
  if badVa s b at_ (n * count) then (List.range count).filter fun i => badVa s b (at_ + n * i) n else []

/-- Restores a group (R91): KIND 0 enters its restore routine with the span held as the header says, KIND 1 and 2 resume
at the saved PC. -/
def restoreGroup (s : State) (b : Block) (g : Group) : Group :=
  if g.st != .saved then g
  else
    let at_ := slotVa s b + areaAt b g.idx
    let h := (List.range 128).map fun i => getDw s b (at_ + 8 * i)
    let g := loadHeader g h
    let pr := at_ + areaBytes b - 512
    let g := { g with gang := gangBits (getDw s b (pr + 480)), mdata := getDw s b (pr + 488), st := .running,
                      lastIssue := s.clock }
    let sig := sigenOf s b
    match g.kind with
    | .routine =>
      { g with st := .restoring, pc := g.restorePc, sregs := asetD (asetD [] 0 (dw (slotVa s b)) 0) 1 (dw g.cueId.toNat) 0,
               vregs := [], preds := [], inh := true, routine := .restore }
    | kind =>
      let vs := getVa s b (at_ + 1024) (b.vregs * 32 * 256)
      let ps := getVa s b pr 480
      { g with
        regBad := badWords s b (at_ + 1024) 8 (b.vregs * 1024) ++ (badWords s b (at_ + 256) 8 16).map (2 ^ 16 + ·)
          ++ (badWords s b pr 1 480).map (2 ^ 17 + ·),
        sig := if kind == .restart && sig then 0x10000 else g.sig,
        vregs := (List.range (b.vregs * 32 * 32)).foldl (fun m i =>
          let x := dwordAt vs i
          if x = 0 then m else m ++ [(i, x)]) [],
        preds := (List.range 480).foldl (fun m i =>
          let x := (ps[i]?).getD 0
          if x = 0 then m else m ++ [(i, x)]) [] }

/-- Restores a block that has been given a core: region map, scratchpad, LAs and groups (R91). -/
def restoreBlock (s : State) (k : Nat) : State :=
  match aget s.blocks k with
  | none => s
  | some b =>
    let at_ := slotVa s b
    let s := findVa s b at_ (slotUnits b * 4096)
    let sp := getVa s b (at_ + spadAt b) (b.spadKB * 1024)
    let spad := (sp.foldl (fun (m : AMap Byte × Nat) x => (if x = 0 then m.1 else m.1 ++ [(m.2, x)], m.2 + 1)) ([], 0)).1
    let las := (List.range (32 * b.lapl)).foldl (fun m i =>
      let a := restoreLa s b i
      if a = LA.zero then m else m ++ [(i, a)]) []
    let s := { s with groups := s.groups.map fun e => if e.2.blk == k then (e.1, restoreGroup s b e.2) else e }
    let s := setBlock s k { b with st := .placed, pre := none, spad := spad, las := las,
                                   spadBad := (badWords s b (at_ + spadAt b) 8 (b.spadKB * 128)).map fun i => (8 * i, 8) }
    if s.blocks.any fun e => e.2.ctx == b.ctx && e.2.st == .saved then s else suspendRounds s b.ctx false

end Sys2Proof.Machine
end

