-- ==== Sys2Proof/Machine/Place.lean ====
section
/-! DEFINITION. Placement of clusters (R122 to R127, R130, R326, R409 to R411). -/

namespace Sys2Proof.Machine

/-! Room on a core (R123). -/

/-- What the blocks of a core hold: groups in each quadrant, register units, LAs, scratchpad KiB, named barriers and
block slots. -/
structure CoreUse where
  quads : List Nat
  regs : Nat
  las : Nat
  spad : Nat
  bars : Nat
  slots : Nat
deriving DecidableEq, Repr

/-- An empty core. -/
def CoreUse.empty : CoreUse := ⟨[0, 0, 0, 0], 0, 0, 0, 0, 0⟩

/-- The quadrant with the most free group slots, ties to the lowest (R122). -/
def CoreUse.q0 (u : CoreUse) : Nat :=
  (List.range 4).foldl (fun b q => if (u.quads[q]?).getD 0 < (u.quads[b]?).getD 0 then q else b) 0

/-- A core with one block more. -/
def CoreUse.add (u : CoreUse) (h : Header) : CoreUse :=
  { quads := (List.range 4).map fun q =>
      (u.quads[q]?).getD 0 + ((List.range h.groups).filter fun g => (u.q0 + g) % 4 = q).length,
    regs := u.regs + h.groups * h.vregs, las := u.las + 32 * h.lapl, spad := u.spad + h.spadKB, bars := u.bars + h.bars,
    slots := u.slots + 1 }

/-- Is a use within a core's resources (R123). -/
def CoreUse.fits (u : CoreUse) : Bool :=
  u.quads.all (· ≤ 16) && u.regs ≤ 128 && u.las ≤ 8192 && u.spad ≤ 384 && u.bars ≤ 64 && u.slots ≤ 16

/-- What a placed block holds, with the quadrants its groups stand in. -/
def CoreUse.hold (s : State) (u : CoreUse) (k : Nat) (b : Block) : CoreUse :=
  { quads := (List.range 4).map fun q =>
      (u.quads[q]?).getD 0 + ((groupsOf s k).filter fun g => g.2.quad = q).length,
    regs := u.regs + b.groups * b.vregs, las := u.las + 32 * b.lapl, spad := u.spad + b.spadKB, bars := u.bars + b.barsN,
    slots := u.slots + 1 }

/-- What the blocks of a core hold that p chooses. -/
def coreUse (s : State) (core : Nat) (p : Block → Bool) : CoreUse :=
  (s.blocks.filter fun e => e.2.core == core && e.2.st == .placed && p e.2).foldl
    (fun u e => CoreUse.hold s u e.1 e.2) CoreUse.empty

/-- Is a core closed to placement: drained (R129), or being rehearsed (R401). -/
def coreClosed (s : State) (core : Nat) : Bool := s.draining.contains core || ahas s.rehearsing core

/-- Can a core take a block (R123). -/
def coreTakes (s : State) (h : Header) (core : Nat) : Bool :=
  !coreClosed s core && ((coreUse s core fun _ => true).add h).fits

/-- Does one block fit an empty core (R116). -/
def Header.fitsEmpty (h : Header) : Bool := h.groups * h.vregs ≤ 128 && h.lapl * 32 ≤ 8192

/-! Spill bins (R326). -/

/-- Bytes of a block's spill bin. -/
def binBytes (h : Header) : Nat := h.groups * h.vregs * 4096

/-- Spill bins for n blocks of a context on a die, as offsets; none where the pinned lines cannot hold them. Which
place of the lines a bin takes, the lowest that fits, is a DESIGN CHOICE (log 78). -/
def carveBins (s : State) (c die size : Nat) : Nat → List (Nat × Nat) → Option (List Nat)
  | 0, _ => some []
  | n + 1, used =>
    match carve used (((ctxOf s c).pinPages[die]?).getD 0 * 65536) size with
    | none => none
    | some a => (carveBins s c die size n ((a, size) :: used)).map fun l => a :: l

/-- Bins of a context in use on a die. -/
def usedBins (s : State) (c die : Nat) : List (Nat × Nat) :=
  s.blocks.filterMap fun e =>
    if e.2.ctx ≠ c then none
    else
      match e.2.bin with
      | some (d, a) => if d = die then some (a, binBytes (headerOf s e.2.launch)) else none
      | none => none

/-! Launches in order (R113, R124). -/

/-- Class of a launch, within its context's limit. -/
def launchClass (s : State) (l : Launch) : Nat := max l.cls (ctxOf s l.ctx).classMax

/-- Clusters of a launch that are saved whole, lowest number first (R91, R123). -/
def savedClusters (s : State) (k : Nat) : List Nat :=
  (sortBy (fun x y => x.2.num ≤ y.2.num) (s.clusters.filter fun e => e.2.launch == k &&
    (s.blocks.all fun b => b.2.clu != e.1 || b.2.st == .saved))).map Prod.fst

/-- Has a launch new clusters to place. -/
def Launch.hasNew (l : Launch) : Bool := l.st == .placing && l.placed < l.total

/-- Has a launch a cluster that waits to be placed: its context serves work, and it has a saved or an unplaced cluster. -/
def wantsPlace (s : State) (k : Nat) (l : Launch) : Bool :=
  let st := (ctxOf s l.ctx).st
  let saved := !(savedClusters s k).isEmpty
  ((st == .resident && (saved || l.hasNew)) || (st == .loading && saved)) && l.st != .waiting

/-- May a launch have a cluster placed now: nothing of its context is being pre-empted (R90). -/
def mayPlace (s : State) (k : Nat) (l : Launch) : Bool :=
  wantsPlace s k l && !(s.blocks.any fun e => e.2.ctx == l.ctx && e.2.pre.isSome)

/-! The floor (R126, R127). -/

/-- Usable logical cores of a partition. -/
def usableCores (s : State) (p : Nat) : Nat :=
  ((baysOf s p).map fun x => (bayCores s x.1 x.2).length).sum

/-- The producer floor of a launch. -/
def floorOf (s : State) (p : Nat) (l : Launch) : Nat :=
  min (if l.floor = 0 then max 1 (usableCores s p / 4) else l.floor) (usableCores s p)

/-- Unplaced blocks of a producer: one that has noted NOCLUSTER keeps those that will never run (R126, R130). -/
def Launch.unplaced (l : Launch) : Nat := if l.st == .placing || l.noCluster then l.total - l.placed else 0

/-- Cores open to a producer after early blocks of a header go to the cores listed (R126). -/
def openCores (s : State) (p k : Nat) (h : Header) (early : Header) (extra : List Nat) : Nat :=
  ((baysOf s p).map fun x =>
    let n := ((bayCores s x.1 x.2).filter fun c =>
      let u := coreUse s c.2 fun b => b.early && ((aget s.launches b.launch).map fun l => l.producers.contains k).getD false
      let u := if extra.contains c.2 then u.add early else u
      (u.add h).fits).length
    if h.csize = 1 || h.csize ≤ n then n else 0).sum

/-- The check of R126 for early blocks placed on cores. -/
def floorPasses (s : State) (p : Nat) (l : Launch) (h : Header) (cores : List Nat) : Bool :=
  l.producers.all fun k =>
    match aget s.launches k with
    | none => true
    | some x => x.unplaced = 0 || min x.unplaced (floorOf s p l)
        ≤ openCores s p k (headerOf s k) h cores

/-! One placement (R122, R123). -/

/-- A placement found: bay pair, physical cores by rank with their logical numbers, spill bins. -/
structure Spot where
  die : Nat
  bay : Nat
  cores : List (Nat × Nat)
  bins : List Nat
deriving DecidableEq, Repr

/-- Where the blocks of a cluster of n can go in one bay, rank k to the k-th lowest core that can take one (R123): those of
the ranks listed are placed. The check of R126 is made where `floor` says so. -/
def spotIn (s : State) (p : Nat) (l : Launch) (h : Header) (n : Nat) (ranks : List Nat) (floor : Bool) (x : Nat × Nat) :
    Option Spot :=
  let cs := ((bayCores s x.1 x.2).filter fun c => coreTakes s h c.2).take n
  let m := ranks.length
  if cs.length < n then none
  else if floor && l.early && !floorPasses s p l h (ranks.filterMap fun r => (cs[r]?).map Prod.snd) then none
  else if h.pinned then
    (carveBins s l.ctx x.1 (binBytes h) m (usedBins s l.ctx x.1)).map fun bs => ⟨x.1, x.2, cs, bs⟩
  else some ⟨x.1, x.2, cs, []⟩

/-- The bays of a partition in scan order, after the pair used last (R123). -/
def scanOrder (s : State) (p : Nat) : List (Nat × Nat) :=
  let l := baysOf s p
  match aget s.lastBay p with
  | none => l
  | some k =>
    match l.findIdx? fun x => x.1 * 10 + x.2 = k with
    | some i => l.drop (i + 1) ++ l.take (i + 1)
    | none => l

/-- The first bay that can take n blocks of a launch. -/
def firstSpot (s : State) (p : Nat) (l : Launch) (n : Nat) (floor : Bool) : Option Spot :=
  (scanOrder s p).findSome? fun x =>
    spotIn s p l (headerOf { s with launches := [(0, l)] } 0) n (List.range n) floor x

/-- Has the book of a spot's die room for the PLACE records of m blocks: a placement waits until it has (R410). -/
def Spot.logs (s : State) (l : Launch) (m : Nat) (sp : Spot) : Bool := !((ctxOf s l.ctx).place && bookFull s sp.die m)

/-- Where n blocks of a launch can be placed now. -/
def findSpot (s : State) (p : Nat) (l : Launch) (n : Nat) (floor : Bool) : Option Spot :=
  (firstSpot s p l n floor).filter (Spot.logs s l n)

/-- Group g's quadrant and slot on a core that holds a use, with the slots taken. -/
def groupPlaces (s : State) (core groups : Nat) : List (Nat × Nat) :=
  let q0 := (coreUse s core fun _ => true).q0
  let taken := s.groups.filterMap fun e =>
    match aget s.blocks e.2.blk with
    | some b => if b.core = core && b.st == .placed then some (e.2.quad, e.2.slot) else none
    | none => none
  ((List.range groups).foldl (fun (acc : List (Nat × Nat) × List (Nat × Nat)) g =>
    let q := (q0 + g) % 4
    let sl := ((List.range 16).find? fun i => !acc.2.contains (q, i)).getD 0
    (acc.1 ++ [(q, sl)], (q, sl) :: acc.2)) ([], taken)).1

/-- The lowest block slot of a core that is free: R123 says one of 16, which one is a DESIGN CHOICE (log 78). -/
def blockSlot (s : State) (core : Nat) : Nat :=
  ((List.range 16).find? fun i => !(s.blocks.any fun e => e.2.core == core && e.2.st == .placed && e.2.slot == i)).getD 0

/-- The PLACE record of a block (R408, R409). -/
def notePlace (s : State) (l : Launch) (b : Block) (rst : Bool) : State :=
  if (ctxOf s l.ctx).place then
    let qid := match l.queue with
      | .host _ q => q
      | .ep _ slot => slot
    bookPut s (b.core / 40) 1 l.ctx
      (dw (l.seq % 2 ^ 32 * 2 ^ 32 + qid * 2 ^ 19 + b2n rst * 2 ^ 18 + (ltpByte b.core).toNat * 2 ^ 8 + b.lcore)) (dw b.id)
  else s

/-- A group in its initial state (R122). -/
def newGroup (s : State) (l : Launch) (h : Header) (k id g : Nat) (at_ : Nat × Nat) : Group :=
  { blk := k, idx := g, quad := at_.1, slot := at_.2, pc := h.code, lastIssue := s.clock, acqAt := s.clock,
    sregs := asetD (asetD [] 0 l.args 0) 1 (dw id) 0 }

/-- Places a new block of a cluster on a core: RUNNING groups in their initial state. -/
def newBlock (s : State) (lk : Nat) (l : Launch) (h : Header) (clu rank id lcore core : Nat) (bin : Option (Nat × Nat)) :
    State :=
  let k := s.nextId
  let places := groupPlaces s core h.groups
  let b : Block :=
    { ctx := l.ctx, launch := lk, clu := clu, rank := rank, id := id, x := id % l.gx, y := id / l.gx % l.gy,
      z := id / l.gx / l.gy, core := core, lcore := lcore, slot := blockSlot s core, groups := h.groups, vregs := h.vregs,
      lapl := h.lapl, spadKB := h.spadKB, barsN := h.bars, bin := bin, early := l.early && !l.producers.isEmpty }
  let s := { s with nextId := k + 1, blocks := aset s.blocks k b,
                    groups := (List.range h.groups).foldl (fun m g =>
                      aset m (k * 32 + g) (newGroup s l h k id g ((places[g]?).getD (0, 0)))) s.groups }
  notePlace s l b false

/-- Places the next cluster of a launch in a spot. -/
def placeNew (s : State) (p lk : Nat) (l : Launch) (sp : Spot) : State :=
  let h := headerOf s lk
  let clu := s.nextId
  let s := { s with nextId := clu + 1, lastBay := aset s.lastBay p (sp.die * 10 + sp.bay),
                    clusters := aset s.clusters clu { launch := lk, num := l.nextClu, die := sp.die, bay := sp.bay, size := h.csize } }
  let s := (List.range h.csize).foldl (fun s r =>
    let c := (sp.cores[r]?).getD (0, 0)
    newBlock s lk l h clu r (l.nextClu * h.csize + r) c.1 c.2 ((sp.bins[r]?).map fun a => (sp.die, a))) s
  let s := { s with launches := amod s.launches lk fun l =>
    let l := { l with nextClu := l.nextClu + 1, waitSince := s.clock, starved := false }
    if l.placed = l.total then { l with st := .running } else l }
  s

/-- Copies a spill bin to another die's pinned lines. -/
def moveBin (s : State) (c : Nat) (old new : Nat × Nat) (n : Nat) : State :=
  let src := old.1 * 2 ^ 25 + old.2
  let dst := new.1 * 2 ^ 25 + new.2
  { s with ctxs := amod s.ctxs c fun x =>
      let cells := (x.pins.filter fun e => src ≤ e.1 && e.1 < src + n).map fun e => (dst + (e.1 - src), e.2)
      let kept := x.pins.filter fun e => !(src ≤ e.1 && e.1 < src + n) && !(dst ≤ e.1 && e.1 < dst + n)
      { x with pins := cells.foldl (fun m e => aset m e.1 e.2) kept } }

/-- The blocks of a cluster that have not retired, by rank. -/
def clusterBlocks (s : State) (clu : Nat) : List (Nat × Block) :=
  sortBy (fun x y => x.2.rank ≤ y.2.rank) (s.blocks.filter fun e => e.2.clu == clu)

/-- Restores a saved cluster in a spot (R91): ranks and cluster number unchanged. -/
def placeSaved (s : State) (p lk : Nat) (l : Launch) (clu : Nat) (sp : Spot) : State :=
  let h := headerOf s lk
  let s := { s with lastBay := aset s.lastBay p (sp.die * 10 + sp.bay),
                    clusters := amod s.clusters clu fun x => { x with die := sp.die, bay := sp.bay } }
  let s := { s with launches := amod s.launches lk fun l => { l with waitSince := s.clock, starved := false } }
  let ks := (clusterBlocks s clu).map Prod.fst
  (List.range ks.length).foldl (fun s i =>
    let k := (ks[i]?).getD 0
    match aget s.blocks k with
    | none => s
    | some b =>
      let c := (sp.cores[b.rank]?).getD (0, 0)
      let places := groupPlaces s c.2 b.groups
      let slot := blockSlot s c.2
      let new := (sp.bins[i]?).map fun a => (sp.die, a)
      let s := match b.bin, new with
        | some o, some n => if o.1 = n.1 then s else moveBin s b.ctx o n (binBytes h)
        | _, _ => s
      let bin := match b.bin, new with
        | some o, some n => if o.1 = n.1 then some o else some n
        | o, _ => o
      let b := { b with core := c.2, lcore := c.1, slot := slot, bin := bin }
      let s := setBlock s k b
      let s := { s with groups := s.groups.map fun e =>
        if e.2.blk == k then
          let q := (places[e.2.idx]?).getD (0, 0)
          (e.1, { e.2 with quad := q.1, slot := q.2 })
        else e }
      notePlace (restoreBlock s k) l b true) s

/-- The first bay in which the saved cluster of a launch can be restored: a bin stays where the die does not change. -/
def savedSpot (s : State) (p : Nat) (l : Launch) (clu : Nat) (floor : Bool) : Option Spot :=
  let ranks := (clusterBlocks s clu).map fun e => e.2.rank
  let die := ((aget s.clusters clu).map Cluster.die).getD 0
  let h := headerOf { s with launches := [(0, l)] } 0
  (scanOrder s p).findSome? fun x =>
    spotIn s p l { h with pinned := h.pinned && x.1 != die } h.csize ranks floor x

/-- The bay to which the next cluster of a launch goes, a saved one first (R123). -/
def nextSpot (s : State) (p lk : Nat) (l : Launch) (floor : Bool) : Option Spot :=
  match savedClusters s lk with
  | clu :: _ => savedSpot s p l clu floor
  | [] => if l.hasNew then firstSpot s p l (headerOf s lk).csize floor else none

/-- Where the next cluster of a launch is placed now. -/
def openSpot (s : State) (p lk : Nat) (l : Launch) : Option Spot :=
  match savedClusters s lk with
  | clu :: _ => (savedSpot s p l clu true).filter (Spot.logs s l (clusterBlocks s clu).length)
  | [] => if l.hasNew then findSpot s p l (headerOf s lk).csize true else none

/-- Is it only the check of R126 that keeps the next cluster of a launch from being placed. -/
def floorRefused (s : State) (lk : Nat) (l : Launch) : Bool :=
  let p := queuePart s l.queue
  (nextSpot s p lk l true).isNone && (nextSpot s p lk l false).isSome

/-- Is a launch held back by an earlier one whose cluster has waited 1 ms (R124); one that only the floor
refuses blocks no other (R126). It holds until that cluster is placed, also while blocks of its context are pre-empted. -/
def heldBack (s : State) (k : Nat) (l : Launch) : Bool :=
  s.launches.any fun e => e.1 != k && e.2.starved && wantsPlace s e.1 e.2 && !floorRefused s e.1 e.2 && e.2.order < l.order
    && launchClass s e.2 ≤ launchClass s l && queuePart s e.2.queue == queuePart s l.queue

/-- The launches of a partition that may place, in the order they are served. -/
def placeOrder (s : State) (p : Nat) : List (Nat × Launch) :=
  sortBy (fun x y => launchClass s x.2 < launchClass s y.2
      || (launchClass s x.2 == launchClass s y.2 && x.2.order ≤ y.2.order))
    (s.launches.filter fun e => queuePart s e.2.queue == p && mayPlace s e.1 e.2 && !heldBack s e.1 e.2)

/-- Places one cluster of one launch: a saved one first (R123); none when no bay takes it. -/
def placeOne (s : State) (p lk : Nat) (l : Launch) : Option State :=
  (openSpot s p lk l).map fun sp =>
    match savedClusters s lk with
    | clu :: _ => placeSaved s p lk l clu sp
    | [] => placeNew s p lk l sp

/-- Where the next cluster of a DET launch cannot be placed, blocks of its context with a higher key that wait for a
grant are pre-empted, cluster by cluster (R411). -/
def yieldGrants (s : State) (lk : Nat) (l : Launch) : State :=
  let next := match savedClusters s lk with
    | c :: _ => ((aget s.clusters c).map Cluster.num).getD 0
    | [] => l.nextClu
  let later (b : Block) : Bool :=
    if b.launch = lk then (next + 1) * (headerOf s lk).csize ≤ b.id
    else ((aget s.launches b.launch).map fun x => decide (l.order < x.order)).getD false
  let clus := (s.blocks.filterMap fun e =>
    if e.2.ctx = l.ctx && e.2.st == .placed && e.2.pre.isNone && later e.2
        && ((groupsOf s e.1).any fun g => match g.2.wait with
          | some (_, .grant) => true
          | _ => false) then some e.2.clu else none).eraseDups
  if !l.det || clus.isEmpty then s
  else
    let all := (s.blocks.filter fun e => clus.contains e.2.clu).map Prod.fst
    match assignSlots s l.ctx all with
    | some s => all.foldl preemptBlock s
    | none => s

/-- CLUSTER_PLACEMENT in a partition: the first launch in order of which a cluster can be placed; the DET launches before it,
whose clusters cannot be, have later blocks of their context give way (R411). -/
def placeCluster (s : State) (p : Nat) : State :=
  let order := placeOrder s p
  let stuck := order.takeWhile fun e => (placeOne s p e.1 e.2).isNone
  let s := match order.drop stuck.length with
    | e :: _ => match placeOne s p e.1 e.2 with
      | some s => settleLaunches s
      | none => s
    | [] => s
  stuck.foldl (fun s e => yieldGrants s e.1 e.2) s

end Sys2Proof.Machine
end

