-- ==== Sys2Proof/Machine/Ops.lean ====
section
/-! DEFINITION. The shared course of an instruction of the current group: checks before it (R142, R145, R150, R252,
R397), its body, and what each outcome of the body makes of the machine (R150 to R159, R393). -/

namespace Sys2Proof.Machine

/-- What the body of an instruction answers. -/
inductive Res where
  /-- Completed; only the group has changed. -/
  | grp (g : Group) (flow : Flow)
  /-- Completed; LA writes that a lookahead may hold back are listed apart. -/
  | done (s : State) (flow : Flow) (lw : AMap (Bool × LA))
  /-- A fault of the instruction. -/
  | trap (s : State) (t : Trap) (v : Dword)
  /-- A fault whose TRAPPC is given. -/
  | trapAt (s : State) (t : Trap) (v pc : Dword)
  /-- POISON from an on-chip memory (R397). -/
  | onchip
  /-- The group becomes BLOCKED at the instruction (R159). -/
  | block (s : State) (w : Wait)
  /-- The group waits at the instruction without being BLOCKED, and issues it again. -/
  | stall (s : State)
  /-- The group has ended, been saved, or been given its state already. -/
  | gone (s : State)
deriving DecidableEq, Repr

/-- Sequential completion with only the group changed. -/
def Res.of (g : Group) : Res := .grp g .seq

/-- ILLEGAL_INSTRUCTION of a legal word out of place (R250). -/
def misplaced (i : Instr) : Dword := dw (2 ^ 32 + (encodeWord i).toNat)

/-! Gang owners (R364). -/

/-- GANG.MODE. -/
def gangMode (x : Dword) : Nat := bits x 1 0
/-- GANG.SIZE. -/
def gangSize (x : Dword) : Nat := bits x 3 2
/-- GANG.MEMBER. -/
def gangMember (x : Dword) : Nat := bits x 5 4
/-- GANG.GID. -/
def gangGid (x : Dword) : Nat := bits x 12 8

/-- The members whose registers supply A and B to member m (R364). -/
def gangOwners (mode m : Nat) : Nat × Nat :=
  if mode = 1 then (m, 0) else if mode = 2 then (0, m) else (m / 2 * 2, m % 2)

/-- Sub-elements of AF (R347): 1 where FMT is refused. -/
def afCount (g : Group) : Nat :=
  match fmtAf g.fmt with
  | some f => 64 / numBits f
  | none => 1

/-- LAs that LARND rounds (R351). -/
def rndCount (g : Group) (fo : Option NumFmt) : Nat := 64 / numBits (fo.getD ((fmtOf g.fmt).getD .fp64))

/-- What an instruction reads and writes in this group: a gang member that owns no operand reads none (R364), and a run of
LAs is as long as FMT says (R347, R351). -/
def usesIn (g : Group) (i : Instr) : Uses :=
  match i with
  | .mma d a b _ _ | .mmas d a b _ _ =>
    if gangMode g.gang = 0 then uses i
    else
      let m := gangMember g.gang
      -- GRID member 2p owns A for its row, member q (0 or 1) owns B for its column
      let ownsA := gangMode g.gang = 1 || (gangMode g.gang = 2 && m = 0) || (gangMode g.gang = 3 && m % 2 = 0)
      let ownsB := (gangMode g.gang = 1 && m = 0) || gangMode g.gang = 2 || (gangMode g.gang = 3 && m < 2)
      let nb := match i with
        | .mmas .. => 8
        | _ => 4
      ((if ownsA then useV a 4 else {}).and (if ownsB then useV b nb else {})).and (useA d 8)
  | .larnd d a fo _ _ => (useR d).and (useA a (rndCount g fo))
  | .laadds d a => (useR a).and (useA d (afCount g))
  | .lamad d a b | .lamsb d a b => (useRR a b).and (useA d (afCount g))
  | _ => uses i

/-- The register of kind R that an instruction writes in every active lane without reading it. -/
def dstR : Instr → Option GReg
  | .mfs d _ | .fmtget d | .clock d | .movw d _ _ | .qstat d _ | .qdrain d _ | .laflg d _ | .larnd d _ _ _ _
  | .laseg d _ _ _ | .vbal d _ | .vfirst d _ => some d
  | .fil d _ _ _ => some (.v d)
  | .iadd _ d _ _ | .isub _ d _ _ | .iaddc _ d _ _ | .isubb _ d _ _ | .imul _ d _ _ | .imulhs _ d _ _
  | .imulhn _ d _ _ | .imins _ d _ _ | .imaxs _ d _ _ | .iminn _ d _ _ | .imaxn _ d _ _
  | .andR _ d _ _ | .orR _ d _ _ | .xorR _ d _ _ | .andnR _ d _ _ | .shl _ d _ _ | .shr _ d _ _ | .sar _ d _ _
  | .rot _ d _ _ | .bfxs _ d _ _ | .bfxn _ d _ _ | .prmb d _ _ | .iadds _ d _ _ | .iaddn _ d _ _
  | .lea d _ _ _ => some d
  | .iabs _ d _ | .popc _ d _ | .clz _ d _ | .brev _ d _ | .mov _ d _ => some d
  | .addi d _ _ | .andi d _ _ | .ori d _ _ | .xori d _ _ | .shli d _ _ | .shri d _ _ | .sari d _ _ => some d
  | .fadd _ _ d _ _ | .fsub _ _ d _ _ | .fmul _ _ d _ _ | .fmin _ _ d _ _ | .fmax _ _ d _ _ | .fcsgn _ _ d _ _
  | .fdiv _ _ d _ _ | .fscl _ _ d _ _ => some d
  | .fabs _ _ d _ | .fneg _ _ d _ | .frndn _ _ d _ | .frndz _ _ d _ | .frndp _ _ d _ | .frndm _ _ d _
  | .fclass _ _ d _ | .frcp _ _ d _ | .frsq _ _ d _ | .fsqrt _ _ d _ | .fexp2 _ _ d _ | .flog2 _ _ d _
  | .cvt _ _ _ _ d _ => some d
  | .xliBfly _ d _ _ _ | .xliBcast _ d _ _ _ | .xliRotup _ d _ _ _ | .xliRotdn _ d _ _ _ => some d
  | .qxh d _ | .qxv d _ | .qxd d _ | .qbc0 d _ | .qbc1 d _ | .qbc2 d _ | .qbc3 d _ | .mbcnt d _ => some d
  | .ld _ _ d _ _ _ | .ldx _ _ d _ _ _ | .lds _ d _ _ _ | .ldsc _ d _ _ _ => some d
  | .pgreq d _ _ _ | .pgqry d _ _ _ | .pgpin d _ _ _ | .pgunpin d _ _ _ => some d
  | .atomAdd d _ _ _ | .atomMins d _ _ _ | .atomMaxs d _ _ _ | .atomMinn d _ _ _ | .atomMaxn d _ _ _
  | .atomAnd d _ _ _ | .atomOr d _ _ _ | .atomXor d _ _ _ | .atomXchg d _ _ _ | .atomCas d _ _ _ | .atomIncw d _ _ _
  | .atomwAdd d _ _ _ | .atomwMins d _ _ _ | .atomwMaxs d _ _ _ | .atomwMinn d _ _ _ | .atomwMaxn d _ _ _
  | .atomwAnd d _ _ _ | .atomwOr d _ _ _ | .atomwXor d _ _ _ | .atomwXchg d _ _ _ | .atomwCas d _ _ _
  | .atomwIncw d _ _ _ => some d
  | _ => none

/-- What an instruction writes without reading it: its destination and its residency predicate. -/
def written (i : Instr) : Uses :=
  let own : Uses := match i with
    | .ldu d _ _ _ _ => useS d
    | .qpop (.s n) _ | .qtry (.s n) _ => useSs n 2
    | .call _ | .callr _ => { s := [15] }
    | .iset _ cb _ pd _ _ | .fset _ cb _ pd _ _ | .fsets _ cb _ pd _ _ => if cb = .set then useP pd else {}
    | .pand d _ _ | .por d _ _ | .pxor d _ _ | .pandn d _ _ | .pnot d _ | .pmov d _ | .vany d _ | .vall d _ => useP d
    | _ => {}
  ((dstR i).elim {} useR).and (own.and { p := (promised i).1.p })

/-- The words of registers, by the keys of `Group.regBad`, in the lanes given (R397). -/
def Group.badKeys (g : Group) (ls v s p : List Nat) : List Nat :=
  v.flatMap (fun n => ls.map (32 * (g.wbase + n) + ·)) ++ s.map (2 ^ 16 + ·) ++ p.flatMap fun n => ls.map (2 ^ 17 + 32 * n + ·)

/-- A list without the first occurrence of each of others. -/
def lessFirst (l others : List Nat) : List Nat := others.foldl List.erase l

/-- Does an instruction read registers of lanes other than its own: the exchanges between lanes and the matrix passes. -/
def crossesLanes : Instr → Bool
  | .xln .. | .xliBfly .. | .xliBcast .. | .xliRotup .. | .xliRotdn .. | .qxh .. | .qxv .. | .qxd .. | .qbc0 ..
  | .qbc1 .. | .qbc2 .. | .qbc3 .. | .mma .. | .mmas .. => true
  | _ => false

/-- Does an instruction read a word that holds an uncorrectable error, in a register or in its copy in the wings (R397): for
a member lane (R136). -/
def readsBad (g : Group) (i : Instr) : Bool :=
  !(g.regBad.isEmpty && g.wingBad.isEmpty) &&
    (let u := usesIn g i
     let w := written i
     let ls := if crossesLanes i then List.range 32 else g.lanesOn.filter g.isMember
     meets (g.regBad ++ g.wingBad)
       (g.badKeys ls (lessFirst (runNums u.v) (runNums w.v)) (lessFirst u.s w.s) (lessFirst u.p w.p)))

/-- Does an instruction begin a new set of staged registers (R148). -/
def restages (old : Group) : Instr → Bool
  | .stage .. => !old.staging
  | _ => false

/-- The words that an instruction of a group writes lose their errors, those of its active lanes; a copy in the wings loses
its error when it is no longer staged or is staged anew. -/
def Group.mendRegs (g old : Group) (i : Instr) : Group :=
  if g.regBad.isEmpty && g.wingBad.isEmpty then g
  else
    let w := written i
    let mended := old.badKeys old.lanesOn (runNums w.v) w.s w.p
    { g with regBad := g.regBad.filter fun n => !mended.contains n,
             wingBad := if restages old i then []
               else g.wingBad.filter fun n => !mended.contains n && g.wings.contains (n / 32) }

/-! Checks. -/

/-- Faults that come before an instruction's own description (R252): a place R142 forbids, a broken promise, a
register out of the window. DESIGN CHOICE (log 77): they, and the faults of formats, allotments and spill spaces, arise with
EXEC = 0 too. -/
def preFault (i : Instr) (g : Group) (b : Block) : Option (Trap × Dword) :=
  if g.grem ≠ 0 && barredInSpan i then some (.illegal, misplaced i)
  else
    match g.breach (usesIn g i) with
    | some at_ => some (.lookahead, at_)
    | none =>
      match g.windowFault (32 * b.vregs) (usesIn g i).v with
      | some n => some (.windowRange, dw n)
      | none => none

/-- Makes room for one pending instruction more (R150): the oldest completes. -/
def makeRoom (i : Instr) (x : GLas) : GLas :=
  if (promised i).2 = 0 then x
  else
    let open_ := x.1.pend.filter fun p => !p.landed
    if open_.length < 8 then x
    else
      match x.1.pend.findIdx? fun p => !p.landed with
      | none => x
      | some n =>
        match x.1.pend[n]? with
        | none => x
        | some p =>
          let y := landOne x p
          ({ y.1 with pend := y.1.pend.set n { p with landed := true, vw := [], sw := [], pw := [], lw := [] } }, y.2)

/-- The releases of R183 that are no SYNC function: they wait for the group's LA writes (R353). -/
def releasing (g : Group) : Instr → Bool
  | .endj => g.stack.head?.any fun e => !e.path
  | .qpush .. | .ecpy .. | .egath .. | .escat .. | .ercpy .. | .efill .. | .emig .. | .launch .. => true
  | _ => false

/-- Results due, room for one more, for a SYNC function every result, and for another release every LA write (R150, R329,
R353). -/
def settlePend (i : Instr) (sync : Bool) (x : GLas) : GLas :=
  if x.1.pend.isEmpty then x
  else
    let y := makeRoom i (landDue x)
    if sync then drain y
    else if releasing x.1 i then landWhere y (fun p => !p.lw.isEmpty) fun _ => true
    else y

/-! Completion. -/

/-- Completes instruction i of group k: its registers and LAs, then the group's own advance. -/
def complete (i : Instr) (old : Group) (b : Block) (k : Nat) (s : State) (flow : Flow) (lw : AMap (Bool × LA)) : State :=
  match aget s.groups k with
  | none => s
  | some new =>
    let later := (promised i).2 ≠ 0
    let g := Group.retire old (new.mendRegs old i) i flow (if later then lw else []) (sigenOf s b) s.clock
    let s := setGroup s k g
    if later || lw.isEmpty then s
    else { s with blocks := amod s.blocks old.blk fun b => { b with las := landLas b.las lw } }

/-- A group BLOCKED or stalled at instruction i. -/
def Group.hold (g : Group) (i : Instr) (w : Option Wait) (now : Nat) : Group :=
  match w with
  | some w => { g with st := .blocked, wait := some (i, w) }
  | none => { g with stalled := true, held := some i, lastIssue := now }

/-- What an outcome makes of the machine; old is the group as it issued. -/
def conclude (i : Instr) (old : Group) (b : Block) (k : Nat) (s : State) : Res → State
  | .grp g flow => complete i old b k (setGroup s k g) flow []
  | .done s flow lw => complete i old b k s flow lw
  | .trap s t v => raiseFault s k t v old.pc
  | .trapAt s t v pc => raiseFault s k t v pc
  | .onchip => countSram (raiseFault s k .poison 0 old.pc) b.core
  | .block s w => { s with groups := amod s.groups k fun g => g.hold i (some w) s.clock }
  | .stall s => { s with groups := amod s.groups k fun g => g.hold i none s.clock }
  | .gone s => s

/-- The current group and its block as they issue instruction i, and the state that holds them: results due have landed
(R150), a region whose START stands here is entered (R118), and the group waits no longer. -/
def atIssue (i : Instr) (sync : Bool) (s : State) : Option (State × Group × Block) :=
  match aget s.groups s.cur with
  | none => none
  | some g0 =>
    match aget s.blocks g0.blk with
    | none => none
    | some b0 =>
      let x := settlePend i sync (g0, b0.las)
      let hdr := headerOf s b0.launch
      let regs := ((aget s.launches b0.launch).map Launch.regions).getD []
      let g := (if g0.wait.isSome then x.1 else x.1.enterRegion hdr.code regs)
      let g := { g with stalled := false, held := none }
      let b := { b0 with las := x.2 }
      some (setBlock (setGroup s s.cur g) g0.blk b, g, b)

/-- Is an instruction a release of R183, as its group stands: a fence of system scope waits in its own way (R182). -/
def releasesNow (i : Instr) (g : Group) : Bool :=
  match i with
  | .fenceRel _ sc | .fenceAr _ sc => sc != .sys
  | .barArr _ | .barSync _ _ | .cbarArr _ | .cbarSync _ _ => true
  | i => releasing g i

/-- Has a group an update that cannot merge yet, since traffic on its way is held (R375, R377) or it must wait at a quarter
(R204). -/
def heldUpd (s : State) (k : Nat) : Bool :=
  s.upd.any (fun u => u.grp == k) && (flushUpd s fun u => u.grp == k).upd.any fun u => u.grp == k

/-- The course of instruction i of the current group. The body sees the state with due results landed, the key of the
group, the group and its block. A release waits for updates that cannot merge yet (R183, R375). -/
def withCur (i : Instr) (sync : Bool) (s : State) (body : State → Nat → Group → Block → Res) :
    Host.Outcome State Fault Refusal :=
  match atIssue i sync s with
  | none => .fault .noGroup
  | some (s, g, b) =>
    match preFault i g b with
    | some (t, v) => .next (raiseFault s s.cur t v g.pc)
    | none =>
      if readsBad g i then .next (conclude i g b s.cur s .onchip)
      else if releasesNow i g && heldUpd s s.cur then .next (conclude i g b s.cur s (.stall s))
      else .next (conclude i g b s.cur s (body s s.cur g b))

/-- An instruction that changes only its group, and advances sequentially. -/
def compute (i : Instr) (s : State) (f : Group → Group) : Host.Outcome State Fault Refusal :=
  withCur i false s fun _ _ g _ => .of (f g)

end Sys2Proof.Machine
end

