-- ==== Sys2Proof/Machine/Integer.lean ====
section
/-! DEFINITION. Integer, logic, shift, bit-field, predicate and immediate instructions (R286 to R296). -/

namespace Sys2Proof.Machine

/-- Writes a function of the sub-elements of a and b, and of the old ones of d, to d (R269). -/
def Group.laneInt (g : Group) (w : Width) (d a b : GReg) (f : Nat → Nat → Nat → Nat) : Group :=
  g.laneResult d fun l => mapSubs (Width.bits w) f (g.readR a l) (g.readR b l) (g.readR d l)

/-- Writes a function of whole 64-bit values of a and b to d. -/
def Group.lane64 (g : Group) (d a b : GReg) (f : Dword → Dword → Dword) : Group :=
  g.laneResult d fun l => f (g.readR a l) (g.readR b l)

/-! Functions of one sub-element of width w. -/

/-- A shift or rotate count (R289). -/
def shiftCount (y : Nat) : Nat := y % 256
/-- SHL. -/
def shlN (w x y : Nat) : Nat := if w ≤ shiftCount y then 0 else x * 2 ^ shiftCount y % 2 ^ w
/-- SHR. -/
def shrN (w x y : Nat) : Nat := if w ≤ shiftCount y then 0 else x / 2 ^ shiftCount y
/-- SAR: a floor division of the signed value. -/
def sarN (w x y : Nat) : Nat := imod w (sext w x / (2 ^ min (shiftCount y) w : Nat))
/-- ROT, to the left. -/
def rotN (w x y : Nat) : Nat :=
  let n := shiftCount y % w
  x * 2 ^ n % 2 ^ w + x / 2 ^ (w - n)
/-- Field position of BFXS, BFXN and BFI (R290). -/
def fieldPos (w y : Nat) : Nat := y % w
/-- Bits of the field, cut off at the top of the sub-element (R290). -/
def fieldLen (w y : Nat) : Nat := min (fieldPos w y + (y / w % w + 1)) w - fieldPos w y
/-- The field itself. -/
def fieldOf (w x y : Nat) : Nat := x / 2 ^ fieldPos w y % 2 ^ fieldLen w y
/-- BFI. -/
def fieldInto (w x y c : Nat) : Nat :=
  let p := fieldPos w y
  let n := fieldLen w y
  c - c / 2 ^ p % 2 ^ n * 2 ^ p + x % 2 ^ n * 2 ^ p
/-- Clamps an integer. -/
def clampI (lo hi v : Int) : Int := max lo (min hi v)
/-- A compare of ISET (R292). -/
def icond (c : ICond) (w x y : Nat) : Bool :=
  match c with
  | .eq => x == y
  | .ne => x != y
  | .lts => sext w x < sext w y
  | .les => sext w x ≤ sext w y
  | .gts => sext w y < sext w x
  | .ltn => x < y
  | .len => x ≤ y
  | .gtn => y < x
/-- How a compare joins the old predicate bit (R292). -/
def combineBit (c : Combine) (old new : Bool) : Bool :=
  match c with
  | .set => new
  | .and => old && new
  | .or => old || new
  | .xor => old != new

/-- A predicate with bit i set to f i for i below m (R270). -/
def predBits (m : Nat) (old : BitVec 8) (f : Nat → Bool → Bool) : BitVec 8 :=
  BitVec.ofNat 8 ((List.range 8).foldr (fun i acc =>
    b2n (if i < m then f i (old.getLsbD i) else old.getLsbD i) + 2 * acc) 0)

/-- IADDC and ISUBB (R287): each sub-element through its own bit of cy. -/
def Group.laneCarry (g : Group) (w : Width) (d a b : GReg) (f : Nat → Nat → Nat → Int) : Group :=
  let w := Width.bits w
  let r := (g.evalLanes d).map fun l =>
    let t (i : Nat) : Int := f (sub (g.readR a l) w i) (sub (g.readR b l) w i) (b2n ((g.readP 14 l).getLsbD i))
    (l, joinSubs w ((List.range (64 / w)).map fun i => imod w (t i)),
      predBits (64 / w) (g.readP 14 l) fun i _ => t i < 0 || (2 ^ w : Nat) ≤ t i)
  (g.writeAll d (r.map fun x => (x.1, x.2.1))).writeAllP 14 (r.map fun x => (x.1, x.2.2))

/-- PRMB (R291). -/
def permuteBytes (a b old : Dword) : Dword :=
  joinSubs 8 ((List.range 8).map fun j =>
    let s := sub b 8 j
    if 128 ≤ s then 0 else if s / 8 % 2 = 0 then sub a 8 (s % 8) else sub old 8 (s % 8))

/-- IADD (R286). -/
def execIadd (w : Width) (d a b : GReg) (s : State) : Host.Outcome State Fault Refusal :=
  compute (.iadd w d a b) s fun g => g.laneInt w d a b fun x y _ => (x + y) % 2 ^ Width.bits w

/-- ISUB (R286). -/
def execIsub (w : Width) (d a b : GReg) (s : State) : Host.Outcome State Fault Refusal :=
  compute (.isub w d a b) s fun g => g.laneInt w d a b fun x y _ => imod (Width.bits w) (x - y)

/-- IADDC (R287). -/
def execIaddc (w : Width) (d a b : GReg) (s : State) : Host.Outcome State Fault Refusal :=
  compute (.iaddc w d a b) s fun g => g.laneCarry w d a b fun x y c => x + y + c

/-- ISUBB (R287). -/
def execIsubb (w : Width) (d a b : GReg) (s : State) : Host.Outcome State Fault Refusal :=
  compute (.isubb w d a b) s fun g => g.laneCarry w d a b fun x y c => (x : Int) - y - c

/-- IMUL (R286). -/
def execImul (w : Width) (d a b : GReg) (s : State) : Host.Outcome State Fault Refusal :=
  compute (.imul w d a b) s fun g => g.laneInt w d a b fun x y _ => x * y % 2 ^ Width.bits w

/-- IMULHS (R286). -/
def execImulhs (w : Width) (d a b : GReg) (s : State) : Host.Outcome State Fault Refusal :=
  compute (.imulhs w d a b) s fun g => g.laneInt w d a b fun x y _ => imod (Width.bits w) (sext (Width.bits w) x * sext (Width.bits w) y / (2 ^ Width.bits w : Nat))

/-- IMULHN (R286). -/
def execImulhn (w : Width) (d a b : GReg) (s : State) : Host.Outcome State Fault Refusal :=
  compute (.imulhn w d a b) s fun g => g.laneInt w d a b fun x y _ => x * y / 2 ^ Width.bits w

/-- IMAD (R286). -/
def execImad (w : Width) (d a b : GReg) (s : State) : Host.Outcome State Fault Refusal :=
  compute (.imad w d a b) s fun g => g.laneInt w d a b fun x y c => (x * y + c) % 2 ^ Width.bits w

/-- IMINS (R288). -/
def execImins (w : Width) (d a b : GReg) (s : State) : Host.Outcome State Fault Refusal :=
  compute (.imins w d a b) s fun g => g.laneInt w d a b fun x y _ => if sext (Width.bits w) x < sext (Width.bits w) y then x else y

/-- IMAXS (R288). -/
def execImaxs (w : Width) (d a b : GReg) (s : State) : Host.Outcome State Fault Refusal :=
  compute (.imaxs w d a b) s fun g => g.laneInt w d a b fun x y _ => if sext (Width.bits w) x < sext (Width.bits w) y then y else x

/-- IMINN (R288). -/
def execIminn (w : Width) (d a b : GReg) (s : State) : Host.Outcome State Fault Refusal :=
  compute (.iminn w d a b) s fun g => g.laneInt w d a b fun x y _ => min x y

/-- IMAXN (R288). -/
def execImaxn (w : Width) (d a b : GReg) (s : State) : Host.Outcome State Fault Refusal :=
  compute (.imaxn w d a b) s fun g => g.laneInt w d a b fun x y _ => max x y

/-- IABS (R288). -/
def execIabs (w : Width) (d a : GReg) (s : State) : Host.Outcome State Fault Refusal :=
  compute (.iabs w d a) s fun g => g.laneInt w d a .z fun x _ _ => (sext (Width.bits w) x).natAbs % 2 ^ Width.bits w

/-- IMADW (R288): the carry goes through bit 0 of cy. -/
def execImadw (d a b : GReg) (s : State) : Host.Outcome State Fault Refusal :=
  compute (.imadw d a b) s fun g =>
    let r := (g.evalLanes d).map fun l =>
      let t := bits (g.readR a l) 31 0 * bits (g.readR b l) 31 0 + (g.readR d l).toNat + b2n ((g.readP 14 l).getLsbD 0)
      (l, dw t, predBits 1 (g.readP 14 l) fun _ _ => decide (2 ^ 64 ≤ t))
    (g.writeAll d (r.map fun x => (x.1, x.2.1))).writeAllP 14 (r.map fun x => (x.1, x.2.2))

/-- POPC (R288). -/
def execPopc (w : Width) (d a : GReg) (s : State) : Host.Outcome State Fault Refusal :=
  compute (.popc w d a) s fun g => g.laneInt w d a .z fun x _ _ => popCount (Width.bits w) x

/-- CLZ (R288). -/
def execClz (w : Width) (d a : GReg) (s : State) : Host.Outcome State Fault Refusal :=
  compute (.clz w d a) s fun g => g.laneInt w d a .z fun x _ _ => leadZeros (Width.bits w) x

/-- AND (R289). -/
def execAndR (w : Width) (d a b : GReg) (s : State) : Host.Outcome State Fault Refusal :=
  compute (.andR w d a b) s fun g => g.laneInt w d a b fun x y _ => x &&& y

/-- OR (R289). -/
def execOrR (w : Width) (d a b : GReg) (s : State) : Host.Outcome State Fault Refusal :=
  compute (.orR w d a b) s fun g => g.laneInt w d a b fun x y _ => x ||| y

/-- XOR (R289). -/
def execXorR (w : Width) (d a b : GReg) (s : State) : Host.Outcome State Fault Refusal :=
  compute (.xorR w d a b) s fun g => g.laneInt w d a b fun x y _ => x ^^^ y

/-- ANDN (R289). -/
def execAndnR (w : Width) (d a b : GReg) (s : State) : Host.Outcome State Fault Refusal :=
  compute (.andnR w d a b) s fun g => g.laneInt w d a b fun x y _ => x &&& (2 ^ Width.bits w - 1 - y)

/-- SHL (R289). -/
def execShl (w : Width) (d a b : GReg) (s : State) : Host.Outcome State Fault Refusal :=
  compute (.shl w d a b) s fun g => g.laneInt w d a b fun x y _ => shlN (Width.bits w) x y

/-- SHR (R289). -/
def execShr (w : Width) (d a b : GReg) (s : State) : Host.Outcome State Fault Refusal :=
  compute (.shr w d a b) s fun g => g.laneInt w d a b fun x y _ => shrN (Width.bits w) x y

/-- SAR (R289). -/
def execSar (w : Width) (d a b : GReg) (s : State) : Host.Outcome State Fault Refusal :=
  compute (.sar w d a b) s fun g => g.laneInt w d a b fun x y _ => sarN (Width.bits w) x y

/-- ROT (R289). -/
def execRot (w : Width) (d a b : GReg) (s : State) : Host.Outcome State Fault Refusal :=
  compute (.rot w d a b) s fun g => g.laneInt w d a b fun x y _ => rotN (Width.bits w) x y

/-- BREV (R290). -/
def execBrev (w : Width) (d a : GReg) (s : State) : Host.Outcome State Fault Refusal :=
  compute (.brev w d a) s fun g => g.laneInt w d a .z fun x _ _ => bitRev (Width.bits w) x

/-- BFXS (R290). -/
def execBfxs (w : Width) (d a b : GReg) (s : State) : Host.Outcome State Fault Refusal :=
  compute (.bfxs w d a b) s fun g => g.laneInt w d a b fun x y _ => imod (Width.bits w) (sext (fieldLen (Width.bits w) y) (fieldOf (Width.bits w) x y))

/-- BFXN (R290). -/
def execBfxn (w : Width) (d a b : GReg) (s : State) : Host.Outcome State Fault Refusal :=
  compute (.bfxn w d a b) s fun g => g.laneInt w d a b fun x y _ => fieldOf (Width.bits w) x y

/-- BFI (R290). -/
def execBfi (w : Width) (d a b : GReg) (s : State) : Host.Outcome State Fault Refusal :=
  compute (.bfi w d a b) s fun g => g.laneInt w d a b fun x y c => fieldInto (Width.bits w) x y c

/-- MOV (R290). -/
def execMov (w : Width) (d a : GReg) (s : State) : Host.Outcome State Fault Refusal :=
  compute (.mov w d a) s fun g => g.laneResult d fun l => g.readR a l

/-- PRMB (R291). -/
def execPrmb (d a b : GReg) (s : State) : Host.Outcome State Fault Refusal :=
  compute (.prmb d a b) s fun g => g.laneResult d fun l => permuteBytes (g.readR a l) (g.readR b l) (g.readR d l)

/-- IADDS (R290). -/
def execIadds (w : Width) (d a b : GReg) (s : State) : Host.Outcome State Fault Refusal :=
  compute (.iadds w d a b) s fun g => g.laneInt w d a b fun x y _ => imod (Width.bits w) (clampI (-(2 ^ (Width.bits w - 1) : Nat)) ((2 ^ (Width.bits w - 1) : Nat) - 1) (sext (Width.bits w) x + sext (Width.bits w) y))

/-- IADDN (R290). -/
def execIaddn (w : Width) (d a b : GReg) (s : State) : Host.Outcome State Fault Refusal :=
  compute (.iaddn w d a b) s fun g => g.laneInt w d a b fun x y _ => min (x + y) (2 ^ Width.bits w - 1)

/-- ISET (R292). -/
def execIset (c : ICond) (cb : Combine) (w : Width) (pd : PReg) (a b : GReg) (s : State) :
    Host.Outcome State Fault Refusal :=
  compute (.iset c cb w pd a b) s fun g => g.laneResultP pd fun l =>
    predBits (64 / Width.bits w) (g.readP pd l) fun i old =>
      combineBit cb old (icond c (Width.bits w) (sub (g.readR a l) (Width.bits w) i) (sub (g.readR b l) (Width.bits w) i))

/-- PAND (R293). -/
def execPand (d a b : PReg) (s : State) : Host.Outcome State Fault Refusal :=
  compute (.pand d a b) s fun g => g.laneResultP d fun l => g.readP a l &&& g.readP b l

/-- POR (R293). -/
def execPor (d a b : PReg) (s : State) : Host.Outcome State Fault Refusal :=
  compute (.por d a b) s fun g => g.laneResultP d fun l => g.readP a l ||| g.readP b l

/-- PXOR (R293). -/
def execPxor (d a b : PReg) (s : State) : Host.Outcome State Fault Refusal :=
  compute (.pxor d a b) s fun g => g.laneResultP d fun l => g.readP a l ^^^ g.readP b l

/-- PANDN (R293). -/
def execPandn (d a b : PReg) (s : State) : Host.Outcome State Fault Refusal :=
  compute (.pandn d a b) s fun g => g.laneResultP d fun l => g.readP a l &&& ~~~g.readP b l

/-- PNOT (R293). -/
def execPnot (d a : PReg) (s : State) : Host.Outcome State Fault Refusal :=
  compute (.pnot d a) s fun g => g.laneResultP d fun l => ~~~g.readP a l

/-- PMOV (R293). -/
def execPmov (d a : PReg) (s : State) : Host.Outcome State Fault Refusal :=
  compute (.pmov d a) s fun g => g.laneResultP d fun l => g.readP a l

/-- ADDI (R294). -/
def execAddi (d a : GReg) (imm : BitVec 12) (s : State) : Host.Outcome State Fault Refusal :=
  compute (.addi d a imm) s fun g => g.lane64 d a .z fun x _ => x + imm.signExtend 64

/-- ANDI (R294). -/
def execAndi (d a : GReg) (imm : BitVec 12) (s : State) : Host.Outcome State Fault Refusal :=
  compute (.andi d a imm) s fun g => g.lane64 d a .z fun x _ => x &&& imm.signExtend 64

/-- ORI (R294). -/
def execOri (d a : GReg) (imm : BitVec 12) (s : State) : Host.Outcome State Fault Refusal :=
  compute (.ori d a imm) s fun g => g.lane64 d a .z fun x _ => x ||| imm.signExtend 64

/-- XORI (R294). -/
def execXori (d a : GReg) (imm : BitVec 12) (s : State) : Host.Outcome State Fault Refusal :=
  compute (.xori d a imm) s fun g => g.lane64 d a .z fun x _ => x ^^^ imm.signExtend 64

/-- SHLI (R294). -/
def execShli (d a : GReg) (imm : BitVec 12) (s : State) : Host.Outcome State Fault Refusal :=
  compute (.shli d a imm) s fun g => g.lane64 d a .z fun x _ => x <<< imm.toNat

/-- SHRI (R294). -/
def execShri (d a : GReg) (imm : BitVec 12) (s : State) : Host.Outcome State Fault Refusal :=
  compute (.shri d a imm) s fun g => g.lane64 d a .z fun x _ => x >>> imm.toNat

/-- SARI (R294). -/
def execSari (d a : GReg) (imm : BitVec 12) (s : State) : Host.Outcome State Fault Refusal :=
  compute (.sari d a imm) s fun g => g.lane64 d a .z fun x _ => x.sshiftRight imm.toNat

/-- MOVW (R295). -/
def execMovw (d : GReg) (slot : Fin 4) (imm : BitVec 16) (s : State) : Host.Outcome State Fault Refusal :=
  compute (.movw d slot imm) s fun g => g.laneResult d fun _ => dw (imm.toNat * 2 ^ (16 * slot.val))

/-- MOVK (R295). -/
def execMovk (d : GReg) (slot : Fin 4) (imm : BitVec 16) (s : State) : Host.Outcome State Fault Refusal :=
  compute (.movk d slot imm) s fun g => g.laneResult d fun l =>
    dw ((g.readR d l).toNat - sub (g.readR d l) 16 slot * 2 ^ (16 * slot.val) + imm.toNat * 2 ^ (16 * slot.val))

/-- LEA (R296). -/
def execLea (d a b : GReg) (sh : Fin 32) (s : State) : Host.Outcome State Fault Refusal :=
  compute (.lea d a b sh) s fun g => g.lane64 d a b fun x y => x + y <<< sh.val

end Sys2Proof.Machine
end

