-- ==== Sys2Proof/Machine/FloatOps.lean ====
section
/-! DEFINITION. Floating-point arithmetic, compares and conversions (R297 to R305). -/

namespace Sys2Proof.Machine

/-- Flags of several sub-elements together. -/
def orFlags (l : List Flg) : Flg := l.foldl Flg.or Flg.none

/-- Writes a function of the sub-elements of a and b, and of the old ones of d, to d, with its flags unless the form is
a Q form (R297). -/
def Group.laneFp (g : Group) (fm : FpFmt) (q : Bool) (d a b : GReg) (f : Nat → Nat → Nat → Nat × Flg) : Group :=
  let w := fpBits fm
  g.laneResultF d fun l =>
    let r := (List.range (64 / w)).map fun i =>
      f (sub (g.readR a l) w i) (sub (g.readR b l) w i) (sub (g.readR d l) w i)
    (joinSubs w (r.map Prod.fst), if q then Flg.none else orFlags (r.map Prod.snd))

/-- A function that raises no flag. -/
def quiet (x : Nat) : Nat × Flg := (x, Flg.none)

/-- FADD (R298). -/
def execFadd (fm : FpFmt) (q : Bool) (d a b : GReg) (s : State) : Host.Outcome State Fault Refusal :=
  compute (.fadd fm q d a b) s fun g => g.laneFp fm q d a b fun x y _ =>
    fpAdd fm (fmtRm g.fmt) (fmtFtz g.fmt) x y

/-- FSUB (R298). -/
def execFsub (fm : FpFmt) (q : Bool) (d a b : GReg) (s : State) : Host.Outcome State Fault Refusal :=
  compute (.fsub fm q d a b) s fun g => g.laneFp fm q d a b fun x y _ =>
    fpSub fm (fmtRm g.fmt) (fmtFtz g.fmt) x y

/-- FMUL (R298). -/
def execFmul (fm : FpFmt) (q : Bool) (d a b : GReg) (s : State) : Host.Outcome State Fault Refusal :=
  compute (.fmul fm q d a b) s fun g => g.laneFp fm q d a b fun x y _ =>
    fpMul fm (fmtRm g.fmt) (fmtFtz g.fmt) x y

/-- FFMA (R298). -/
def execFfma (fm : FpFmt) (q : Bool) (d a b : GReg) (s : State) : Host.Outcome State Fault Refusal :=
  compute (.ffma fm q d a b) s fun g => g.laneFp fm q d a b fun x y c =>
    fpFused fm (fmtRm g.fmt) (fmtFtz g.fmt) false false x y c

/-- FFMS (R298). -/
def execFfms (fm : FpFmt) (q : Bool) (d a b : GReg) (s : State) : Host.Outcome State Fault Refusal :=
  compute (.ffms fm q d a b) s fun g => g.laneFp fm q d a b fun x y c =>
    fpFused fm (fmtRm g.fmt) (fmtFtz g.fmt) false true x y c

/-- FNMA (R298). -/
def execFnma (fm : FpFmt) (q : Bool) (d a b : GReg) (s : State) : Host.Outcome State Fault Refusal :=
  compute (.fnma fm q d a b) s fun g => g.laneFp fm q d a b fun x y c =>
    fpFused fm (fmtRm g.fmt) (fmtFtz g.fmt) true false x y c

/-- FMIN (R299). -/
def execFmin (fm : FpFmt) (q : Bool) (d a b : GReg) (s : State) : Host.Outcome State Fault Refusal :=
  compute (.fmin fm q d a b) s fun g => g.laneFp fm q d a b fun x y _ =>
    fpMinMax fm (fmtFtz g.fmt) false x y

/-- FMAX (R299). -/
def execFmax (fm : FpFmt) (q : Bool) (d a b : GReg) (s : State) : Host.Outcome State Fault Refusal :=
  compute (.fmax fm q d a b) s fun g => g.laneFp fm q d a b fun x y _ =>
    fpMinMax fm (fmtFtz g.fmt) true x y

/-- FABS (R300). -/
def execFabs (fm : FpFmt) (q : Bool) (d a : GReg) (s : State) : Host.Outcome State Fault Refusal :=
  compute (.fabs fm q d a) s fun g => g.laneFp fm q d a .z fun x _ _ =>
    quiet (x % fpSign fm)

/-- FNEG (R300). -/
def execFneg (fm : FpFmt) (q : Bool) (d a : GReg) (s : State) : Host.Outcome State Fault Refusal :=
  compute (.fneg fm q d a) s fun g => g.laneFp fm q d a .z fun x _ _ =>
    quiet (x ^^^ fpSign fm)

/-- FCSGN (R300). -/
def execFcsgn (fm : FpFmt) (q : Bool) (d a b : GReg) (s : State) : Host.Outcome State Fault Refusal :=
  compute (.fcsgn fm q d a b) s fun g => g.laneFp fm q d a b fun x y _ =>
    quiet (x % fpSign fm + y / fpSign fm * fpSign fm)

/-- FRNDN (R301). -/
def execFrndn (fm : FpFmt) (q : Bool) (d a : GReg) (s : State) : Host.Outcome State Fault Refusal :=
  compute (.frndn fm q d a) s fun g => g.laneFp fm q d a .z fun x _ _ =>
    fpRnd fm .rn (fmtFtz g.fmt) x

/-- FRNDZ (R301). -/
def execFrndz (fm : FpFmt) (q : Bool) (d a : GReg) (s : State) : Host.Outcome State Fault Refusal :=
  compute (.frndz fm q d a) s fun g => g.laneFp fm q d a .z fun x _ _ =>
    fpRnd fm .rz (fmtFtz g.fmt) x

/-- FRNDP (R301). -/
def execFrndp (fm : FpFmt) (q : Bool) (d a : GReg) (s : State) : Host.Outcome State Fault Refusal :=
  compute (.frndp fm q d a) s fun g => g.laneFp fm q d a .z fun x _ _ =>
    fpRnd fm .ru (fmtFtz g.fmt) x

/-- FRNDM (R301). -/
def execFrndm (fm : FpFmt) (q : Bool) (d a : GReg) (s : State) : Host.Outcome State Fault Refusal :=
  compute (.frndm fm q d a) s fun g => g.laneFp fm q d a .z fun x _ _ =>
    fpRnd fm .rd (fmtFtz g.fmt) x

/-- FCLASS (R302). -/
def execFclass (fm : FpFmt) (q : Bool) (d a : GReg) (s : State) : Host.Outcome State Fault Refusal :=
  compute (.fclass fm q d a) s fun g => g.laneFp fm q d a .z fun x _ _ =>
    quiet (fpClass fm x)

/-- FRCP (R303). -/
def execFrcp (fm : FpFmt) (q : Bool) (d a : GReg) (s : State) : Host.Outcome State Fault Refusal :=
  compute (.frcp fm q d a) s fun g => g.laneFp fm q d a .z fun x _ _ =>
    fpRcp fm (fmtFtz g.fmt) x

/-- FRSQ (R303). -/
def execFrsq (fm : FpFmt) (q : Bool) (d a : GReg) (s : State) : Host.Outcome State Fault Refusal :=
  compute (.frsq fm q d a) s fun g => g.laneFp fm q d a .z fun x _ _ =>
    fpRsq fm (fmtFtz g.fmt) x

/-- FSQRT (R303). -/
def execFsqrt (fm : FpFmt) (q : Bool) (d a : GReg) (s : State) : Host.Outcome State Fault Refusal :=
  compute (.fsqrt fm q d a) s fun g => g.laneFp fm q d a .z fun x _ _ =>
    fpSqrt fm (fmtFtz g.fmt) x

/-- FDIV (R298). -/
def execFdiv (fm : FpFmt) (q : Bool) (d a b : GReg) (s : State) : Host.Outcome State Fault Refusal :=
  compute (.fdiv fm q d a b) s fun g => g.laneFp fm q d a b fun x y _ =>
    fpDiv fm (fmtRm g.fmt) (fmtFtz g.fmt) x y

/-- FEXP2 (R303). -/
def execFexp2 (fm : FpFmt) (q : Bool) (d a : GReg) (s : State) : Host.Outcome State Fault Refusal :=
  compute (.fexp2 fm q d a) s fun g => g.laneFp fm q d a .z fun x _ _ =>
    fpExp2 fm (fmtRm g.fmt) (fmtFtz g.fmt) x

/-- FLOG2 (R303). -/
def execFlog2 (fm : FpFmt) (q : Bool) (d a : GReg) (s : State) : Host.Outcome State Fault Refusal :=
  compute (.flog2 fm q d a) s fun g => g.laneFp fm q d a .z fun x _ _ =>
    fpLog2 fm (fmtFtz g.fmt) x

/-- FSCL (R298). -/
def execFscl (fm : FpFmt) (q : Bool) (d a b : GReg) (s : State) : Host.Outcome State Fault Refusal :=
  compute (.fscl fm q d a b) s fun g => g.laneFp fm q d a b fun x y _ =>
    fpScale fm (fmtRm g.fmt) (fmtFtz g.fmt) x y

/-- A compare of one lane's registers (R304): the predicate and the flags. -/
def compareLane (g : Group) (quietToo : Bool) (c : FCond) (cb : Combine) (fm : FpFmt) (pd : PReg) (a b : GReg) (l : Nat) :
    BitVec 8 × Flg :=
  let w := fpBits fm
  let r (i : Nat) : Bool × Flg :=
    fpCompare fm (fmtFtz g.fmt) quietToo c (sub (g.readR a l) w i) (sub (g.readR b l) w i)
  (predBits (64 / w) (g.readP pd l) fun i old => combineBit cb old (r i).1,
    orFlags ((List.range (64 / w)).map fun i => (r i).2))

/-- FSET and FSETS write pd and raise flags in each active lane. -/
def Group.lanesCompare (g : Group) (quietToo : Bool) (c : FCond) (cb : Combine) (fm : FpFmt) (pd : PReg) (a b : GReg) :
    Group :=
  let r := g.lanesOn.map fun l => (l, compareLane g quietToo c cb fm pd a b l)
  (g.writeAllP pd (r.map fun x => (x.1, x.2.1))).raiseAll (r.map fun x => (x.1, x.2.2))

/-- FSET (R304). -/
def execFset (c : FCond) (cb : Combine) (fm : FpFmt) (pd : PReg) (a b : GReg) (s : State) :
    Host.Outcome State Fault Refusal :=
  compute (.fset c cb fm pd a b) s fun g => g.lanesCompare false c cb fm pd a b

/-- FSETS (R304). -/
def execFsets (c : FCond) (cb : Combine) (fm : FpFmt) (pd : PReg) (a b : GReg) (s : State) :
    Host.Outcome State Fault Refusal :=
  compute (.fsets c cb fm pd a b) s fun g => g.lanesCompare true c cb fm pd a b

/-- CVT (R305): the low sub-elements converted, the rest zero. -/
def execCvt (dst src : NumFmt) (rm : Option Round) (sat : Bool) (d a : GReg) (s : State) :
    Host.Outcome State Fault Refusal :=
  compute (.cvt dst src rm sat d a) s fun g => g.laneResultF d fun l =>
    let ws := numBits src
    let wd := numBits dst
    let r := (List.range (64 / max ws wd)).map fun i =>
      convert src dst (rm.getD (fmtRm g.fmt)) sat (fmtAsc g.fmt) (fmtBsc g.fmt) (sub (g.readR a l) ws i)
    (joinSubs wd (r.map Prod.fst), orFlags (r.map Prod.snd))

end Sys2Proof.Machine
end

