-- ==== Sys2Proof/Machine/Cross.lean ====
section
/-! DEFINITION. Cross-lane instructions and votes (R306 to R310, R137). -/

namespace Sys2Proof.Machine

/-- The sub-element a reading lane takes from source lane j (R306): none from an inactive lane. -/
def Group.srcSub (g : Group) (a : GReg) (w j i : Nat) : Option Nat :=
  match a with
  | .v n => if g.active.getLsbD j then some (sub (g.readV n j) w i) else none
  | a => some (sub (g.readR a j) w i)

/-- log2 of the sub-elements of a register. -/
def subLog (w : Width) : Nat := Nat.log2 (64 / Width.bits w)

/-- XLN and XLN.KEEP (R307). -/
def execXln (keep : Bool) (w : Width) (d a b : GReg) (s : State) : Host.Outcome State Fault Refusal :=
  compute (.xln keep w d a b) s fun g => g.laneResult d fun l =>
    let n := Width.bits w
    joinSubs n ((List.range (64 / n)).map fun i =>
      let y := sub (g.readR b l) n i
      (g.srcSub a n (y % 32) (y / 32 % 2 ^ subLog w)).getD (if keep then sub (g.readR d l) n i else 0))

/-- XLI reads for each position p of 32 × m the position given (R308). -/
def Group.laneXli (g : Group) (w : Width) (d a : GReg) (from_ : Nat → Nat → Nat × Nat) : Group :=
  let n := Width.bits w
  g.laneResult d fun l => joinSubs n ((List.range (64 / n)).map fun i =>
    (g.srcSub a n (from_ l i).1 (from_ l i).2).getD 0)

/-- XLI.BFLY (R308). -/
def execXliBfly (w : Width) (d a : GReg) (lane : Fin 32) (sb : Fin 8) (s : State) : Host.Outcome State Fault Refusal :=
  compute (.xliBfly w d a lane sb) s fun g => g.laneXli w d a fun l i => (l ^^^ lane.val, i ^^^ sb.val)

/-- XLI.BCAST (R308). -/
def execXliBcast (w : Width) (d a : GReg) (lane : Fin 32) (sb : Fin 8) (s : State) : Host.Outcome State Fault Refusal :=
  compute (.xliBcast w d a lane sb) s fun g => g.laneXli w d a fun _ _ => (lane.val, sb.val)

/-- The position k places round from sub-element i of lane l, of m sub-elements a lane. -/
def turned (m k l i : Nat) : Nat × Nat := ((l * m + i + k) % (32 * m) / m, (l * m + i + k) % (32 * m) % m)

/-- XLI.ROTUP (R308). -/
def execXliRotup (w : Width) (d a : GReg) (lane : Fin 32) (sb : Fin 8) (s : State) : Host.Outcome State Fault Refusal :=
  compute (.xliRotup w d a lane sb) s fun g => g.laneXli w d a fun l i =>
    let m := 64 / Width.bits w
    turned m (32 * m - (lane.val * m + sb.val) % (32 * m)) l i

/-- XLI.ROTDN (R308). -/
def execXliRotdn (w : Width) (d a : GReg) (lane : Fin 32) (sb : Fin 8) (s : State) : Host.Outcome State Fault Refusal :=
  compute (.xliRotdn w d a lane sb) s fun g => g.laneXli w d a fun l i =>
    let m := 64 / Width.bits w
    turned m (lane.val * m + sb.val) l i

/-- QX reads the register of another lane of the quad (R309). -/
def Group.laneQuad (g : Group) (d a : GReg) (from_ : Nat → Nat) : Group :=
  g.laneResult d fun l => dw ((g.srcSub a 64 (l / 4 * 4 + from_ (l % 4)) 0).getD 0)

/-- QXH (R309). -/
def execQxh (d a : GReg) (s : State) : Host.Outcome State Fault Refusal :=
  compute (.qxh d a) s fun g => g.laneQuad d a fun r => r ^^^ 1

/-- QXV (R309). -/
def execQxv (d a : GReg) (s : State) : Host.Outcome State Fault Refusal :=
  compute (.qxv d a) s fun g => g.laneQuad d a fun r => r ^^^ 2

/-- QXD (R309). -/
def execQxd (d a : GReg) (s : State) : Host.Outcome State Fault Refusal :=
  compute (.qxd d a) s fun g => g.laneQuad d a fun r => r ^^^ 3

/-- QBC0 (R309). -/
def execQbc0 (d a : GReg) (s : State) : Host.Outcome State Fault Refusal :=
  compute (.qbc0 d a) s fun g => g.laneQuad d a fun _ => 0

/-- QBC1 (R309). -/
def execQbc1 (d a : GReg) (s : State) : Host.Outcome State Fault Refusal :=
  compute (.qbc1 d a) s fun g => g.laneQuad d a fun _ => 1

/-- QBC2 (R309). -/
def execQbc2 (d a : GReg) (s : State) : Host.Outcome State Fault Refusal :=
  compute (.qbc2 d a) s fun g => g.laneQuad d a fun _ => 2

/-- QBC3 (R309). -/
def execQbc3 (d a : GReg) (s : State) : Host.Outcome State Fault Refusal :=
  compute (.qbc3 d a) s fun g => g.laneQuad d a fun _ => 3

/-- The active member lanes whose predicate has bit 0 set (R310). -/
def Group.voters (g : Group) (a : PReg) : List Nat := (lanesOf g.members).filter fun l => (g.readP a l).getLsbD 0

/-- VANY (R310). -/
def execVany (d a : PReg) (s : State) : Host.Outcome State Fault Refusal :=
  compute (.vany d a) s fun g => g.laneResultP d fun _ => if (g.voters a).isEmpty then 0 else 255

/-- VALL (R310). -/
def execVall (d a : PReg) (s : State) : Host.Outcome State Fault Refusal :=
  compute (.vall d a) s fun g => g.laneResultP d fun _ =>
    if (g.voters a).length = (lanesOf g.members).length then 255 else 0

/-- VBAL (R310). -/
def execVbal (d : GReg) (a : PReg) (s : State) : Host.Outcome State Fault Refusal :=
  compute (.vbal d a) s fun g => g.laneResult d fun _ => dw (maskOf fun l => (g.voters a).contains l).toNat

/-- MBCNT (R310). -/
def execMbcnt (d a : GReg) (s : State) : Host.Outcome State Fault Refusal :=
  compute (.mbcnt d a) s fun g => g.laneResult d fun l =>
    dw (popCount 32 ((g.readR a l).toNat % 2 ^ 32 &&& g.members.toNat &&& (2 ^ l - 1)))

/-- VFIRST (R310). -/
def execVfirst (d : GReg) (a : PReg) (s : State) : Host.Outcome State Fault Refusal :=
  compute (.vfirst d a) s fun g => g.laneResult d fun _ => dw ((g.voters a).head?.getD 32)

end Sys2Proof.Machine
end

