-- ==== Sys2Proof/Machine/Control.lean ====
section
/-! DEFINITION. Branches, calls, loops, guard spans, staging and the signature check (R140, R142, R148, R152, R158,
R280 to R285). -/

namespace Sys2Proof.Machine

/-- The target of a branch of format B (R245). -/
def branchTarget (pc : Dword) (off : BitVec 21) : Dword := pc + 4 + off.signExtend 64 * 4
/-- The target of CALL (R245). -/
def callTarget (pc : Dword) (off : BitVec 26) : Dword := pc + 4 + off.signExtend 64 * 4

/-- Completion with a transfer. -/
def Res.jump (g : Group) (pc : Dword) : Res := .grp g (.goto pc none)

/-- Bit 0 of a predicate in a lane. -/
def Group.vote (g : Group) (p : PReg) (l : Nat) : Bool := (g.readP p l).getLsbD 0

/-- BRA (R281). -/
def execBra (p : PReg) (n : Bool) (off : BitVec 21) (s : State) : Host.Outcome State Fault Refusal :=
  withCur (.bra p n off) false s fun _ _ g _ =>
    if (g.lanesOn.any fun l => g.vote p l) != n then .jump g (branchTarget g.pc off) else .of g

/-- BRL (R281). -/
def execBrl (p : PReg) (n : Bool) (off : BitVec 21) (s : State) : Host.Outcome State Fault Refusal :=
  withCur (.brl p n off) false s fun _ _ g _ =>
    if (g.lanesOn.all fun l => g.vote p l) != n then .jump g (branchTarget g.pc off) else .of g

/-- BRD (R140, R281). -/
def execBrd (p : PReg) (n : Bool) (off : BitVec 21) (s : State) : Host.Outcome State Fault Refusal :=
  withCur (.brd p n off) false s fun s _ g _ =>
    let taken := maskOf fun l => g.active.getLsbD l && (g.vote p l != n)
    if taken = 0 then .of g
    else if taken = g.active then .jump g (branchTarget g.pc off)
    else if 32 ≤ g.stack.length then .trap s .stackOverflow 0
    else .of { g with stack := ⟨true, g.fmt, branchTarget g.pc off, taken⟩ :: g.stack, exec := g.exec &&& ~~~taken }

/-- JOIN (R140, R281). -/
def execJoin (off : BitVec 21) (s : State) : Host.Outcome State Fault Refusal :=
  withCur (.join off) false s fun s _ g _ =>
    if 32 ≤ g.stack.length then .trap s .stackOverflow 0
    else .of { g with stack := ⟨false, g.fmt, branchTarget g.pc off, g.exec⟩ :: g.stack }

/-- ENDJ (R140, R157): the pop of a JOIN entry is a release of the paths' accesses (R183, R187). -/
def execEndj (s : State) : Host.Outcome State Fault Refusal :=
  withCur .endj false s fun s k g _ =>
    match g.stack with
    | [] => .trap s .stackOverflow 1
    | e :: r =>
      let g' := { g with exec := e.mask, fmt := e.fmt, stack := r }
      if e.path then .grp g' (.goto e.pc (some 0))
      else .done (setGroup (flushUpd s fun u => u.grp == k) k g') (.goto e.pc (some 1)) []

/-- CALL (R282). -/
def execCall (off : BitVec 26) (s : State) : Host.Outcome State Fault Refusal :=
  withCur (.call off) false s fun _ _ g _ => .jump (g.writeSn 15 (g.pc + 4)) (callTarget g.pc off)

/-- A transfer through a register: ALIGNMENT where the target is no multiple of 4 (R282). -/
def jumpTo (s : State) (g : Group) (target : Dword) : Res :=
  if target.toNat % 4 ≠ 0 then .trap s .alignment target else .jump g target

/-- JMPR (R282). -/
def execJmpr (a : SReg) (s : State) : Host.Outcome State Fault Refusal :=
  withCur (.jmpr a) false s fun s _ g _ => jumpTo s g (g.readS a)

/-- CALLR (R282). -/
def execCallr (a : SReg) (s : State) : Host.Outcome State Fault Refusal :=
  withCur (.callr a) false s fun s _ g _ => jumpTo s (g.writeSn 15 (g.pc + 4)) (g.readS a)

/-- RET (R282). -/
def execRet (s : State) : Host.Outcome State Fault Refusal :=
  withCur .ret false s fun s _ g _ => jumpTo s g (g.readSn 15)

/-- Does a body lie wholly within the body of every active loop (R152). -/
def Group.nests (g : Group) (start : Dword) (len : Nat) : Bool :=
  [g.lc0, g.lc1, g.lc2].all fun c =>
    !c.active || (c.start.toNat ≤ start.toNat && start.toNat + 4 * len ≤ c.start.toNat + 4 * c.len)

/-- LOOP and LOOPI (R152): the nest is checked before the count is examined. DESIGN CHOICE (log 74): a LOOP of count 0,
which starts no loop, leaves what an MTS has put into the inactive counter (R153) as it was. -/
def startLoop (s : State) (g : Group) (lc : Nat) (len1 : BitVec 8) (count : Nat) : Res :=
  let len := len1.toNat + 1
  if (g.lc lc).active || !g.nests (g.pc + 4) len then .trap s .loopNest (dw lc)
  else if count = 0 then .jump g (g.pc + 4 + dw (4 * len))
  else .of (g.setLc lc
    { active := true, count := BitVec.ofNat 32 count, start := g.pc + 4, len := len,
      order := max g.lc0.order (max g.lc1.order g.lc2.order) + 1 })

/-- LOOP (R152, R283). -/
def execLoop (lc : Fin 4) (len1 : BitVec 8) (cnt : SReg) (s : State) : Host.Outcome State Fault Refusal :=
  withCur (.loop lc len1 cnt) false s fun s _ g _ => startLoop s g lc len1 (bits (g.readS cnt) 31 0)

/-- LOOPI (R152, R283). -/
def execLoopi (lc : Fin 4) (len1 : BitVec 8) (cnt : BitVec 16) (s : State) : Host.Outcome State Fault Refusal :=
  withCur (.loopi lc len1 cnt) false s fun s _ g _ =>
    startLoop s g lc len1 (if cnt = 0 then 65536 else cnt.toNat)

/-- GSPAN (R142, R284): the mask is read when it issues, in every lane. -/
def execGspan (p : PReg) (n : Bool) (cnt1 : Fin 16) (s : State) : Host.Outcome State Fault Refusal :=
  withCur (.gspan p n cnt1) false s fun _ _ g _ =>
    .of { g with gmask := maskOf fun l => g.vote p l != n, grem := cnt1.val + 1 }

/-- STAGE (R148): the registers named, ascending, until 16 are staged. -/
def execStage (base : VReg) (mask : BitVec 19) (s : State) : Host.Outcome State Fault Refusal :=
  withCur (.stage base mask) false s fun _ _ g b =>
    let named := ((List.range 19).filter fun i =>
      mask.getLsbD i && base.val + i ≤ 111 && g.wbase + base.val + i < 32 * b.vregs).map (g.wbase + base.val + ·)
    let held := if g.staging then g.wings else []
    .of { g with wings := (held ++ named.filter fun r => !held.contains r).take 16 }

/-- SIGCK (R158, R280). -/
def execSigck (imm : BitVec 16) (s : State) : Host.Outcome State Fault Refusal :=
  withCur (.sigck imm) false s fun s _ g b =>
    if !sigenOf s b then .of g
    else if !g.sig.getLsbD 16 && g.hash ≠ imm.toNat then .trap s .signature (dw (g.hash * 2 ^ 16 + imm.toNat))
    else .of { g with sig := 0 }

/-- SIGRST (R271). -/
def execSigrst (s : State) : Host.Outcome State Fault Refusal :=
  withCur .sigrst false s fun s _ g b => .of (if sigenOf s b then { g with sig := 0 } else g)

/-- NOP (R271). -/
def execNop (s : State) : Host.Outcome State Fault Refusal := compute .nop s fun g => g

end Sys2Proof.Machine
end

