-- ==== Sys2Proof/Machine/System.lean ====
section
/-! DEFINITION. System instructions: exit, traps, returns, waits, special registers, windows, FMT, safe points, user
records (R90, R91, R119, R138, R144, R146, R155, R257 to R260, R271 to R280, R344, R362, R363, R388, R392). -/

namespace Sys2Proof.Machine

/-! Special registers (R258). -/

/-- What MFS reads in a lane (R257, R258). -/
def readSys (s : State) (g : Group) (b : Block) (sel lane : Nat) : Dword :=
  let l := aget s.launches b.launch
  let die := b.core / 40
  match sel with
  | 0x001 => dw g.exec.toNat
  | 0x002 => dw g.lmem.toNat
  | 0x003 => g.fmt
  | 0x010 => dw g.fpxNV.toNat
  | 0x011 => dw g.fpxDZ.toNat
  | 0x012 => dw g.fpxOF.toNat
  | 0x013 => dw g.fpxUF.toNat
  | 0x014 => dw g.fpxNX.toNat
  | 0x020 => dw lane
  | 0x021 => dw g.idx
  | 0x022 => dw b.x
  | 0x023 => dw b.y
  | 0x024 => dw b.z
  | 0x025 => dw (b.id / (headerOf s b.launch).csize)
  | 0x026 => dw b.rank
  | 0x027 => dw ((l.map Launch.gx).getD 0)
  | 0x028 => dw ((l.map Launch.gy).getD 0)
  | 0x029 => dw ((l.map Launch.gz).getD 0)
  | 0x030 => dw b.lcore
  | 0x031 => dw die
  | 0x040 => lcReg g.lc0
  | 0x041 => lcReg g.lc1
  | 0x042 => lcReg g.lc2
  | 0x050 => if sigenOf s b then dw g.sig.toNat else 0
  | 0x060 => g.gang
  | 0x061 => dw g.wbase
  | 0x062 => dw g.awbase
  | 0x063 => rsdepthReg g
  | 0x064 => g.mdata
  | 0x065 => b.accin
  | 0x066 => dw g.ghold.toNat
  | 0x070 => dw (timeOf s)
  | 0x080 => dw g.trapCause.toNat
  | 0x081 => g.trapPc
  | 0x082 => g.trapVal
  | 0x100 => harvestReg s die 0
  | 0x101 => harvestReg s die 1
  | 0x102 => harvestReg s die 2
  | 0x103 => harvestReg s die 3
  | n => if 0x152 ≤ n then BitVec.allOnes 64 else ltpReg s die (n - 0x140)

/-- Low 32 bits as a mask. -/
def lowMask (v : Dword) : Mask := BitVec.ofNat 32 v.toNat

/-- Is a value accepted by GANG (R363). -/
def gangOk (v : Dword) : Bool :=
  let m := gangMode v
  let sz := gangSize v
  if m = 0 then gangGid v == 0 && gangMember v == 0 && sz == 0
  else if m = 3 then sz == 2
  else (sz == 1 || sz == 2) && gangMember v < 2 ^ sz

/-- TRAPVAL of a GANG fault (R366). -/
def gangVal (value reason gid : Nat) : Dword := dw (value * 2 ^ 16 + reason * 2 ^ 8 + gid)

/-- The checks of ACCIN with EN = 1 (R388). -/
def accinFault (s : State) (b : Block) (v : Dword) : Option Trap :=
  if !bit v 63 then none
  else if bits v 37 32 ≠ 0 then some .reservedField
  else if b.lapl < bits v 53 46 + bits v 45 38 + 1 then some .allotment
  else
    match aget (ctxOf s b.ctx).colls (bits v 62 54) with
    | some e => if e.rooted || bits v 31 0 % 32 ≠ 0 then some .protection else none
    | none => some .protection

/-- The bits of a value that ACCIN holds: its Zero field [37:32] stays zero (R5, R388). -/
def accinBits (v : Dword) : Dword := dw (bits v 63 38 * 2 ^ 38 + bits v 31 0)

/-- What MTS makes of the machine (R257, R258): the registers not listed are read-only. -/
def writeSys (s : State) (g : Group) (b : Block) (sel : Nat) (v : Dword) : Res :=
  let lc (n : Nat) : Res := .of (g.setLc n { g.lc n with count := BitVec.ofNat 32 v.toNat })
  match sel with
  | 0x001 => .of { g with exec := lowMask v }
  | 0x002 => .of { g with lmem := lowMask v }
  | 0x003 => if fmtLegal v then .of { g with fmt := v } else .trap s .format v
  | 0x010 => .of { g with fpxNV := lowMask v }
  | 0x011 => .of { g with fpxDZ := lowMask v }
  | 0x012 => .of { g with fpxOF := lowMask v }
  | 0x013 => .of { g with fpxUF := lowMask v }
  | 0x014 => .of { g with fpxNX := lowMask v }
  | 0x040 => lc 0
  | 0x041 => lc 1
  | 0x042 => lc 2
  | 0x050 => .of (if sigenOf s b then { g with sig := BitVec.ofNat 17 v.toNat } else g)
  | 0x060 =>
    if gangOk v then .of { g with gang := gangBits v }
    else .trap s .gang (gangVal (bits v 12 0) 1 (gangGid v))
  | 0x064 => .of { g with mdata := v }
  | 0x065 =>
    match accinFault s b v with
    | some t => .trap s t v
    | none => .done { s with blocks := amod s.blocks g.blk fun b => { b with accin := accinBits v } } .seq []
  | 0x080 => .of { g with trapCause := BitVec.ofNat 8 v.toNat }
  | 0x081 => .of { g with trapPc := dw (bits v 55 0 / 4 * 4) }
  | 0x082 => .of { g with trapVal := v }
  | _ => .of g

/-- MFS (R257). -/
def execMfs (d : GReg) (sel : Fin 16384) (s : State) : Host.Outcome State Fault Refusal :=
  withCur (.mfs d sel) false s fun s _ g b => .of (g.laneResult d fun l => readSys s g b sel l)

/-- MTS (R257): a vector source without an active lane writes nothing. -/
def execMts (sel : Fin 16384) (d : GReg) (s : State) : Host.Outcome State Fault Refusal :=
  withCur (.mts sel d) false s fun s _ g b =>
    match g.readOne d with
    | none => .of g
    | some v => writeSys s g b sel v

/-- CLOCK (R277). -/
def execClock (d : GReg) (s : State) : Host.Outcome State Fault Refusal :=
  withCur (.clock d) false s fun s _ g _ => .of (g.laneResult d fun _ => dw s.clock)

/-- FMTGET (R271). -/
def execFmtget (d : GReg) (s : State) : Host.Outcome State Fault Refusal :=
  compute (.fmtget d) s fun g => g.laneResult d fun _ => g.fmt

/-- FMTSET (R276): a mask of z selects every bit. -/
def execFmtset (a b : SReg) (s : State) : Host.Outcome State Fault Refusal :=
  withCur (.fmtset a b) false s fun s _ g _ =>
    let m := match b with
      | .z => BitVec.allOnes 64
      | b => g.readS b
    let v := (g.fmt &&& ~~~m) ||| (g.readS a &&& m)
    if fmtLegal v then .of { g with fmt := v } else .trap s .format v

/-- WIN (R146): waits for every pending result. -/
def execWin (a : SReg) (s : State) : Host.Outcome State Fault Refusal :=
  withCur (.win a) true s fun s _ g b =>
    let v := g.readS a
    if v.toNat % 8 = 0 && v.toNat + 8 ≤ 32 * b.vregs then .of { g with wbase := v.toNat } else .trap s .windowRange v

/-- AWIN (R344): waits for every pending result. -/
def execAwin (a : SReg) (s : State) : Host.Outcome State Fault Refusal :=
  withCur (.awin a) true s fun s _ g b =>
    let v := g.readS a
    if v.toNat % 8 = 0 && (v = 0 || v.toNat < b.lapl) then .of { g with awbase := v.toNat } else .trap s .allotment v

/-! Ends, traps and returns. -/

/-- EXIT (R272). -/
def execExit (s : State) : Host.Outcome State Fault Refusal :=
  withCur .exit true s fun s k g _ =>
    if g.inRoutine then .trap s .illegal (misplaced .exit)
    else .gone (endGroup (drainGroup s k drainAll) k false)

/-- TRAP (R273). -/
def execTrap (code : Fin 128) (a : GReg) (s : State) : Host.Outcome State Fault Refusal :=
  withCur (.trap code a) false s fun s _ g _ =>
    .trapAt s (.user (BitVec.ofNat 8 code)) ((g.readOne a).getD 0) (g.pc + 4)

/-- BKPT (R273). -/
def execBkpt (s : State) : Host.Outcome State Fault Refusal :=
  withCur .bkpt false s fun s _ _ _ => .trap s .bkpt 0

/-- The RTT that ends a restore routine (R91, R144): s0 to s15 from the header, the span as held, and on after the CUE. -/
def endRestore (s : State) (g : Group) (b : Block) : Group :=
  let at_ := slotVa s b + areaAt b g.idx
  let regs := (List.range 16).foldl (fun r i => asetD r i (getDw s b (at_ + 256 + 8 * i)) 0) []
  { g.trapReturn (sigenOf s b) with sregs := regs, regBad := (badWords s b (at_ + 256) 8 16).map (2 ^ 16 + ·), trapPc := g.trapPc, st := .running }

/-- RTT (R144, R90, R91, R158, R396): from a handler, or the end of a save or restore routine. -/
def execRtt (s : State) : Host.Outcome State Fault Refusal :=
  withCur .rtt true s fun s k g b =>
    match g.routine with
    | .none => .trap s .illegal (misplaced .rtt)
    | .handler =>
      if g.lost then .gone (haltGroup s k)
      else .jump (g.trapReturn (sigenOf s b)) g.trapPc
    | .save _ =>
      if clusterAborted s b then .gone (haltLost s k g g.trapVal)
      else .gone (setGroup s k { g.vacate .routine with pend := [], routine := .none, inh := false })
    | .restore => .jump (endRestore s g b) (pcBits (getDw s b (slotVa s b + areaAt b g.idx)))

/-! Waits and windows. -/

/-- YIELD (R274, R95): a pending pre-emption takes the group once the YIELD has completed. -/
def execYield (s : State) : Host.Outcome State Fault Refusal :=
  withCur .yield true s fun s k g b =>
    if b.pre.isSome && g.nopre.isNone && g.st == .running then
      .gone (dumpGroup (complete .yield g b k s .seq []) k .dump)
    else .of { g with yieldAt := some s.clock }

/-- SLEEP (R274). -/
def execSleep (a : SReg) (s : State) : Host.Outcome State Fault Refusal :=
  withCur (.sleep a) false s fun s _ g _ =>
    let v := g.readS a
    if bits v 63 32 ≠ 0 then .trap s .reservedField v
    else if v = 0 then .of g
    else .block s (.sleep (s.clock + nsClocks v.toNat))

/-- NOPRE (R275). -/
def execNopre (s : State) : Host.Outcome State Fault Refusal :=
  withCur .nopre false s fun s _ g _ => .of (if g.nopre.isSome then g else { g with nopre := some s.clock })

/-- The 200 µs of R90, in ns. -/
abbrev fallbackNs : Nat := 200000

/-- OKPRE (R275): where the fallback of R90 is due already, the group is dumped once the OKPRE has completed. -/
def execOkpre (s : State) : Host.Outcome State Fault Refusal :=
  withCur .okpre false s fun s k g b =>
    let due := match b.pre with
      | some t => decide (t + nsClocks fallbackNs ≤ s.clock)
      | none => false
    if g.nopre.isSome && due && g.st == .running then
      .gone (dumpGroup (complete .okpre g b k (setGroup s k { g with nopre := none }) .seq []) k .dump)
    else .of { g with nopre := none }

/-! Safe points (R90, R119, R155). -/

/-- One dword of a table read by the hardware for a group; none where it cannot be read. -/
def tableDw (s : State) (b : Block) (va : Nat) : Option Dword :=
  match laneChk s b.ctx .load 8 (dw va) with
  | .ok t =>
    if (lateChk s b.core .load 8 (dw va) t).isSome then none
    else
      match coreLoad s b.core t.key t.pa 8 with
      | (_, .ok l) => some (dwordAt l 0)
      | _ => none
  | _ => none

/-- Binary search of the safe-point table for an id: at most fuel entries are looked at (R119). Which entries a lookup
looks at is the model's choice, and that one of them that cannot be read makes the CUE no safe point (log 68). -/
def safeFind (s : State) (b : Block) (h : Header) (id : Nat) : Nat → Nat → Nat → Option Nat
  | 0, _, _ => none
  | fuel + 1, lo, hi =>
    if hi ≤ lo then none
    else
      let mid := (lo + hi) / 2
      match tableDw s b (h.safeTab.toNat + 32 * mid) with
      | none => none
      | some d =>
        if d.toNat % 2 ^ 16 = id then some mid
        else if d.toNat % 2 ^ 16 < id then safeFind s b h id fuel (mid + 1) hi
        else safeFind s b h id fuel lo mid

/-- The well-formed safe-point entry of an id: save and restore routines (R119). How far 'breaks the ordering of the table'
reaches is not stated: here the entry is compared with its two neighbours, and one that cannot be read is in order (log
68). -/
def safePoint (s : State) (b : Block) (h : Header) (id : Nat) : Option (Dword × Dword) :=
  if id = 0xFFFF then none
  else
    match safeFind s b h id 13 0 h.safeN with
    | none => none
    | some n =>
      let e (i : Nat) : Option Dword := tableDw s b (h.safeTab.toNat + 32 * n + 8 * i)
      let idAt (i : Nat) : Option Nat := (tableDw s b (h.safeTab.toNat + 32 * i)).map fun d => d.toNat % 2 ^ 16
      match e 0, e 1, e 2, e 3 with
      | some a, some x, some y, some z =>
        let okAddr (v : Dword) : Bool := bits v 63 56 == 0 && v.toNat % 4 == 0
        let before := n = 0 || (idAt (n - 1)).all fun i => decide (i < id)
        let after := h.safeN ≤ n + 1 || (idAt (n + 1)).all fun i => decide (id < i)
        if bits a 63 16 == 0 && okAddr x && okAddr y && z == 0 && before && after then some (x, y) else none
      | _, _, _, _ => none

/-- Enters the save routine of a CUE that has completed (R90, R144): the span is held and INH is 1, and the header is
written so with KIND 0, for the restore routine to find the held mask in it (R91; log 67). -/
def enterSave (s : State) (k : Nat) (b : Block) (id : BitVec 16) (e : Dword × Dword) : State :=
  match aget s.groups k with
  | none => s
  | some g =>
    let h := { g with
      cueId := id, restorePc := e.2, gheld := g.grem, ghold := g.gmask, grem := 0, gmask := 0, inh := true,
      routine := .save id, st := .saving, region := none }
    let s := saveHeader s b h .routine g.pc
    let g := { h with pc := e.1 }
    setGroup s k ((g.writeSn 0 (dw (slotVa s b))).writeSn 1 (dw id.toNat))

/-- CUE (R90, R119, R155, R280). -/
def execCue (id : BitVec 16) (s : State) : Host.Outcome State Fault Refusal :=
  withCur (.cue id) true s fun s k g b =>
    if b.pre.isNone || g.inh || g.nopre.isSome || g.st != .running then .of g
    else if g.region.isSome then .gone (dumpGroup s k .restart)
    else
      match safePoint s b (headerOf s b.launch) id.toNat with
      | none => .of g
      | some e => .gone (enterSave (complete (.cue id) g b k s .seq []) k b id e)

/-! User records (R279, R408 to R410). -/

/-- RECORD (R279). -/
def execRecord (a : SReg) (s : State) : Host.Outcome State Fault Refusal :=
  withCur (.record a) false s fun s _ g b =>
    let x := ctxOf s b.ctx
    let die := b.core / 40
    if g.inh || !(x.place || x.obs || x.sched != 0) then .of g
    else if bookFull s die 1 then .trap s .bookFull (dw (4 * 16 + die))
    else
      let lane := g.lanesOn.head?.getD 0
      .done (bookPut s die 4 b.ctx (g.readS a) (groupAgent b { g with observed := [] } lane)) .seq []

end Sys2Proof.Machine
end

