-- ==== Sys2Proof/Machine/Lanes.lean ====
section
/-! DEFINITION. One access by each lane of a group: the checks of R313 in order, room in the books (R410), the
deterministic grant (R411), and what each lane brings back (R136, R229, R247). -/

namespace Sys2Proof.Machine

/-- One lane's access after checks 1 to 5 of R313. -/
structure LaneAcc where
  lane : Nat
  va : Dword
  member : Bool
  chk : LaneChk
deriving DecidableEq, Repr

/-- The accesses of lanes. -/
def laneAccs (s : State) (g : Group) (b : Block) (k : AccKind) (size : Nat) (ls : List Nat) (va : Nat → Dword) :
    List LaneAcc :=
  ls.map fun l => ⟨l, va l, g.isMember l, laneChk s b.ctx k size (va l)⟩

/-- Does a lane report its page absent: a helper lane never does (R136). -/
def LaneAcc.absent (a : LaneAcc) : Bool := a.member && a.chk == .absent

/-- The translation of a lane that may make its access. -/
def LaneAcc.tr (a : LaneAcc) : Option Tr :=
  match a.chk with
  | .ok t => some t
  | _ => none

/-- The fault of checks 1 to 5 (R313): PAGE_ABSENT where there is no residency predicate, with the lowest absent
address (R229). -/
def earlyFault (l : List LaneAcc) (pt : Bool) : Option (Trap × Dword) :=
  let bad := l.filterMap fun a =>
    match a.chk with
    | .bad n t => if a.member then some (n, t, a.va) else none
    | _ => none
  match earliest bad with
  | some f => some f
  | none =>
    match l.filter LaneAcc.absent with
    | [] => none
    | a :: r => if pt then some (.pageAbsent, r.foldl (fun m x => if x.va.toNat < m.toNat then x.va else m) a.va) else none

/-- BOOK_FULL for the ACCESS records of accesses (R410): the lowest die whose book has no room for its records. -/
def bookShort (s : State) (b : Block) (g : Group) (l : List Tr) : Option (Trap × Dword) :=
  let obs := l.filter (logsAccess s b g)
  ((List.range 4).find? fun d => bookFull s d (obs.filter fun t => homeDie t.pa = d).length).map fun d =>
    (.bookFull, dw (3 * 16 + d))

/-- Check 6 of R313 and unreachable peers, of member lanes. -/
def lateFault (s : State) (b : Block) (k : AccKind) (size : Nat) (l : List LaneAcc) : Option (Trap × Dword) :=
  earliest (l.filterMap fun a =>
    match a.tr with
    | some t => if a.member then lateChk s b.core k size a.va t else none
    | none => none)

/-- The lanes in the order their operations are performed: ascending, but for lanes of one RMW that name one location,
whose order is open (R180) unless the launch is deterministic and the page OBSERVED (R411). -/
def laneOrder (s : State) (size : Nat) (fixed det : Bool) (l : List LaneAcc) : List LaneAcc :=
  let kept (a : LaneAcc) : Bool := det && a.tr.any Tr.observed
  let shared := l.any fun a => l.any fun b =>
    a.lane != b.lane && decide (a.va.toNat < b.va.toNat + size) && decide (b.va.toNat < a.va.toNat + size)
  if shared && !fixed then
    l.filter kept ++ sortBy (fun x y => Config.freeRank s.freeCtr x.lane ≤ Config.freeRank s.freeCtr y.lane)
      (l.filter fun a => !kept a)
  else l

/-- What the lanes' accesses gave: the state, each lane's value, or the address that met ERR (R211). -/
abbrev LaneVals := (State × List (Nat × Dword)) ⊕ Dword

/-- Makes one access a lane in list order: a lane that makes none gives 0, as does a helper lane whose access would
fault (R136). The groups that watch a line test between two RMWs of it (R170, R180). -/
def eachLane (s : State) (b : Block) (k : AccKind) (size : Nat) (l : List LaneAcc)
    (f : State → LaneAcc → Tr → Option (State × Dword)) : LaneVals :=
  l.foldl (fun r a =>
    match r with
    | .inr v => .inr v
    | .inl (s, vs) =>
      match a.tr with
      | none => .inl (s, vs ++ [(a.lane, 0)])
      | some t =>
        if (lateChk s b.core k size a.va t).isSome then .inl (s, vs ++ [(a.lane, 0)])
        else
          let near := k = .rmw && l.any fun x => x.lane != a.lane && x.tr.any fun u => u.pa / 128 = t.pa / 128
          match f (if near then noteWatch s else s) a t with
          | some (s, v) => .inl (s, vs ++ [(a.lane, v)])
          | none => if a.member then .inr a.va else .inl (s, vs ++ [(a.lane, 0)])) (.inl (s, []))

/-- The requests that the accesses of lanes make (R342): of those that reach memory, but for pages whose stores are
contributions (R381). -/
def askLanes (s : State) (b : Block) (k : AccKind) (size : Nat) (l : List LaneAcc) : State × AMap Asked :=
  askQuarters s b.core k (l.filterMap fun a =>
    match a.tr with
    | some t =>
      if (k.writes && t.reduce) || (lateChk s b.core k size a.va t).isSome then none else some (t.key, t.pa, size)
    | none => none)

/-- What a lane does once the requests of its instruction have been made. -/
abbrev LaneStep := AMap Asked → State → LaneAcc → Tr → Option (State × Dword)

/-- Finds the errors of the lanes that meet POISON, having made what other accesses are made (R227, R313). -/
def poisonLanes (s : State) (b : Block) (k : AccKind) (size : Nat) (l : List LaneAcc) (f : LaneStep) : State :=
  let s1 := { s with freeCtr := s.freeCtr + 1 }
  let some_ := l.filter fun a => Config.freeLane s.freeCtr a.lane
  let r := askLanes s1 b k size some_
  let s2 := match if askWaits r.2 then .inr 0 else eachLane r.1 b k size some_ (f r.2) with
    | .inl (s, _) => s
    | .inr _ => r.1
  l.foldl (fun s a =>
    match a.tr with
    | some t => if a.member && inError s t.pa size then findErrors s t.pa size else s
    | none => s) s2

/-- Is the launch of a block deterministic (R411). -/
def detOf (s : State) (b : Block) : Bool := ((aget s.launches b.launch).map Launch.det).getD false

/-- What ends an access instruction before any of its accesses: the faults in their order, the wait for its grant
(R411), and the wait for a way on which traffic is held (R375, R377); none when every access is made. -/
def accessEnds (s : State) (g : Group) (b : Block) (k : AccKind) (size : Nat) (f : PReg) (grant : Bool)
    (l : List LaneAcc) (step : LaneStep) : Option Res :=
  match earlyFault l (f == 15) with
  | some (t, v) => some (.trap s t v)
  | none =>
    let trs := l.filterMap LaneAcc.tr
    match bookShort s b g trs with
    | some (t, v) => some (.trap s t v)
    | none =>
      if grant && detOf s b && (trs.any Tr.observed) && !granted s b g then some (.block s .grant)
      else
        match lateFault s b k size l with
        | some (t, v) => some (.trap (if t == .poison then poisonLanes s b k size l step else s) t v)
        | none => if trs.any (Tr.held s b.core k) then some (.stall s) else none

/-- The course of an access instruction: what ends it first, else the accesses, then what `done` makes of the lanes'
values. `fixed` says that the order of its lanes is, and `grant` that a deterministic launch orders it. -/
def accessLanes (s : State) (g : Group) (b : Block) (k : AccKind) (size : Nat) (f : PReg) (fixed grant : Bool)
    (l : List LaneAcc) (step : LaneStep) (done : State → List (Nat × Dword) → Res) : Res :=
  match accessEnds s g b k size f grant l step with
  | some r => r
  | none =>
    let order := laneOrder s size fixed (detOf s b) l
    let s' := if fixed then s else { s with freeCtr := s.freeCtr + 1 }
    let r := askLanes s' b k size l
    if askWaits r.2 then .stall r.1
    else
      match eachLane r.1 b k size order (step r.2) with
      | .inl (s, vs) => done s vs
      | .inr v => .trap s .protection v

/-- Writes residency flags (R229, R248): each active lane's own, or one result in every active lane (R247). -/
def Group.flags (g : Group) (f : PReg) (l : List LaneAcc) (share : Bool) : Group :=
  let flag (a : LaneAcc) : BitVec 8 := if a.absent then 255 else 0
  g.laneResultP f fun lane =>
    match if share then l.head? else l.find? fun a => a.lane == lane with
    | some a => flag a
    | none => 0

/-- A register kind names a scalar. -/
def GReg.scalar : GReg → Bool
  | .s _ => true
  | _ => false

/-- Changes a group of the state. -/
def modGroup (s : State) (k : Nat) (f : Group → Group) : State := { s with groups := amod s.groups k f }

/-- Completes an access instruction with values for d and flags for f. -/
def finishLanes (k : Nat) (d : GReg) (f : PReg) (l : List LaneAcc) (s : State) (vs : List (Nat × Dword)) : Res :=
  .done (modGroup s k fun g => (g.writeAll d vs).flags f l (GReg.scalar d)) .seq []

/-- Reads n bytes of a lane's page, with its record (R409). -/
def laneRead (k : Nat) (b : Block) (n : Nat) (m : AMap Asked) (s : State) (a : LaneAcc) (t : Tr) :
    Option (State × List Byte) :=
  (loadAsked s b.core t.key t.pa n m).map fun l => (noteAccess s k b a.lane t n .read, l)

/-- Stores bytes to a lane's page, with its record unless it met ERR (R211, R409). -/
def laneWrite (k : Nat) (b : Block) (asked : AMap Asked) (s : State) (a : LaneAcc) (t : Tr) (data : List Byte) :
    State :=
  let s' := storeAsked s b.core k t.key t.pa data asked
  if s'.cohErrs == s.cohErrs then noteAccess s' k b a.lane t data.length .write else s'

/-- The course of a store instruction whose lanes write `size` bytes each: `data` of a lane; on a REDUCE page what
`contr` makes of it (R381). The lanes' stores ask for each quarter once (R342); the highest-numbered lane's value remains
(R180). -/
def storeLanes (s : State) (g : Group) (b : Block) (gk : Nat) (k : AccKind) (size : Nat) (f : PReg) (l : List LaneAcc)
    (data : LaneAcc → List Byte) (contr : State → LaneAcc → Tr → State) (done : State → Res) : Res :=
  accessLanes s g b k size f true false l
    (fun m s a t => some (if t.reduce then contr s a t else laneWrite gk b m s a t (data a), 0))
    fun s _ => done s

/-- What a read for the whole group comes to: a fault, a wait for the way to its address, or the bytes. -/
inductive GroupRead where
  | bad (t : Trap) (v : Dword)
  | held
  | bytes (l : List Byte)
deriving DecidableEq, Repr

/-- The access that a read for the whole group makes. -/
def groupAcc (s : State) (g : Group) (b : Block) (va : Dword) (n : Nat) : LaneAcc :=
  ⟨g.lanesOn.head?.getD 0, va, true, laneChk s b.ctx .load n va⟩

/-- A fault that such a read meets at a page that it may use (R227, R394), with the errors it finds. -/
def groupLate (s : State) (b : Block) (va : Dword) (n : Nat) (t : Tr) : Option (State × Trap × Dword) :=
  (lateChk s b.core .load n va t).map fun (_, tr, x) => (if tr == .poison then findErrors s t.pa n else s, tr, x)

/-- A read that one access makes for the whole group (R316, R170, R278). -/
def groupRead (s : State) (k : Nat) (g : Group) (b : Block) (va : Dword) (n : Nat) : State × GroupRead :=
  let a := groupAcc s g b va n
  match earlyFault [a] true, a.tr with
  | some (t, v), _ => (s, .bad t v)
  | none, none => (s, .bad .pageAbsent va)
  | none, some t =>
    match bookShort s b g [t], groupLate s b va n t with
    | some (t, v), _ => (s, .bad t v)
    | none, some (s, tr, x) => (s, .bad tr x)
    | none, none =>
      if t.held s b.core .load then (s, .held)
      else
        let r := askLanes s b .load n [a]
        if askWaits r.2 then (r.1, .held)
        else
          match laneRead k b n r.2 r.1 a t with
          | none => (r.1, .bad .protection va)
          | some (s, l) => (s, .bytes l)

/-- The fault, if any, of the page that such a read names: absent, not readable or in error (R278, check 3). -/
def groupFault (s : State) (g : Group) (b : Block) (va : Dword) (n : Nat) : Option (State × Trap × Dword) :=
  let a := groupAcc s g b va n
  match earlyFault [a] true, a.tr with
  | some (t, v), _ => some (s, t, v)
  | none, none => some (s, .pageAbsent, va)
  | none, some t => groupLate s b va n t

end Sys2Proof.Machine
end

