-- ==== Sys2Proof/Machine/Sync.lean ====
section
/-! DEFINITION. SYNC: fences, barriers, batches, memory waits, queue fences (R111, R162 to R173, R182, R329). -/

namespace Sys2Proof.Machine

/-- A SYNC function that completes with a status (R163). -/
def Res.status (g : Group) (pd : PReg) (ok : Bool) : Res := .of (g.status pd ok)

/-- Merges a group's buffered updates, as a release does (R178). -/
def releaseGroup (s : State) (k : Nat) : State := flushUpd s fun u => u.grp == k

/-! Fences (R182). -/

/-- 2 ms in ns. -/
abbrev fenceNs : Nat := 2000000

/-- The posted writes of a group chosen are lost. -/
def losePosted (s : State) (k : Nat) (p : Posted → Bool) : State :=
  let gone := s.posted.filter fun w => w.grp == k && p w
  { s with posted := s.posted.filter fun w => !(w.grp == k && p w),
           lostPeers := s.lostPeers ++ gone.map fun w => (k, w.peer) }

/-- A system fence of group k that has waited as long as it is to wait: status, or REMOTE_LOSS with pd = pt. -/
def endSystemFence (s : State) (k : Nat) (g : Group) (pd : PReg) : Res :=
  let lost := (s.lostPeers.filter fun x => x.1 == k).map Prod.snd
  let s := { s with lostPeers := s.lostPeers.filter fun x => !(x.1 == k) }
  let g := { g with fenceAt := none }
  match lost with
  | [] => .done (setGroup s k (g.status pd true)) .seq []
  | pos :: _ => if pd = 15 then .trap s .remoteLoss (dw pos) else .done (setGroup s k (g.status pd false)) .seq []

/-- A fence that releases: merges, and at system scope waits for writes posted to other modules, through any retraining;
those whose peer an LSU has made unreachable are lost then (R182, R378). Updates on whose way traffic is held are waited for
likewise. -/
def releaseFence (pd : PReg) (sc : Scope) (s : State) (k : Nat) (g : Group) (b : Block) : Res :=
  let s := releaseGroup s k
  if sc ≠ .sys then .done (setGroup s k (g.status pd true)) .seq []
  else
    let p := partOfDie s (b.core / 40)
    let s := losePosted s k fun w => peerLost s p w.peer w.pa
    let start := g.fenceAt.getD s.clock
    let late := g.fenceAt.isSome && start + nsClocks fenceNs ≤ s.clock
    if late then endSystemFence (losePosted s k fun _ => true) k g pd
    else if heldUpd s k || s.posted.any fun w => w.grp == k then .stall (setGroup s k { g with fenceAt := some start })
    else endSystemFence s k g pd

/-- FENCE.acq (R182): every earlier read has returned. -/
def execFenceAcq (pd : PReg) (sc : Scope) (s : State) : Host.Outcome State Fault Refusal :=
  withCur (.fenceAcq pd sc) true s fun _ _ g _ => .status g pd true

/-- FENCE.rel (R182). -/
def execFenceRel (pd : PReg) (sc : Scope) (s : State) : Host.Outcome State Fault Refusal :=
  withCur (.fenceRel pd sc) true s fun s k g b => releaseFence pd sc s k g b

/-- FENCE.ar (R182). -/
def execFenceAr (pd : PReg) (sc : Scope) (s : State) : Host.Outcome State Fault Refusal :=
  withCur (.fenceAr pd sc) true s fun s k g b => releaseFence pd sc s k g b

/-! Barriers (R164 to R168). -/

/-- TRAPVAL of BARRIER_MASK (R165). -/
def barVal (cls : Bool) (reason id : Nat) : Dword := dw (b2n cls * 2 ^ 16 + reason * 2 ^ 8 + id)

/-- BAR.INIT (R164). -/
def execBarInit (id : Fin 64) (a : SReg) (s : State) : Host.Outcome State Fault Refusal :=
  withCur (.barInit id a) true s fun s k g b =>
    let v := bits (g.readS a) 31 0
    let m := BitVec.ofNat 128 v &&& liveBlock s g.blk
    if b.barsN ≤ id.val then .trap s .barrierMask (barVal false 1 id)
    else if v / 2 ^ b.groups ≠ 0 || m = 0 then .trap s .barrierMask (barVal false 6 id)
    else if (namedBar b id).arr ≠ 0 then .trap s .barrierMask (barVal false 5 id)
    else .done (setGroup (setNamed s g.blk id { namedBar b id with mask := m }) k g) .seq []

/-- The arrival of group k at a named barrier (R164), or the reason it faults. -/
def arriveNamed (s : State) (k : Nat) (g : Group) (b : Block) (id : Nat) : State ⊕ Nat :=
  let x := namedBar b id
  if b.barsN ≤ id then .inr 1
  else if !x.mask.getLsbD g.idx then .inr 2
  else if x.arr.getLsbD g.idx then .inr 3
  else .inl (settleNamed (setNamed (releaseGroup s k) g.blk id (x.arrive g.idx)) g.blk id 0)

/-- The wait of a group at a named barrier (R164). -/
def waitNamed (s : State) (k : Nat) (g : Group) (id : Nat) (pd : PReg) : Res :=
  match aget s.blocks g.blk with
  | none => .gone s
  | some b =>
    let x := namedBar b id
    if b.barsN ≤ id then .trap s .barrierMask (barVal false 1 id)
    else if !x.seen.getLsbD g.idx then .trap s .barrierMask (barVal false 4 id)
    else if x.done g.idx then
      match aget s.groups k with
      | some g => .done (setGroup s k (g.status pd (x.lst.getLsbD g.idx))) .seq []
      | none => .gone s
    else .block s (.bar false id)

/-- BAR.ARR (R164). -/
def execBarArr (id : Fin 64) (s : State) : Host.Outcome State Fault Refusal :=
  withCur (.barArr id) true s fun s k g b =>
    match arriveNamed s k g b id with
    | .inl s => .done s .seq []
    | .inr r => .trap s .barrierMask (barVal false r id)

/-- BAR.WAIT (R164). -/
def execBarWait (pd : PReg) (id : Fin 64) (s : State) : Host.Outcome State Fault Refusal :=
  withCur (.barWait pd id) true s fun s k g _ => waitNamed s k g id pd

/-- Has the group's arrival at a barrier of a class been made by an earlier part of this instruction (R173). -/
def Group.arrived (g : Group) (cls : Bool) (id : Nat) : Bool := g.wait.isSome || g.synced.contains (cls, id, g.pc)

/-- BAR.SYNC (R164, R173). -/
def execBarSync (pd : PReg) (id : Fin 64) (s : State) : Host.Outcome State Fault Refusal :=
  withCur (.barSync pd id) true s fun s k g b =>
    if g.arrived false id then waitNamed s k g id pd
    else
      match arriveNamed s k g b id with
      | .inl s => waitNamed s k g id pd
      | .inr r => .trap s .barrierMask (barVal false r id)

/-- A group's member number in its cluster. -/
def clusterMember (g : Group) (b : Block) : Nat := b.rank * 32 + g.idx

/-- The arrival of group k at a cluster barrier (R168), or the reason it faults. -/
def arriveCluster (s : State) (k : Nat) (g : Group) (b : Block) (id : Nat) : State ⊕ Nat :=
  let x := clusterBar s b.clu id
  let m := clusterMember g b
  if 8 ≤ id then .inr 1
  else if !x.mask.getLsbD m then .inr 2
  else if x.arr.getLsbD m then .inr 3
  else .inl (settleCluster (setClusterBar (releaseGroup s k) b.clu id (x.arrive m)) b.clu id 0)

/-- The wait of a group at a cluster barrier (R168). -/
def waitCluster (s : State) (k : Nat) (g : Group) (b : Block) (id : Nat) (pd : PReg) : Res :=
  let x := clusterBar s b.clu id
  let m := clusterMember g b
  if 8 ≤ id then .trap s .barrierMask (barVal true 1 id)
  else if !x.seen.getLsbD m then .trap s .barrierMask (barVal true 4 id)
  else if x.done m then
    match aget s.groups k with
    | some g => .done (setGroup s k (g.status pd (x.lst.getLsbD m))) .seq []
    | none => .gone s
  else .block s (.bar true id)

/-- CBAR.ARR (R168). -/
def execCbarArr (id : Fin 64) (s : State) : Host.Outcome State Fault Refusal :=
  withCur (.cbarArr id) true s fun s k g b =>
    match arriveCluster s k g b id with
    | .inl s => .done s .seq []
    | .inr r => .trap s .barrierMask (barVal true r id)

/-- CBAR.WAIT (R168). -/
def execCbarWait (pd : PReg) (id : Fin 64) (s : State) : Host.Outcome State Fault Refusal :=
  withCur (.cbarWait pd id) true s fun s k g b => waitCluster s k g b id pd

/-- CBAR.SYNC (R168, R173). -/
def execCbarSync (pd : PReg) (id : Fin 64) (s : State) : Host.Outcome State Fault Refusal :=
  withCur (.cbarSync pd id) true s fun s k g b =>
    if g.arrived true id then waitCluster s k g b id pd
    else
      match arriveCluster s k g b id with
      | .inl s => waitCluster s k g b id pd
      | .inr r => .trap s .barrierMask (barVal true r id)

/-! Batches (R171, R172). -/

/-- A copy record of a group that is in no batch yet, as one of a batch. -/
def QRec.closed (r : QRec) (k n : Nat) : QRec :=
  if r.copy && r.batch.isNone && (r.owner.map Prod.fst) == some k then { r with batch := some n } else r

/-- Marks the open copy records of a group as of a batch, with those whose completion has still to be delivered (R92). -/
def closeRecs (s : State) (k n : Nat) : State :=
  { s with eps := s.eps.map fun e => (e.1, { e.2 with recs := e.2.recs.map fun r => r.closed k n }),
           lateDone := s.lateDone.map fun x => { x with done := x.done.closed k n } }

/-- BATCH (R171): waits while 16 batches are closed but incomplete. -/
def execBatch (s : State) : Host.Outcome State Fault Refusal :=
  withCur .batch true s fun s k g _ =>
    if 16 ≤ (g.batches.filter fun x => x.left != 0).length then .stall s
    else
      let n := (g.lastBatch + 1) % 2 ^ 32
      let g := { g with
        lastBatch := n, openRecs := 0, openFailed := false,
        batches := g.batches ++ [⟨n, g.openRecs, g.openFailed⟩],
        qregs := g.qregs.map fun e => (e.1, { e.2 with done := e.2.done.map fun c =>
          if c.copy && c.batch.isNone then { c with batch := some n } else c }) }
      .done (setGroup (closeRecs s k n) k g) .seq []

/-- Is a batch number at or before n in serial order (R172). -/
def serialLe (m n : Nat) : Bool := (n + 2 ^ 32 - m) % 2 ^ 32 < 2 ^ 31

/-- BWAIT (R172). -/
def execBwait (pd : PReg) (a : SReg) (s : State) : Host.Outcome State Fault Refusal :=
  withCur (.bwait pd a) true s fun s _ g _ =>
    let n := bits (g.readS a) 31 0
    let ahead := (n + 2 ^ 32 - g.lastBatch) % 2 ^ 32
    let mine := g.batches.filter fun x => serialLe x.num n
    if 1 ≤ ahead && ahead ≤ 2 ^ 31 then .trap s .barrierMask (barVal false 7 0)
    else if mine.any fun x => x.left != 0 then .block s .batch
    else
      let drop (c : Completion) : Bool := c.batch.any fun m => serialLe m n
      .status { g with
        batches := g.batches.filter fun x => !serialLe x.num n,
        qregs := g.qregs.map fun e => (e.1, { e.2 with
          outstanding := e.2.outstanding - (e.2.done.filter drop).length, done := e.2.done.filter fun c => !drop c }) }
        pd (!mine.any BatchRec.failed)

/-! Waiting on memory (R170). -/

/-- The timeout of WAITM in ns, none for T = 0. -/
def waitmNs (t : Nat) : Option Nat := if t = 0 then none else some (2 ^ min t 40)

/-- What a test of WAITM comes to: a fault, a wait for the way to its location, or whether the dword differs. -/
inductive WaitmTest where
  | bad (t : Trap) (v : Dword)
  | held
  | differs (yes : Bool)
deriving DecidableEq, Repr

/-- One test of WAITM at an address (R170). -/
def testWaitm (s : State) (b : Block) (va : Dword) (v : Dword) : State × WaitmTest :=
  match laneChk s b.ctx .load 8 va with
  | .bad _ t => (s, .bad t va)
  | .absent => (s, .bad .pageAbsent va)
  | .ok t =>
    match lateChk s b.core .load 8 va t with
    | some (_, tr, x) => (if tr == .poison then findErrors s t.pa 8 else s, .bad tr x)
    | none =>
      if t.held s b.core .load then (s, .held)
      else
        match coreLoad s b.core t.key t.pa 8 with
        | (s, .waits) => (s, .held)
        | (s, .err) => (s, .bad .protection va)
        | (s, .ok l) => (s, .differs (dwordAt l 0 != v))

/-- WAITM (R170): the first test is a read of the group, and where it finds the dword changed its final one (R183); one that
is held on its way is waited for, and the timeout counts from issue. -/
def execWaitm (pd : PReg) (sc : Scope) (a b : SReg) (s : State) : Host.Outcome State Fault Refusal :=
  withCur (.waitm pd sc a b) true s fun s k g blk =>
    let v := g.readS a
    let va := dw (bits v 55 0)
    if bits v 57 56 ≠ 0 then .trap s .protection v
    else
      let wait : Wait := .mem ((waitmNs (bits v 63 58)).map fun n => s.clock + nsClocks n) false
      match groupRead s k g blk va 8 with
      | (s, .bad t x) => .trap s t x
      | (s, .held) => .block s wait
      | (s, .bytes l) =>
        if dwordAt l 0 != g.readS b then .done (modGroup s k fun g => g.status pd true) .seq [] else .block s wait

/-! Queue fences (R111). -/

/-- QFENCE (R111, R182): a fence entry in each queue that the mask names. -/
def execQfence (a : SReg) (s : State) : Host.Outcome State Fault Refusal :=
  withCur (.qfence a) true s fun s _ g b =>
    let m := (g.readS a).toNat % 2 ^ 16
    let slots := ((List.range 16).filter fun i => m.testBit i).filterMap fun i => (aget g.qregs i).map QRegState.slot
    let keys := ((slots.filter (· < 64)).map fun x => b.ctx * 64 + x).eraseDups
    if keys.isEmpty then .of g
    else
      let id := s.nextId
      let fence : QRec := { dw := [], seq := 0, fence := some id }
      .done { s with nextId := id + 1, eps := s.eps.map fun e =>
        if keys.contains e.1 then (e.1, { e.2 with recs := e.2.recs ++ [fence] }) else e } .seq []

end Sys2Proof.Machine
end

