-- ==== Sys2Proof/Machine/Memory.lean ====
section
/-! DEFINITION. Loads, stores, scratchpad accesses and atomics (R312 to R322, R178 to R190, R232). -/

namespace Sys2Proof.Machine

/-! Loads and stores (R315, R316). -/

/-- What a load of n bytes makes of them. -/
def loadExt (n : Nat) (signed : Bool) (l : List Byte) : Dword :=
  if signed then dwI (sext (8 * n) (ofBytes l)) else dw (ofBytes l)

/-- LD and LDX: a load with d = z is a probe and makes no access. -/
def loadBody (n : Nat) (signed : Bool) (d a : GReg) (f : PReg) (s : State) (k : Nat) (g : Group) (b : Block) : Res :=
  let l := laneAccs s g b .load n (g.evalLanes d) fun x => g.readR a x
  if d = .z then
    match earlyFault l (f == 15) with
    | some (t, v) => .trap s t v
    | none => .of (g.flags f l false)
  else
    accessLanes s g b .load n f true false l
      (fun m s x t => (laneRead k b n m s x t).map fun r => (r.1, loadExt n signed r.2))
      (finishLanes k d f l)

/-- ST and STX: helper lanes store nothing (R136). -/
def storeBody (n : Nat) (d a : GReg) (f : PReg) (s : State) (k : Nat) (g : Group) (b : Block) : Res :=
  let l := laneAccs s g b .store n (g.lanesOn.filter g.isMember) fun x => g.readR a x
  let data (x : LaneAcc) : List Byte := toBytes n (g.readR d x.lane).toNat
  storeLanes s g b k .store n f l data (fun s x t => contributeStore s k b.ctx x.va.toNat t (data x))
    fun s => finishLanes k .z f l s []

/-- Bytes of an LD, and whether it extends a sign. -/
def ldForm : LdSize → Nat × Bool
  | .b64 => (8, false)
  | .n32 => (4, false)
  | .s32 => (4, true)
/-- Bytes of an LDX, and whether it extends a sign. -/
def ldxForm : LdxSize → Nat × Bool
  | .n8 => (1, false)
  | .s8 => (1, true)
  | .n16 => (2, false)
  | .s16 => (2, true)
/-- Bytes of an ST. -/
def stForm : StSize → Nat
  | .b64 => 8
  | .b32 => 4
/-- Bytes of an STX. -/
def stxForm : StxSize → Nat
  | .b8 => 1
  | .b16 => 2

/-- LD (R315). -/
def execLd (sz : LdSize) (pol : Policy) (d a : GReg) (f : PReg) (la : Fin 16) (s : State) :
    Host.Outcome State Fault Refusal :=
  withCur (.ld sz pol d a f la) false s (loadBody (ldForm sz).1 (ldForm sz).2 d a f)

/-- LDX (R315). -/
def execLdx (sz : LdxSize) (pol : Policy) (d a : GReg) (f : PReg) (la : Fin 16) (s : State) :
    Host.Outcome State Fault Refusal :=
  withCur (.ldx sz pol d a f la) false s (loadBody (ldxForm sz).1 (ldxForm sz).2 d a f)

/-- ST (R315). -/
def execSt (sz : StSize) (pol : Policy) (d a : GReg) (f : PReg) (la : Fin 16) (s : State) :
    Host.Outcome State Fault Refusal :=
  withCur (.st sz pol d a f la) false s (storeBody (stForm sz) d a f)

/-- STX (R315). -/
def execStx (sz : StxSize) (pol : Policy) (d a : GReg) (f : PReg) (la : Fin 16) (s : State) :
    Host.Outcome State Fault Refusal :=
  withCur (.stx sz pol d a f la) false s (storeBody (stxForm sz) d a f)

/-- LDU (R316): one load for the group when a lane is active. -/
def execLdu (d a : SReg) (w32 : Bool) (f : PReg) (la : Fin 16) (s : State) : Host.Outcome State Fault Refusal :=
  withCur (.ldu d a w32 f la) false s fun s k g b =>
    let n := if w32 then 4 else 8
    let va := g.readS a
    if g.lanesOn.isEmpty then .of g
    else
      let x : LaneAcc := ⟨g.lanesOn.headD 0, va, true, laneChk s b.ctx .load n va⟩
      let whole (g : Group) (v : Dword) : Group := (g.writeS d v).flags f [x] true
      if d = .z || x.absent then
        match earlyFault [x] (f == 15) with
        | some (t, v) => .trap s t v
        | none => .of (whole g 0)
      else
        match groupRead s k g b va n with
        | (s, .bad t v) => .trap s t v
        | (s, .held) => .stall s
        | (s, .bytes l) => .done (modGroup s k fun g => whole g (dw (ofBytes l))) .seq []

/-! Scratchpad (R317, R318). -/

/-- The block of a rank in a block's cluster, with its key. -/
def rankBlock (s : State) (k : Nat) (b : Block) (rank : Nat) : Option (Nat × Block) :=
  if rank = b.rank then some (k, b) else s.blocks.find? fun e => e.2.clu == b.clu && e.2.rank == rank

/-- The open region of a block that covers a scratchpad byte. -/
def regionAt (b : Block) (o : Nat) : Option Region :=
  (b.regions.find? fun r => r.2.sp * 512 ≤ o && o < (r.2.sp + r.2.len) * 512).map Prod.snd

/-- Where a lane's scratchpad access goes: the block, its key and the offset. -/
structure SpadTo where
  key : Nat
  blk : Block
  off : Nat
deriving DecidableEq, Repr

/-- The checks of R317, in the places of checks 1 to 3 of R313: the address bits, then ALIGNMENT, then range, rank and
read-only regions (log 41), then MEMBERSHIP (R394). -/
def spadChk (s : State) (k : Nat) (b : Block) (remote store : Bool) (n : Nat) (va : Dword) :
    (Nat × Trap × Dword) ⊕ SpadTo :=
  let o := bits va 18 0
  let rank := if remote then bits va 20 19 else b.rank
  if bits va 63 (if remote then 21 else 19) ≠ 0 then .inl (1, .protection, va)
  else if o % n ≠ 0 then .inl (2, .alignment, va)
  else if b.spadKB * 1024 < o + n || (headerOf s b.launch).csize ≤ rank then .inl (3, .protection, va)
  else
    match rankBlock s k b rank with
    | none => .inl (4, .membership, va)
    | some (bk, t) =>
      if store && (regionAt t o).any (fun r => !r.wr) then .inl (3, .protection, va) else .inr ⟨bk, t, o⟩

/-- What loads from a scratchpad come to: what has been filled, a fault, a wait, or an error that a core's SRAM holds. -/
inductive SpadRes where
  | ok (s : State)
  | bad (s : State) (t : Trap) (v : Dword)
  | held (s : State)
  | onchip (core : Nat)
deriving DecidableEq, Repr

/-- A fill that a load from an open region makes (R232, R318): the bytes of a sub-block of the block at key that are not
present, from the page where they lie; the lane, and whether a member lane asks for it. -/
structure Fill where
  lane : Nat
  mine : Bool
  key : Nat
  base : Nat
  va : Nat
  tr : Tr
  missing : List Nat
deriving DecidableEq, Repr

/-- The fill that a lane's load needs. -/
def fillOf (s : State) (lane : Nat) (mine : Bool) (to_ : SpadTo) : Option Fill :=
  (aget s.blocks to_.key).bind fun b => (regionAt b to_.off).bind fun r =>
    let base := to_.off / 512 * 512
    let missing := (List.range 512).filter fun i => !((agetD b.marks (base + i) 0).getLsbD 0)
    let va := r.va.toNat + (base - r.sp * 512)
    if missing.isEmpty then none else (walk s b.ctx va).map fun t => ⟨lane, mine, to_.key, base, va, t, missing⟩

/-- Check 6 of R313 for the bytes of a fill, and a page out of reach (R373). -/
def Fill.fault (s : State) (core : Nat) (x : Fill) : Option (Nat × Trap × Dword) :=
  let p := partOfDie s (core / 40)
  match x.missing.find? fun i => inError s (x.tr.pa + i) 1 with
  | some i => some (6, .poison, dw (x.va + i))
  | none => if wayTo s p x.tr.pa = .lost then some (7, .remoteLoss, dw (lossVal s p x.tr.pa)) else none

/-- The accesses of a fill as they are recorded (log 20). -/
def Fill.pieces (x : Fill) : List Tr := (List.range 4).map fun i => { x.tr with pa := x.tr.pa + 128 * i }

/-- The fills of the loads of lanes, each once, those of member lanes first; one that helper lanes alone ask for is not made
where it would fault (R136). -/
def fillsOf (s : State) (core : Nat) (l : List (Nat × Bool × SpadTo)) : List Fill :=
  (l.filter (fun x => x.2.1) ++ l.filter fun x => !x.2.1).foldl (fun fs x =>
    match fillOf s x.1 x.2.1 x.2.2 with
    | some y =>
      if (fs.any fun z => z.key == y.key && z.base == y.base) || (!y.mine && (y.fault s core).isSome) then fs else fs ++ [y]
    | none => fs) []

/-- Makes a fill whose request has been made (R232), recorded where its page is OBSERVED (R409). -/
def makeFill (gk : Nat) (own : Block) (m : AMap Asked) (s : State) (x : Fill) : State :=
  match loadAsked s own.core x.tr.key x.tr.pa 512 m with
  | none => s
  | some l =>
    let s := x.pieces.foldl (fun s t => noteAccess s gk own x.lane t 128 .read) s
    { s with blocks := amod s.blocks x.key fun b =>
      { b with spad := x.missing.foldl (fun m i => asetD m (x.base + i) ((l[i]?).getD 0) 0) b.spad,
               marks := x.missing.foldl (fun m i => aset m (x.base + i) 1) b.marks,
               spadBad := b.spadBad.filter fun e =>
                 !((List.range e.2).all fun i => x.base ≤ e.1 + i && x.missing.contains (e.1 + i - x.base)) } }

/-- Does a range of the scratchpad hold an uncorrectable error (R397). -/
def spadInError (b : Block) (o n : Nat) : Bool := b.spadBad.any fun e => e.1 < o + n && o < e.1 + e.2

/-- Makes the fills that the loads of a group's lanes need (R232, R318), as loads of the group: all of them or, where one
faults or has no room in a book, none (R393, R410). -/
def fillAll (s : State) (gk : Nat) (g : Group) (own : Block) (l : List (Nat × Bool × SpadTo)) : SpadRes :=
  let fs := fillsOf s own.core l
  if fs.isEmpty then .ok s
  else
    match bookShort s own g (fs.flatMap Fill.pieces) with
    | some (t, v) => .bad s t v
    | none =>
      match earliest (fs.filterMap fun x => x.fault s own.core) with
      | some (t, v) =>
        .bad (fs.foldl (fun s x => match x.missing.find? fun i => inError s (x.tr.pa + i) 1 with
          | some i => findErrors s (x.tr.pa + i) 1
          | none => s) s) t v
      | none =>
        if fs.any fun x => x.tr.held s own.core .load then .held s
        else
          let r := askQuarters s own.core .load (fs.map fun x => (x.tr.key, x.tr.pa, 512))
          if askWaits r.2 then .held r.1
          else
            match fs.find? fun x => x.mine && (loadAsked r.1 own.core x.tr.key x.tr.pa 512 r.2).isNone with
            | some x => .bad r.1 .protection (dw x.va)
            | none => .ok (fs.foldl (makeFill gk own r.2) r.1)

/-- What a lane's load of n bytes takes from a scratchpad: 0 for a helper lane whose load would fault (R136). -/
def spadGet (s : State) (n : Nat) (mine : Bool) (to_ : SpadTo) : Dword :=
  match aget s.blocks to_.key with
  | none => 0
  | some b =>
    if !mine && ((fillOf s 0 mine to_).isSome || spadInError b to_.off n) then 0
    else dw (ofBytes ((List.range n).map fun i => agetD b.spad (to_.off + i) 0))

/-- Loads n bytes for each lane from scratchpads (R317, R318): an error that a core's SRAM holds is found before anything is
filled. -/
def spadLoad (s : State) (gk : Nat) (g : Group) (own : Block) (n : Nat) (l : List (Nat × Bool × SpadTo)) :
    SpadRes × List (Nat × Dword) :=
  match fillAll s gk g own l with
  | .ok s1 =>
    match l.findSome? fun x => if x.2.1 then (aget s1.blocks x.2.2.key).bind fun b =>
        if spadInError b x.2.2.off n then some b.core else none else none with
    | some core => (.onchip core, [])
    | none => (.ok s1, l.map fun x => (x.1, spadGet s1 n x.2.1 x.2.2))
  | e => (e, [])

/-- Writes n bytes of a scratchpad: bytes of an open region are marked present and dirty (R232); a word written whole
loses its error. -/
def spadWrite (s : State) (to_ : SpadTo) (n : Nat) (v : Dword) : State :=
  { s with blocks := amod s.blocks to_.key fun b =>
    let offs := (List.range n).map (to_.off + ·)
    { b with spad := (offs.zip (toBytes n v.toNat)).foldl (fun m e => asetD m e.1 e.2 0) b.spad,
             marks := if (regionAt b to_.off).isSome then offs.foldl (fun m o => aset m o 3) b.marks else b.marks,
             spadBad := b.spadBad.filter fun e => !(to_.off ≤ e.1 && e.1 + e.2 ≤ to_.off + n) } }

/-- LDS, LDSC, STS and STSC: an access to a block that is being saved or is saved waits for it (log 21). -/
def spadBody (remote store : Bool) (w : Width) (d a : GReg) (f : PReg) (s : State) (k : Nat) (g : Group) (b : Block) :
    Res :=
  let n := Width.bytes w
  let ls := if store then g.lanesOn.filter g.isMember else g.evalLanes d
  let chks := ls.map fun l => (l, spadChk s g.blk b remote store n (g.readR a l))
  let bad := chks.filterMap fun c =>
    match c.2 with
    | .inl x => if g.isMember c.1 then some x else none
    | .inr _ => none
  match earliest bad with
  | some (t, v) => .trap s t v
  | none =>
    if chks.any fun c => match c.2 with
      | .inr x => x.blk.st == .saved
      | .inl _ => false
    then .stall s
    else
      let tos := chks.filterMap fun c =>
        match c.2 with
        | .inr x => some (c.1, g.isMember c.1, x)
        | .inl _ => none
      if store then
        .done (modGroup (tos.foldl (fun s x => spadWrite s x.2.2 n (g.readR d x.1)) s) k fun g =>
          (g.writeAll .z []).flags f [] false) .seq []
      else
        match spadLoad s k g b n tos with
        | (.ok s, vs) =>
          let value (x : Nat) : Dword := ((vs.find? fun v => v.1 == x).map Prod.snd).getD 0
          .done (modGroup s k fun g => (g.writeAll d (ls.map fun x => (x, value x))).flags f [] false) .seq []
        | (.bad s t v, _) => .trap s t v
        | (.held s, _) => .stall s
        | (.onchip core, _) => .gone (countSram (raiseFault s k .poison 0 g.pc) core)

/-- LDS (R317). -/
def execLds (w : Width) (d a : GReg) (f : PReg) (la : Fin 16) (s : State) : Host.Outcome State Fault Refusal :=
  withCur (.lds w d a f la) false s (spadBody false false w d a f)

/-- LDSC (R317). -/
def execLdsc (w : Width) (d a : GReg) (f : PReg) (la : Fin 16) (s : State) : Host.Outcome State Fault Refusal :=
  withCur (.ldsc w d a f la) false s (spadBody true false w d a f)

/-- STS (R317). -/
def execSts (w : Width) (d a : GReg) (f : PReg) (la : Fin 16) (s : State) : Host.Outcome State Fault Refusal :=
  withCur (.sts w d a f la) false s (spadBody false true w d a f)

/-- STSC (R317). -/
def execStsc (w : Width) (d a : GReg) (f : PReg) (la : Fin 16) (s : State) : Host.Outcome State Fault Refusal :=
  withCur (.stsc w d a f la) false s (spadBody true true w d a f)

/-! Atomics (R319 to R321). -/

/-- ADD to XOR with d = z are commutative updates (R178, R320). -/
def atomUpdates (op : AtomOp) (d : GReg) : Bool :=
  d = .z && (match op with
    | .xchg | .cas | .incw => false
    | _ => true)

/-- ATOM and ATOMW, n = 8 or 4 (R320): a helper lane does nothing and receives 0 (R136). -/
def atomBody (op : AtomOp) (n : Nat) (d : GReg) (a : BReg) (f : PReg) (s : State) (k : Nat) (g : Group) (b : Block) :
    Res :=
  let upd := atomUpdates op d
  let kind : AccKind := if upd then .update else .rmw
  let ls := g.evalLanes d
  let l := laneAccs s g b kind n (ls.filter g.isMember) fun x => g.readB a 0 x
  let helpers := (ls.filter fun x => !g.isMember x).map fun x => (x, (0 : Dword))
  accessLanes s g b kind n f upd (!upd) l
    (fun m s x t =>
      let v := g.readB a 1 x.lane
      if upd then
        match aget s.groups k with
        | none => none
        | some h =>
          let note := if logsAccess s b h t then some (b.ctx, groupAgent b h x.lane) else none
          let s := updAsked s { grp := k, core := b.core, key := t.key, pa := t.pa, size := n, op := op, v := v,
                                  cell := none, note := note } m
          some (if t.observed then modGroup s k fun h => h.countObserved x.lane else s, 0)
      else
        (rmwAsked s b.core t.key t.pa n op v (g.readB a 2 x.lane) m).map fun r =>
          (noteAccess r.1 k b x.lane t n .rmw, r.2))
    (fun s vs => .done (modGroup s k fun g =>
      (g.writeAll d (vs ++ helpers)).flags f (if GReg.scalar d && !helpers.isEmpty then [] else l) (GReg.scalar d)) .seq [])

/-- ATOM.add (R320). -/
def execAtomAdd (d : GReg) (a : BReg) (f : PReg) (la : Fin 16) (s : State) : Host.Outcome State Fault Refusal :=
  withCur (.atomAdd d a f la) false s (atomBody .add 8 d a f)

/-- ATOM.mins (R320). -/
def execAtomMins (d : GReg) (a : BReg) (f : PReg) (la : Fin 16) (s : State) : Host.Outcome State Fault Refusal :=
  withCur (.atomMins d a f la) false s (atomBody .mins 8 d a f)

/-- ATOM.maxs (R320). -/
def execAtomMaxs (d : GReg) (a : BReg) (f : PReg) (la : Fin 16) (s : State) : Host.Outcome State Fault Refusal :=
  withCur (.atomMaxs d a f la) false s (atomBody .maxs 8 d a f)

/-- ATOM.minn (R320). -/
def execAtomMinn (d : GReg) (a : BReg) (f : PReg) (la : Fin 16) (s : State) : Host.Outcome State Fault Refusal :=
  withCur (.atomMinn d a f la) false s (atomBody .minn 8 d a f)

/-- ATOM.maxn (R320). -/
def execAtomMaxn (d : GReg) (a : BReg) (f : PReg) (la : Fin 16) (s : State) : Host.Outcome State Fault Refusal :=
  withCur (.atomMaxn d a f la) false s (atomBody .maxn 8 d a f)

/-- ATOM.and (R320). -/
def execAtomAnd (d : GReg) (a : BReg) (f : PReg) (la : Fin 16) (s : State) : Host.Outcome State Fault Refusal :=
  withCur (.atomAnd d a f la) false s (atomBody .and 8 d a f)

/-- ATOM.or (R320). -/
def execAtomOr (d : GReg) (a : BReg) (f : PReg) (la : Fin 16) (s : State) : Host.Outcome State Fault Refusal :=
  withCur (.atomOr d a f la) false s (atomBody .or 8 d a f)

/-- ATOM.xor (R320). -/
def execAtomXor (d : GReg) (a : BReg) (f : PReg) (la : Fin 16) (s : State) : Host.Outcome State Fault Refusal :=
  withCur (.atomXor d a f la) false s (atomBody .xor 8 d a f)

/-- ATOM.xchg (R320). -/
def execAtomXchg (d : GReg) (a : BReg) (f : PReg) (la : Fin 16) (s : State) : Host.Outcome State Fault Refusal :=
  withCur (.atomXchg d a f la) false s (atomBody .xchg 8 d a f)

/-- ATOM.cas (R320). -/
def execAtomCas (d : GReg) (a : BReg) (f : PReg) (la : Fin 16) (s : State) : Host.Outcome State Fault Refusal :=
  withCur (.atomCas d a f la) false s (atomBody .cas 8 d a f)

/-- ATOM.incw (R320). -/
def execAtomIncw (d : GReg) (a : BReg) (f : PReg) (la : Fin 16) (s : State) : Host.Outcome State Fault Refusal :=
  withCur (.atomIncw d a f la) false s (atomBody .incw 8 d a f)

/-- ATOMW.add (R320). -/
def execAtomwAdd (d : GReg) (a : BReg) (f : PReg) (la : Fin 16) (s : State) : Host.Outcome State Fault Refusal :=
  withCur (.atomwAdd d a f la) false s (atomBody .add 4 d a f)

/-- ATOMW.mins (R320). -/
def execAtomwMins (d : GReg) (a : BReg) (f : PReg) (la : Fin 16) (s : State) : Host.Outcome State Fault Refusal :=
  withCur (.atomwMins d a f la) false s (atomBody .mins 4 d a f)

/-- ATOMW.maxs (R320). -/
def execAtomwMaxs (d : GReg) (a : BReg) (f : PReg) (la : Fin 16) (s : State) : Host.Outcome State Fault Refusal :=
  withCur (.atomwMaxs d a f la) false s (atomBody .maxs 4 d a f)

/-- ATOMW.minn (R320). -/
def execAtomwMinn (d : GReg) (a : BReg) (f : PReg) (la : Fin 16) (s : State) : Host.Outcome State Fault Refusal :=
  withCur (.atomwMinn d a f la) false s (atomBody .minn 4 d a f)

/-- ATOMW.maxn (R320). -/
def execAtomwMaxn (d : GReg) (a : BReg) (f : PReg) (la : Fin 16) (s : State) : Host.Outcome State Fault Refusal :=
  withCur (.atomwMaxn d a f la) false s (atomBody .maxn 4 d a f)

/-- ATOMW.and (R320). -/
def execAtomwAnd (d : GReg) (a : BReg) (f : PReg) (la : Fin 16) (s : State) : Host.Outcome State Fault Refusal :=
  withCur (.atomwAnd d a f la) false s (atomBody .and 4 d a f)

/-- ATOMW.or (R320). -/
def execAtomwOr (d : GReg) (a : BReg) (f : PReg) (la : Fin 16) (s : State) : Host.Outcome State Fault Refusal :=
  withCur (.atomwOr d a f la) false s (atomBody .or 4 d a f)

/-- ATOMW.xor (R320). -/
def execAtomwXor (d : GReg) (a : BReg) (f : PReg) (la : Fin 16) (s : State) : Host.Outcome State Fault Refusal :=
  withCur (.atomwXor d a f la) false s (atomBody .xor 4 d a f)

/-- ATOMW.xchg (R320). -/
def execAtomwXchg (d : GReg) (a : BReg) (f : PReg) (la : Fin 16) (s : State) : Host.Outcome State Fault Refusal :=
  withCur (.atomwXchg d a f la) false s (atomBody .xchg 4 d a f)

/-- ATOMW.cas (R320). -/
def execAtomwCas (d : GReg) (a : BReg) (f : PReg) (la : Fin 16) (s : State) : Host.Outcome State Fault Refusal :=
  withCur (.atomwCas d a f la) false s (atomBody .cas 4 d a f)

/-- ATOMW.incw (R320). -/
def execAtomwIncw (d : GReg) (a : BReg) (f : PReg) (la : Fin 16) (s : State) : Host.Outcome State Fault Refusal :=
  withCur (.atomwIncw d a f la) false s (atomBody .incw 4 d a f)

/-! Accumulator cells (R322). -/

/-- A value format of LA additions (R322, R345). -/
def accFmt : Nat → Option NumFmt
  | 0 => none
  | 11 => none
  | 12 => none
  | c => numOfCode c

/-- The term of two factors (R62): none when it is invalid. -/
def termOf (x y : FVal) : Option FVal := mulVals x y

/-- Sub-elements of a register read in AF at ASC (R345). -/
def readA (fmt : Dword) (f : NumFmt) (x : Dword) : List FVal :=
  (List.range (64 / numBits f)).map fun i => exactOf f (fmtAsc fmt) (sub x (numBits f) i)
/-- Sub-elements of a register read in BF at BSC. -/
def readBf (fmt : Dword) (f : NumFmt) (x : Dword) : List FVal :=
  (List.range (64 / numBits f)).map fun i => exactOf f (fmtBsc fmt) (sub x (numBits f) i)

/-- The products of two lists of values, as terms. -/
def products (xs ys : List FVal) : List (Option FVal) := (xs.zip ys).map fun p => termOf p.1 p.2

/-- An LA that holds the sum of terms. -/
def LA.sumOf (l : List (Option FVal)) : LA := l.foldl LA.addTerm LA.zero

/-- ADDV and ADDP (R322): one contribution a lane, a commutative update of the cell or a contribution to a round. -/
def ataccBody (pair : Bool) (d : GReg) (a : BReg) (f : PReg) (s : State) (k : Nat) (g : Group) (b : Block) : Res :=
  let l := laneAccs s g b .accum 128 (g.lanesOn.filter g.isMember) fun x => g.readB a 0 x
  match earlyFault l (f == 15) with
  | some (t, v) => .trap s t v
  | none =>
    match accFmt (bits g.fmt 3 0), accFmt (bits g.fmt 7 4) with
    | none, _ => .trap s .format g.fmt
    | some af, bf =>
      let okB := match bf with
        | some x => numBits x == numBits af
        | none => false
      if pair && !okB then .trap s .format g.fmt
      else
        accessLanes s g b .accum 128 f true false l
          (fun m s x t =>
            let xs := readA g.fmt af (g.readR d x.lane)
            let ys := readBf g.fmt (bf.getD af) (g.readB a 1 x.lane)
            let cell := LA.sumOf (if pair then products xs ys else xs.map some)
            if t.reduce then
              match collAt s b.ctx x.va.toNat with
              | some (e, c) => some (contribute s k b.ctx e c true ((x.va.toNat - c.base) / 128) (mergeIn cell), 0)
              | none => some (s, 0)
            else
              match aget s.groups k with
              | none => none
              | some h =>
                let note := if logsAccess s b h t then some (b.ctx, groupAgent b h x.lane) else none
                let s := updAsked s { grp := k, core := b.core, key := t.key, pa := t.pa, size := 128, op := .add,
                                        v := 0, cell := some cell, note := note } m
                some (if t.observed then modGroup s k fun h => h.countObserved x.lane else s, 0))
          (finishLanes k .z f l)

/-- ATACC.addv (R322). -/
def execAtaccAddv (d : GReg) (a : BReg) (f : PReg) (la : Fin 16) (s : State) : Host.Outcome State Fault Refusal :=
  withCur (.ataccAddv d a f la) false s (ataccBody false d a f)

/-- ATACC.addp (R322). -/
def execAtaccAddp (d : GReg) (a : BReg) (f : PReg) (la : Fin 16) (s : State) : Host.Outcome State Fault Refusal :=
  withCur (.ataccAddp d a f la) false s (ataccBody true d a f)

/-- ATACC.clr (R322): a plain write of the image of R61, whatever FMT holds (log 22); on a REDUCE page an ill-formed
contribution (R381). -/
def execAtaccClr (d : GReg) (a : BReg) (f : PReg) (la : Fin 16) (s : State) : Host.Outcome State Fault Refusal :=
  withCur (.ataccClr d a f la) false s fun s k g b =>
    let l := laneAccs s g b .accumClr 128 (g.lanesOn.filter g.isMember) fun x => g.readB a 0 x
    storeLanes s g b k .accumClr 128 f l (fun _ => List.replicate 128 0)
      (fun s x _ =>
        match collAt s b.ctx x.va.toNat with
        | some (e, c) => contribute s k b.ctx e c true ((x.va.toNat - c.base) / 128) LA.mergeIll
        | none => s)
      fun s => finishLanes k .z f l s []

end Sys2Proof.Machine
end

