-- ==== Sys2Proof/Machine/PageInstr.lean ====
section
/-! DEFINITION. The PAGE instructions (R323 to R328, R120, R230 to R233, R238). -/

namespace Sys2Proof.Machine

/-- Check 1 of R313 for member lanes. -/
def upperFault (g : Group) (ls : List Nat) (va : Nat → Dword) : Option Dword :=
  (ls.find? fun l => g.isMember l && bits (va l) 63 56 != 0).map va

/-- Completes with f = 0x00 in every active lane (R248). -/
def noFlags (k : Nat) (f : PReg) (s : State) : Res := .done (modGroup s k fun g => g.flags f [] false) .seq []

/-- PGREQ (R230, R324): lanes naming one page make one request; a helper lane makes none (R136). -/
def execPgreq (d a : GReg) (f : PReg) (la : Fin 16) (s : State) : Host.Outcome State Fault Refusal :=
  withCur (.pgreq d a f la) false s fun s k g b =>
    let va := g.readR a
    let ls := g.evalLanes d
    match upperFault g ls va with
    | some v => .trap s .protection v
    | none =>
      let die := b.core / 40
      let r := (ls.filter g.isMember).foldl (fun (acc : State × List (Nat × Dword)) l =>
        let q := requestPage acc.1 b.ctx (va l).toNat (partOfDie s die) die
        (q.1, acc.2 ++ [(l, dw q.2)])) (s, [])
      .done (modGroup r.1 k fun g => (g.writeAll d r.2).flags f [] false) .seq []

/-- The STATE code of the page of an address, 8 where it has no entry (R324). -/
def pageState (s : State) (c va : Nat) : Dword :=
  match walk s c va with
  | some t => dw (pstateCode t.st)
  | none => 8

/-- PGQRY (R324). -/
def execPgqry (d a : GReg) (f : PReg) (la : Fin 16) (s : State) : Host.Outcome State Fault Refusal :=
  withCur (.pgqry d a f la) false s fun s k g b =>
    let va := g.readR a
    let ls := g.evalLanes d
    match upperFault g ls va with
    | some v => .trap s .protection v
    | none =>
      .done (modGroup s k fun g => (g.writeAll d (ls.map fun l => (l, pageState s b.ctx (va l).toNat))).flags f [] false) .seq []

/-- PREF (R325): the requesting die's remote-data cache becomes a holder of the line when the home is another die. -/
def execPref (a : GReg) (f : PReg) (la : Fin 16) (s : State) : Host.Outcome State Fault Refusal :=
  withCur (.pref a f la) false s fun s k g b =>
    let s := (g.lanesOn).foldl (fun s l =>
      let va := g.readR a l
      match laneChk s b.ctx .load 1 va with
      | .ok t =>
        let pa := t.pa / 128 * 128
        if (lateChk s b.core .load 1 va t).isSome || paKind t.pa != .hbm || homeDie t.pa == b.core / 40 then s
        else (askQuarters s b.core .load [(t.key, pa, 128)]).1
      | _ => s) s
    noFlags k f s

/-! Spills (R120, R326). -/

/-- Where dword j of a group's lanes lies in PRIVATE mode (R120). -/
def privVa (h : Header) (b : Block) (g : Group) (j lane : Nat) : Dword :=
  dw (h.privBase.toNat + ((b.id * h.groups + g.idx) * (h.privLane / 8) + j) * 256 + lane * 8)

/-- Where dword j of a lane lies in a spill bin (R326), keyed as Ctx.pins. -/
def binKey (b : Block) (g : Group) (j lane : Nat) : Nat :=
  let at_ := b.bin.getD (0, 0)
  at_.1 * 2 ^ 25 + at_.2 + g.idx * b.vregs * 4096 + j * 256 + lane * 8

/-- SPILL_FAULT for SPL or FIL (R326): where helper lanes alone are active the access is not made, FIL gives 0, and there is
no fault (R136). -/
def spillFault (store : Bool) (d : VReg) (f : PReg) (s : State) (k : Nat) (g : Group) (v : Dword) : Res :=
  if g.lanesOn.isEmpty || g.lanesOn.any g.isMember then .trap s .spill v
  else if store then noFlags k f s
  else .done (modGroup s k fun g => (g.writeAll (.v d) (g.lanesOn.map fun l => (l, 0))).flags f [] false) .seq []

/-- SPL and FIL: body over what one lane does in PRIVATE and in PINNED mode. -/
def spillBody (store : Bool) (d : VReg) (a : SReg) (f : PReg) (s : State) (k : Nat) (g : Group) (b : Block) : Res :=
  let v := g.readS a
  let j := bits v 31 0
  let h := headerOf s b.launch
  if bits v 63 32 ≠ 0 then spillFault store d f s k g v
  else if (ctxOf s b.ctx).pinned then
    if 16 * b.vregs ≤ j then spillFault store d f s k g (dw j)
    else if store then
      let cells := (g.lanesOn).flatMap fun l =>
        (List.range 8).zip (toBytes 8 (g.readV d l).toNat) |>.map fun e => (binKey b g j l + e.1, e.2)
      noFlags k f { s with ctxs := amod s.ctxs b.ctx fun x =>
        { x with pins := cells.foldl (fun m e => asetD m e.1 e.2 0) x.pins } }
    else
      let pins := (ctxOf s b.ctx).pins
      let vs := (g.lanesOn).map fun l =>
        (l, dw (ofBytes ((List.range 8).map fun i => agetD pins (binKey b g j l + i) 0)))
      .done (modGroup s k fun g => (g.writeAll (.v d) vs).flags f [] false) .seq []
  else if h.privLane / 8 ≤ j then spillFault store d f s k g (dw j)
  else
    let kind : AccKind := if store then .store else .load
    let l := laneAccs s g b kind 8 g.lanesOn (privVa h b g j)
    if store then
      let data (x : LaneAcc) : List Byte := toBytes 8 (g.readV d x.lane).toNat
      storeLanes s g b k kind 8 15 l data (fun s x t => contributeStore s k b.ctx x.va.toNat t (data x)) (noFlags k f)
    else
      accessLanes s g b kind 8 15 true false l
        (fun m s x t => (laneRead k b 8 m s x t).map fun r => (r.1, dwordAt r.2 0))
        (fun s vs => .done (modGroup s k fun g => (g.writeAll (.v d) vs).flags f [] false) .seq [])

/-- SPL (R326). -/
def execSpl (d : VReg) (a : SReg) (f : PReg) (la : Fin 16) (s : State) : Host.Outcome State Fault Refusal :=
  withCur (.spl d a f la) false s (spillBody true d a f)

/-- FIL (R326). -/
def execFil (d : VReg) (a : SReg) (f : PReg) (la : Fin 16) (s : State) : Host.Outcome State Fault Refusal :=
  withCur (.fil d a f la) false s (spillBody false d a f)

/-! Regions (R231, R232, R327). -/

/-- What MAPR finds of each page of its range: the address its fault names, and the page's translation. -/
def maprPages (s : State) (c va len : Nat) : List (Nat × Option Tr) :=
  (regionPages va len).map fun p => (max va p, walk s c p)

/-- RCNT of the page a translation comes from. -/
def rcntOf (s : State) (t : Tr) : Nat := if t.aper then 0 else ((aget s.frames t.entry).map Frame.rcnt).getD 0

/-- Counts a page absent for MAPR (R232): absent, MIGRATING, or with RCNT at its limit. -/
def maprAbsent (s : State) : Option Tr → Bool
  | none => true
  | some t => t.absentFor true || rcntOf s t == 255

/-- MAPR (R232, R327): the checks in their order. -/
def execMapr (d a : SReg) (f : PReg) (la : Fin 16) (s : State) : Host.Outcome State Fault Refusal :=
  withCur (.mapr d a f la) false s fun s k g b =>
    let c := g.readS d
    let va := g.readS a
    let slot := bits c 34 32
    let len := bits c 29 20
    let sp := bits c 9 0
    let pages := maprPages s b.ctx va.toNat len
    let denied := pages.find? fun p => p.2.any fun t => t.perm &&& permR != permR
    let absent := pages.filter fun p => maprAbsent s p.2
    if bits c 63 35 ≠ 0 || bits c 31 30 ≠ 0 || bits c 19 10 ≠ 0 then .trap s .reservedField c
    else if bits va 63 56 ≠ 0 then .trap s .protection va
    else if len = 0 || 768 < len || va.toNat % 512 ≠ 0 then .trap s .region 4
    else if ahas b.regions slot then .trap s .region 1
    else if b.spadKB * 2 < sp + len then .trap s .region 2
    else if b.regions.any fun r => sp < r.2.sp + r.2.len && r.2.sp < sp + len then .trap s .region 3
    else
      match denied, absent with
      | some p, _ => .trap s .protection (dw p.1)
      | none, p :: _ =>
        if f = 15 then .trap s .pageAbsent (dw p.1) else .of (g.laneResultP f fun _ => 255)
      | none, [] =>
        let r : Region := ⟨va, pages.all fun p => p.2.all fun t => t.perm &&& permW == permW, len, sp⟩
        let s := (regionEntries s b.ctx r false).foldl (fun s e => modPage s e fun f => { f with rcnt := f.rcnt + 1 }) s
        noFlags k f { s with blocks := amod s.blocks g.blk fun b => { b with regions := aset b.regions slot r } }

/-- SYNCR and UNMAPR: the slot, the region and its write-back as writes of the group, performed before the instruction
completes (R190): it waits while traffic to one of their homes is held (R375, R377). -/
def regionBody (close : Bool) (d : SReg) (f : PReg) (s : State) (k : Nat) (g : Group) (b : Block) : Res :=
  let v := g.readS d
  if bits v 63 3 ≠ 0 then .trap s .reservedField v
  else
    match aget b.regions (bits v 2 0) with
    | none => .trap s .region 5
    | some r =>
      let stores := backStores s b r
      let far := stores.filter fun x => wayTo s (partOfDie s (b.core / 40)) x.1.pa = .held
      match bookShort s b g ((stores.flatMap backPieces).map Prod.fst) with
      | some (t, v) => .trap s t v
      | none =>
        let r0 := askBack s b stores
        if !far.isEmpty then .stall s
        else if askWaits r0.2 then .stall r0.1
        else
        let s := writeBack s g.blk k (g.lanesOn.head?.getD 0) r
        let s := stores.foldl (fun s x => landPosted s x.1.pa x.2.2.length) s
        noFlags k f (if close then closeRegion s g.blk (bits v 2 0) else s)

/-- SYNCR (R232, R327). -/
def execSyncr (d : SReg) (f : PReg) (la : Fin 16) (s : State) : Host.Outcome State Fault Refusal :=
  withCur (.syncr d f la) false s (regionBody false d f)

/-- UNMAPR (R232, R233, R327). -/
def execUnmapr (d : SReg) (f : PReg) (la : Fin 16) (s : State) : Host.Outcome State Fault Refusal :=
  withCur (.unmapr d f la) false s (regionBody true d f)

/-! Pins (R238, R328). -/

/-- PGPIN and PGUNPIN: privilege, the upper bits, absence, and one change of the count a lane. An aperture page has no
PINCNT: its lanes are refused (log 23). -/
def pinBody (pin : Bool) (d a : GReg) (f : PReg) (s : State) (k : Nat) (g : Group) (b : Block) : Res :=
  let va := g.readR a
  let ls := g.evalLanes d
  let mine := ls.filter g.isMember
  if !(ctxOf s b.ctx).priv then .trap s .protection 0
  else
    match upperFault g ls va with
    | some v => .trap s .protection v
    | none =>
      let l : List LaneAcc := mine.map fun x => ⟨x, va x, true,
        match walk s b.ctx (va x).toNat with
        | some t => if t.absentFor pin then .absent else .ok t
        | none => .absent⟩
      match if pin then earlyFault l (f == 15) else none with
      | some (t, v) => .trap s t v
      | none =>
        let r := l.foldl (fun (acc : State × List (Nat × Dword)) x =>
          match x.tr with
          | none => (acc.1, acc.2 ++ [(x.lane, 2)])
          | some t =>
            if t.aper then (acc.1, acc.2 ++ [(x.lane, 1)])
            else
              let q := if pin then pinPage acc.1 t.entry else unpinPage acc.1 t.entry
              let s := if pin || !q.2 then q.1 else unpinned q.1 t.entry
              (s, acc.2 ++ [(x.lane, if q.2 then 0 else 1)])) (s, [])
        .done (modGroup r.1 k fun g => (g.writeAll d r.2).flags f (if pin then l else []) (GReg.scalar d)) .seq []

/-- PGPIN (R328). -/
def execPgpin (d a : GReg) (f : PReg) (la : Fin 16) (s : State) : Host.Outcome State Fault Refusal :=
  withCur (.pgpin d a f la) false s (pinBody true d a f)

/-- PGUNPIN (R328). -/
def execPgunpin (d a : GReg) (f : PReg) (la : Fin 16) (s : State) : Host.Outcome State Fault Refusal :=
  withCur (.pgunpin d a f la) false s (pinBody false d a f)

end Sys2Proof.Machine
end

