-- ==== Sys2Proof/Machine/Accum.lean ====
section
/-! DEFINITION. Accumulator instructions (R343 to R353, R368): adding, replacing, merging, exchanging, rounding, images. -/

namespace Sys2Proof.Machine

/-! Names of LAs (R343). -/

/-- The key of the LA that window index n names in a lane. -/
def laKey (g : Group) (n lane : Nat) : Nat := 32 * (g.awbase + n) + lane

/-- An LA of the block by key. -/
def laGet (b : Block) (key : Nat) : LA := agetD b.las key LA.zero

/-- The lowest window index of a list that lies outside the window or the allotment. -/
def allotFault (g : Group) (b : Block) (ns : List Nat) : Option Nat :=
  (sortBy (fun x y => x ≤ y) (ns.filter fun n => 127 < n || b.lapl ≤ g.awbase + n)).head?

/-- Indices n to n + k − 1. -/
def laRun (n k : Nat) : List Nat := (List.range k).map (n + ·)

/-- An LA that takes another's contents: IN_USE and DIRTY become 1 (R348), and a poison mark of the LA written stays
(R397). -/
def LA.take (old new : LA) : LA := { new.touch with bad := old.bad }

/-- The course of an LA instruction (R368): the indices it names, whether FMT is refused, the LAs that member lanes read (a
helper lane raises no POISON, R136), and the writes, all from the LAs as they stood (R348, R349). `after` is the state with any register result. -/
def laOpTo (g : Group) (b : Block) (s after : State) (ns : List Nat) (fmtBad : Bool) (reads : List Nat)
    (writes : List (Nat × LA)) : Res :=
  match allotFault g b ns with
  | some n => .trap s .allotment (dw n)
  | none =>
    if fmtBad then .trap s .format g.fmt
    else if reads.any fun k => (laGet b k).bad then .onchip
    else .done after .seq (writes.map fun w => (w.1, (true, w.2)))

/-- Resolves LAs of a block where they stand (R65). -/
def resolveLas (s : State) (blk : Nat) (keys : List Nat) : State :=
  { s with blocks := amod s.blocks blk fun b =>
      { b with las := keys.foldl (fun m k => asetD m k (agetD m k LA.zero).resolve LA.zero) b.las } }

/-- Those of a list of LAs that lie in member lanes. -/
def memberKeys (g : Group) (l : List Nat) : List Nat := l.filter fun k => g.isMember (k % 32)

/-- An LA instruction that resolves the LAs it reads (R65, R348 to R351), each in its own lane. -/
def laRead (g : Group) (b : Block) (s after : State) (ns reads : List Nat) (writes : List (Nat × LA)) : Res :=
  laOpTo g b s (resolveLas after g.blk reads) ns false (memberKeys g reads) writes

/-- An LA instruction that writes LAs only. -/
def laOp (g : Group) (b : Block) (s : State) (ns : List Nat) (fmtBad : Bool) (reads : List Nat)
    (writes : List (Nat × LA)) : Res := laOpTo g b s s ns fmtBad (memberKeys g reads) writes

/-- Keys of indices in lanes. -/
def laKeys (g : Group) (ns ls : List Nat) : List Nat := ls.flatMap fun l => ns.map fun n => laKey g n l

/-! Adding (R345, R347). -/

/-- Neg of a term (R347). -/
def negTerm (t : Option FVal) : Option FVal := t.map FVal.neg

/-- The terms an adding instruction forms in a lane, with a second operand or without. -/
def laTerms (g : Group) (a : GReg) (b : Option GReg) (neg : Bool) (lane : Nat) : List (Option FVal) :=
  match accFmt (bits g.fmt 3 0), accFmt (bits g.fmt 7 4), b with
  | some af, _, none => (readA g.fmt af (g.readR a lane)).map fun x => (if neg then negTerm (some x) else some x)
  | some af, some bf, some r =>
    (products (readA g.fmt af (g.readR a lane)) (readBf g.fmt bf (g.readR r lane))).map fun t =>
      if neg then negTerm t else t
  | _, _, _ => []

/-- Is FMT refused by an adding instruction (R345). -/
def laFmtBad (g : Group) (pair : Bool) : Bool :=
  match accFmt (bits g.fmt 3 0), accFmt (bits g.fmt 7 4) with
  | none, _ => true
  | some af, some bf => pair && numBits af != numBits bf
  | some _, none => pair

/-- The adding instructions: into one LA, or spread over a run (R347). -/
def laAdd (spread neg : Bool) (d : CReg) (a : GReg) (r : Option GReg) (s : State) (g : Group) (b : Block) : Res :=
  let ns := if spread then laRun d (afCount g) else [d.val]
  let writes := g.lanesOn.flatMap fun l =>
    let ts := laTerms g a r neg l
    if spread then (ns.zip ts).map fun p => (laKey g p.1 l, (laGet b (laKey g p.1 l)).addTerm p.2)
    else [(laKey g d l, ts.foldl LA.addTerm (laGet b (laKey g d l)))]
  laOp g b s ns (laFmtBad g r.isSome) (laKeys g ns g.lanesOn) writes

/-- LAADD (R347). -/
def execLaadd (d : CReg) (a : GReg) (s : State) : Host.Outcome State Fault Refusal :=
  withCur (.laadd d a) false s fun s _ g b => laAdd false false d a none s g b

/-- LAADDS (R347). -/
def execLaadds (d : CReg) (a : GReg) (s : State) : Host.Outcome State Fault Refusal :=
  withCur (.laadds d a) false s fun s _ g b => laAdd true false d a none s g b

/-- LASUB (R347). -/
def execLasub (d : CReg) (a : GReg) (s : State) : Host.Outcome State Fault Refusal :=
  withCur (.lasub d a) false s fun s _ g b => laAdd false true d a none s g b

/-- LAMAD (R347). -/
def execLamad (d : CReg) (a b : GReg) (s : State) : Host.Outcome State Fault Refusal :=
  withCur (.lamad d a b) false s fun s _ g blk => laAdd true false d a (some b) s g blk

/-- LAMSB (R347). -/
def execLamsb (d : CReg) (a b : GReg) (s : State) : Host.Outcome State Fault Refusal :=
  withCur (.lamsb d a b) false s fun s _ g blk => laAdd true true d a (some b) s g blk

/-- LADOT (R347). -/
def execLadot (d : CReg) (a b : GReg) (s : State) : Host.Outcome State Fault Refusal :=
  withCur (.ladot d a b) false s fun s _ g blk => laAdd false false d a (some b) s g blk

/-! Replacing, merging and resolving (R348, R349). -/

/-- LACLR (R348): the poison mark is cleared too (R397). -/
def execLaclr (d : CReg) (n1 : Fin 128) (s : State) : Host.Outcome State Fault Refusal :=
  withCur (.laclr d n1) false s fun s _ g b =>
    let ns := laRun d (n1.val + 1)
    laOp g b s ns false [] ((laKeys g ns g.lanesOn).map fun k => (k, LA.zero))

/-- LACRS (R348). -/
def execLacrs (d : CReg) (n1 : Fin 128) (s : State) : Host.Outcome State Fault Refusal :=
  withCur (.lacrs d n1) false s fun s _ g b =>
    let ns := laRun d (n1.val + 1)
    laOp g b s ns false [] ((laKeys g ns g.lanesOn).map fun k => (k, (laGet b k).resolve))

/-- LAMRG (R348). -/
def execLamrg (d a : CReg) (s : State) : Host.Outcome State Fault Refusal :=
  withCur (.lamrg d a) false s fun s _ g b =>
    laRead g b s s [d.val, a.val] (laKeys g [d.val, a.val] g.lanesOn)
      (g.lanesOn.map fun l => (laKey g d l, ((laGet b (laKey g d l)).merge (laGet b (laKey g a l)).resolve).resolve))

/-- LAMOV (R348). -/
def execLamov (d a : CReg) (s : State) : Host.Outcome State Fault Refusal :=
  withCur (.lamov d a) false s fun s _ g b =>
    laRead g b s s [d.val, a.val] (laKeys g [a.val] g.lanesOn)
      (g.lanesOn.map fun l => (laKey g d l, (laGet b (laKey g d l)).take (laGet b (laKey g a l)).resolve))

/-- The negated LA of LANEG (R348). -/
def LA.negated (a : LA) : LA :=
  let v := -a.n
  let g := guardOf v
  let r := a.withN v (max (-128) (min 127 g))
  { r with ovf := a.ovf || !(-128 ≤ g && g ≤ 127), pinf := a.ninf, ninf := a.pinf }

/-- LANEG (R348). -/
def execLaneg (d a : CReg) (s : State) : Host.Outcome State Fault Refusal :=
  withCur (.laneg d a) false s fun s _ g b =>
    laRead g b s s [d.val, a.val] (laKeys g [a.val] g.lanesOn)
      (g.lanesOn.map fun l => (laKey g d l, (laGet b (laKey g d l)).take (laGet b (laKey g a l)).negated))

/-- LAXL (R349): an inactive source lane gives an empty LA. -/
def execLaxl (d a : CReg) (b : GReg) (s : State) : Host.Outcome State Fault Refusal :=
  withCur (.laxl d a b) false s fun s _ g blk =>
    let src (l : Nat) : Nat := bits (g.readR b l) 4 0
    let on := g.lanesOn.filter fun l => g.active.getLsbD (src l)
    laOpTo g blk s (resolveLas s g.blk (on.map fun l => laKey g a (src l))) [d.val, a.val] false
      ((on.filter g.isMember).map fun l => laKey g a (src l)) (g.lanesOn.map fun l =>
        let v := if g.active.getLsbD (src l) then (laGet blk (laKey g a (src l))).resolve else LA.zero
        (laKey g d l, (laGet blk (laKey g d l)).take v))

/-- LAXB (R349): an inactive source lane adds nothing. -/
def execLaxb (d a : CReg) (k : Fin 128) (s : State) : Host.Outcome State Fault Refusal :=
  withCur (.laxb d a k) false s fun s _ g b =>
    laRead g b s s [d.val, a.val] (laKeys g [a.val] g.lanesOn)
      (g.lanesOn.map fun l =>
        let mine := (laGet b (laKey g a l)).resolve
        let j := l ^^^ k.val
        let v := if g.active.getLsbD j then (mine.merge (laGet b (laKey g a j)).resolve).resolve else mine
        (laKey g d l, (laGet b (laKey g d l)).take v))

/-! Status and segments (R350). -/

/-- LAFLG (R350): a scalar d takes the lowest active lane's value. -/
def execLaflg (d : GReg) (a : CReg) (s : State) : Host.Outcome State Fault Refusal :=
  withCur (.laflg d a) false s fun s k g b =>
    laRead g b s (modGroup s k fun g => g.laneResult d fun l => dw (laGet b (laKey g a l)).resolve.status) [a.val]
      (laKeys g [a.val] (g.evalLanes d)) []

/-- One LA after an LAPUT of k (R350). -/
def LA.put (a : LA) (k : Nat) (v : Dword) : LA :=
  let r := a.resolve
  if k ≤ 9 then
    let keep := r.seg.toNat % 2 ^ (64 * k) + r.seg.toNat / 2 ^ (64 * (k + 1)) * 2 ^ (64 * (k + 1))
    { r.touch with seg := BitVec.ofNat 640 (keep + v.toNat * 2 ^ (64 * k)) }
  else if !bit v 0 then LA.zero
  else { (r.withStatus v.toNat).touch with bad := a.bad }

/-- Does an LAPUT status value have a nonzero Zero bit (R350). -/
def laputBad (v : Dword) : Bool := bits v 63 48 != 0 || bits v 39 26 != 0 || bits v 15 7 != 0

/-- LAPUT (R350). -/
def execLaput (d : CReg) (a : GReg) (k : Fin 128) (s : State) : Host.Outcome State Fault Refusal :=
  withCur (.laput d a k) false s fun s _ g b =>
    match allotFault g b [d.val], g.lanesOn.find? fun l => 10 ≤ k.val && g.isMember l && laputBad (g.readR a l) with
    | none, some l => .trap s .reservedField (g.readR a l)
    | _, _ =>
      let reads := g.lanesOn.filter fun l => k.val ≤ 9 || bit (g.readR a l) 0
      laOp g b s [d.val] false (laKeys g [d.val] reads)
        (g.lanesOn.map fun l => (laKey g d l, (laGet b (laKey g d l)).put k (g.readR a l)))

/-! Rounding (R351, R68). -/

/-- One LA rounded, with FMT.SAT (R259). -/
def roundLa (g : Group) (f : NumFmt) (mode : Round) (a : LA) : Nat × Flg :=
  let r := a.round f mode (fmtBsc g.fmt)
  match numFp f with
  | some fp => satFp fp (fmtSat g.fmt) r
  | none => r

/-- LARND (R351): raises its flags always. -/
def execLarnd (d : GReg) (a : CReg) (fo : Option NumFmt) (rm : Option Round) (la : Fin 16) (s : State) :
    Host.Outcome State Fault Refusal :=
  withCur (.larnd d a fo rm la) false s fun s k g b =>
    let f := fo.getD ((fmtOf g.fmt).getD .fp64)
    let mode := rm.getD (fmtRm g.fmt)
    let w := numBits f
    let ns := laRun a (rndCount g fo)
    let lane (l : Nat) : Dword × Flg :=
      let r := ns.map fun n => roundLa g f mode (laGet b (laKey g n l))
      (joinSubs w (r.map Prod.fst), r.foldl (fun x y => x.or y.2) Flg.none)
    laRead g b s (modGroup s k fun g => g.laneResultF d lane) ns (laKeys g ns (g.evalLanes d)) []

/-- LASEG (R351). -/
def execLaseg (d : GReg) (a : CReg) (k : Fin 10) (la : Fin 16) (s : State) : Host.Outcome State Fault Refusal :=
  withCur (.laseg d a k la) false s fun s j g b =>
    laRead g b s (modGroup s j fun g => g.laneResult d fun l =>
        dw ((laGet b (laKey g a l)).resolve.seg.toNat / 2 ^ (64 * k.val)))
      [a.val] (laKeys g [a.val] (g.evalLanes d)) []

/-! Images in memory (R352). -/

/-- A LAST to a REDUCE page (R381): the image on an ACCUM page, else ill-formed contributions to the locations that the
128 bytes cover. -/
def contributeImage (s : State) (gk c va : Nat) (t : Tr) (im : LA) : State :=
  match collAt s c va with
  | none => s
  | some (e, x) =>
    if t.accum then contribute s gk c e x true ((va - x.base) / 128) (mergeIn im)
    else
      let w := codeBytes x.fmt
      (List.range (128 / w)).foldl (fun s i => contribute s gk c e x false ((va - x.base) / w + i) LA.mergeIll) s

/-- LAST (R352). -/
def execLast (d : CReg) (a : GReg) (f : PReg) (la : Fin 16) (s : State) : Host.Outcome State Fault Refusal :=
  withCur (.last d a f la) false s fun s k g b =>
    match allotFault g b [d.val] with
    | some n => .trap s .allotment (dw n)
    | none =>
      let l := laneAccs s g b .last 128 (g.lanesOn.filter g.isMember) fun x => g.readR a x
      let stored := l.filter fun x => x.tr.isSome
      if (earlyFault l (f == 15)).isNone && stored.any fun x => (laGet b (laKey g d x.lane)).bad then .onchip
      else
        let im (x : LaneAcc) : LA := (laGet b (laKey g d x.lane)).resolve
        storeLanes s g b k .last 128 f l (fun x => (im x).image)
          (fun s x t => contributeImage s k b.ctx x.va.toNat t (im x))
          fun s => finishLanes k .z f l (resolveLas s g.blk (laKeys g [d.val] (stored.map LaneAcc.lane))) []

/-- LALD (R352): a lane that reads nothing leaves its LA in the condition of R61. -/
def execLald (d : CReg) (a : GReg) (f : PReg) (la : Fin 16) (s : State) : Host.Outcome State Fault Refusal :=
  withCur (.lald d a f la) false s fun s k g b =>
    match allotFault g b [d.val] with
    | some n => .trap s .allotment (dw n)
    | none =>
      let l := laneAccs s g b .lald 128 g.lanesOn fun x => g.readR a x
      match accessEnds s g b .lald 128 f false l fun m s x t => (laneRead k b 128 m s x t).map fun r => (r.1, 0) with
      | some r => r
      | none =>
        let q := askLanes s b .lald 128 l
        if askWaits q.2 then .stall q.1
        else
        let r := l.foldl (fun (acc : (State × AMap (Bool × LA)) ⊕ Dword) x =>
          match acc with
          | .inr v => .inr v
          | .inl (s, m) =>
            let key := laKey g d x.lane
            match x.tr with
            | none => .inl (s, m ++ [(key, (true, LA.zero))])
            | some t =>
              if (lateChk s b.core .lald 128 x.va t).isSome then .inl (s, m ++ [(key, (true, LA.zero))])
              else
                match laneRead k b 128 q.2 s x t with
                | some (s, im) => .inl (s, m ++ [(key, (true, (loadImage im).touch))])
                | none => if x.member then .inr x.va else .inl (s, m ++ [(key, (true, LA.zero))])) (.inl (q.1, []))
        match r with
        | .inr v => .trap s .protection v
        | .inl (s, m) => .done (modGroup s k fun g => g.flags f l false) .seq m

end Sys2Proof.Machine
end

