-- ==== Sys2Proof/Machine/Matrix.lean ====
section
/-! DEFINITION. Matrix passes, dense and sparse, alone and in gangs (R356 to R368). -/

namespace Sys2Proof.Machine

/-! Formats and fragments (R357 to R359). -/

/-- The operand width of an accepted pair (R357). -/
def passWidth (fmt : Dword) : Option Nat :=
  match fmtAf fmt, fmtBf fmt with
  | some .fp32, some .fp32 => some 32
  | some .fp16, some b | some .bf16, some b => if b = .fp16 || b = .bf16 then some 16 else none
  | some .d8, some b | some .int8, some b | some .nat8, some b =>
    if b = .d8 || b = .int8 || b = .nat8 then some 8 else none
  | _, _ => none

/-- K of a pass (R356). -/
def passK (w : Nat) : Nat := if w = 8 then 64 else if w = 16 then 32 else 16

/-- Where element (m, k) of a fragment lies: register offset, lane and sub-element (R358, R359). -/
def fragAt (w : Nat) (transposed : Bool) (m k : Nat) : Nat × Nat × Nat :=
  let s := 64 / w
  if transposed then
    let u := m / s + 16 / s * k
    (u / 32, u % 32, m % s)
  else (k / s / 2, m + 16 * (k / s % 2), k % s)

/-- An element of a fragment held in an owner's registers: +0 where its lane is inactive (R360). -/
def fragVal (own : Group) (base : VReg) (f : NumFmt) (scale : Int) (transposed : Bool) (m k : Nat) : FVal :=
  let p := fragAt (numBits f) transposed m k
  if own.active.getLsbD p.2.1 then exactOf f scale (sub (own.readV (base.val + p.1) p.2.1) (numBits f) p.2.2)
  else .fin false 0 0

/-! The metadata of a sparse pass (R362). -/

/-- Does MDATA have a nonzero Zero bit. -/
def mdataBad (v : Dword) : Bool := bits v 63 28 != 0 || bit v 19 || bits v 5 0 != 0

/-- Byte offset of the metadata block. -/
def mdataOff (v : Dword) : Nat := bits v 18 6 * 64

/-- MDATA after an MMAS. -/
def mdataNext (v : Dword) : Dword :=
  dw (v.toNat - mdataOff v + (bits v 18 6 + bits v 27 20) % 2 ^ 13 * 64)

/-- The 2-bit index of compressed element (m, c) (R362). -/
def metaIdx (words : List Dword) (kk m c : Nat) : Nat :=
  let i := 2 * (m * kk + c)
  bits (dwd words (i / 64)) (i % 64 + 1) (i % 64)

/-! A pass (R360, R361). -/

/-- What a member brings to a pass: its key, group and the fields of its instruction. -/
structure Member where
  key : Nat
  grp : Group
  ins : Instr
  d : CReg
  a : VReg
  b : VReg
  clr : Bool
deriving DecidableEq, Repr

/-- A member of an instruction. -/
def memberOf (k : Nat) (g : Group) (i : Instr) : Option Member :=
  match i with
  | .mma d a b clr _ | .mmas d a b clr _ => some ⟨k, g, i, d, a, b, clr⟩
  | _ => none

/-- The terms of C[m][n] (R360, R361): dense, or through the metadata words. -/
def passTerms (fmt : Dword) (x y : Member) (meta_ : Option (List Dword)) (w m n : Nat) : List (Option FVal) :=
  let af := (fmtAf fmt).getD .fp32
  let bf := (fmtBf fmt).getD .fp32
  (List.range (passK w)).map fun k =>
    let row := match meta_ with
      | none => k
      | some ws => 4 * (k / 2) + metaIdx ws (passK w) m k
    termOf (fragVal x.grp x.a af (fmtAsc fmt) (fmtTa fmt) m k) (fragVal y.grp y.b bf (fmtBsc fmt) (fmtTb fmt) n row)

/-- The LA writes of one member's pass: a sum that replaces an LA cleared as LACLR clears it, poison mark included
(R397), or that is merged (R360). -/
def passWrites (fmt : Dword) (me x y : Member) (meta_ : Option (List Dword)) (w : Nat) : AMap (Bool × LA) :=
  me.grp.lanesOn.flatMap fun l => (List.range 8).map fun j =>
    let c := LA.sumOf (passTerms fmt x y meta_ w (l / 16 * 8 + j) (l % 16))
    let key := laKey me.grp (me.d + j) l
    (key, (me.clr, if me.clr then c.touch else c))

/-- The metadata a member's pass reads, from the MDATA of A's owner; none of it for a dense pass. -/
def passMeta (s : State) (b : Block) (me x : Member) (sparse : Bool) (w : Nat) : SpadRes × Option (List Dword) :=
  if !sparse then (.ok s, none)
  else
    let lane := me.grp.lanesOn.head?.getD 0
    let r := spadLoad s me.key me.grp b 8
      ((List.range (passK w / 2)).map fun i => (lane, true, ⟨me.grp.blk, b, mdataOff x.grp.mdata + 8 * i⟩))
    (r.1, some (r.2.map Prod.snd))

/-- Must a member's pass wait: a region's fill on the way of its metadata does (R362, R375). -/
def metaHeld (s : State) (b : Block) (me x : Member) (sparse : Bool) (w : Nat) : Bool :=
  match (passMeta s b me x sparse w).1 with
  | .held _ => true
  | _ => false

/-! Checks at issue (R368). -/

/-- Is a member its own owner of A: the MDATA it holds is read then (R365). -/
def ownsMeta (g : Group) : Bool :=
  gangMode g.gang = 0 || (gangOwners (gangMode g.gang) (gangMember g.gang)).1 == gangMember g.gang

/-- The faults of MMA and MMAS before presentation: ALLOTMENT, FORMAT, RESERVED_FIELD and the metadata range. -/
def passFault (g : Group) (b : Block) (d : CReg) (sparse : Bool) : Option (Trap × Dword) :=
  match allotFault g b (laRun d 8), passWidth g.fmt with
  | some n, _ => some (.allotment, dw n)
  | none, none => some (.format, g.fmt)
  | none, some w =>
    if sparse && fmtTa g.fmt then some (.format, g.fmt)
    else if sparse && ownsMeta g && mdataBad g.mdata then some (.reservedField, g.mdata)
    else if sparse && ownsMeta g && b.spadKB * 1024 < mdataOff g.mdata + 4 * passK w then some (.protection, g.mdata)
    else none

/-! Gangs (R363 to R366). -/

/-- The FMT fields a latch takes: AF, BF, ASC, BSC, TA and TB. -/
def latchFmt (fmt : Dword) : Dword := dw (bits fmt 28 27 * 2 ^ 27 + bits fmt 23 0)

/-- Is a latch that of a group's gang. -/
def Latch.forGang (l : Latch) (g : Group) : Bool := l.blk == g.blk && l.gid == gangGid g.gang

/-- One member's pass: its LA writes, its MDATA, and its completion. -/
def runMember (s : State) (b : Block) (sparse : Bool) (fmt : Dword) (w : Nat) (me x y : Member) : State × Option (AMap (Bool × LA)) :=
  let m := passMeta s b me x sparse w
  match m.1 with
  | .ok s =>
    let s := if sparse then modGroup s me.key fun g => { g with mdata := mdataNext g.mdata } else s
    (s, some (passWrites fmt me x y m.2 w))
  | .bad s t v => (raiseFault s me.key t v me.grp.pc, none)
  | .held s => (s, none)
  | .onchip core => (countSram (raiseFault s me.key .poison 0 me.grp.pc) core, none)

/-- The rendezvous (R365): every waiting member's pass is performed and its instruction completes. -/
def runWaiting (s : State) (b : Block) (sparse : Bool) (fmt : Dword) (w : Nat) (all : List (Nat × Member)) (mode : Nat)
    (ms : List (Nat × Member)) : State :=
  ms.foldl (fun s e =>
    let o := gangOwners mode e.1
    match aget all o.1, aget all o.2 with
    | some x, some y =>
      let s := modGroup s e.2.key fun g => { g with st := g.awake, wait := none }
      match runMember s b sparse fmt w e.2 x y with
      | (s, some lw) => complete e.2.ins e.2.grp b e.2.key s .seq lw
      | (s, none) => s
    | _, _ => s) s

/-- A ganged MMA or MMAS presents at its latch (R365). -/
def present (s : State) (k : Nat) (g : Group) (b : Block) (me : Member) (sparse : Bool) (w : Nat) : Res :=
  let gid := gangGid g.gang
  let mem := gangMember g.gang
  let others (l : Latch) : Bool := !l.forGang g
  let seen := ((s.latches.find? fun l => l.forGang g).map Latch.seen).getD []
  let wait (members : AMap Nat) : Res :=
    let l : Latch := ⟨b.core, g.blk, gid, gangMode g.gang, gangSize g.gang, sparse, latchFmt g.fmt, members, seen⟩
    .block { s with latches := s.latches.filter others ++ [l] } .latch
  match s.latches.find? fun l => l.forGang g with
  | none => if 8 ≤ (s.latches.filter fun l => l.core == b.core).length then .stall s else wait [(mem, k)]
  | some l =>
    if l.mode ≠ gangMode g.gang || l.size ≠ gangSize g.gang || l.sparse != sparse || l.fmt ≠ latchFmt g.fmt then
      .trap s .gang (gangVal 0 2 gid)
    else if ahas l.members mem then .trap s .gang (gangVal 0 3 gid)
    else
      let members := aset l.members mem k
      if members.length < 2 ^ l.size then wait members
      else
        let rest := l.members.filterMap fun e =>
          match aget s.groups e.2 with
          | some h => (h.wait.bind fun x => memberOf e.2 h x.1).map fun m => (e.1, m)
          | none => none
        let all := aset rest mem me
        let ownerA (e : Nat × Member) : Member := (aget all (gangOwners l.mode e.1).1).getD e.2
        if all.any fun e => metaHeld s b e.2 (ownerA e) sparse w then .stall s else
        let s := { s with latches := s.latches.filter others }
        let s := runWaiting s b sparse g.fmt w all l.mode rest
        let o := gangOwners l.mode mem
        match aget all o.1, aget all o.2 with
        | some x, some y =>
          match runMember s b sparse g.fmt w me x y with
          | (s, some lw) => .done s .seq lw
          | (s, none) => .gone s
        | _, _ => .gone s

/-- MMA and MMAS (R356, R361). -/
def passBody (i : Instr) (sparse : Bool) (s : State) (k : Nat) (g : Group) (b : Block) : Res :=
  match memberOf k g i with
  | none => .gone s
  | some me =>
    match passFault g b me.d sparse, passWidth g.fmt with
    | some (t, v), _ => .trap s t v
    | none, none => .trap s .format g.fmt
    | none, some w =>
      if !me.clr && (memberKeys g (laKeys g (laRun me.d 8) g.lanesOn)).any (fun x => (laGet b x).bad) then .onchip
      else if gangMode g.gang = 0 then
        if metaHeld s b me me sparse w then .stall s else
        match runMember s b sparse g.fmt w me me me with
        | (s, some lw) => .done s .seq lw
        | (s, none) => .gone s
      else present s k g b me sparse w

/-- MMA (R356 to R360). -/
def execMma (d : CReg) (a b : VReg) (clr : Bool) (la : Fin 16) (s : State) : Host.Outcome State Fault Refusal :=
  withCur (.mma d a b clr la) false s (passBody (.mma d a b clr la) false)

/-- MMAS (R361, R362). -/
def execMmas (d : CReg) (a b : VReg) (clr : Bool) (la : Fin 16) (s : State) : Host.Outcome State Fault Refusal :=
  withCur (.mmas d a b clr la) false s (passBody (.mmas d a b clr la) true)

/-- The member indices of a latch's gang that groups of its block hold: live ones, or ended ones. -/
def gangHeld (s : State) (l : Latch) (ended : Bool) : List Nat :=
  (s.groups.filter fun e => e.2.blk == l.blk && e.2.ended == ended && gangMode e.2.gang == l.mode
    && gangSize e.2.gang == l.size && gangGid e.2.gang == l.gid).map fun e => gangMember e.2.gang

/-- The member indices of a latch's gang that groups of its block have held (R365). -/
def gangNoted (s : State) (l : Latch) : List Nat :=
  ((agetD s.gangs l.blk []).filter fun v => gangMode v == l.mode && gangSize v == l.size && gangGid v == l.gid).map gangMember

/-- Has a gang lost a member (R365): an index that a group of the block has held, and that has ended or has rewritten its GANG
since, is held by no live group. One that no group has written yet is not lost (log 75). -/
def gangLost (s : State) (l : Latch) : Bool :=
  (l.seen ++ gangHeld s l true).any fun m => m < 2 ^ l.size && !(gangHeld s l false).contains m

/-- Notes the GANG values that the groups of placed blocks hold (R365). -/
def noteGangs (s : State) : State :=
  let new := s.groups.filter fun e => gangMode e.2.gang != 0 && !(agetD s.gangs e.2.blk []).contains e.2.gang
  let old := s.gangs.filter fun e => ahas s.blocks e.1
  { s with gangs := new.foldl (fun m e => aset m e.2.blk (((agetD m e.2.blk []) ++ [e.2.gang]).eraseDups)) old }

/-- Ends the waits at latches whose gang has lost a member: every group that waits there faults with reason 4 (R365). -/
def settleLatches (s : State) : State :=
  let s := noteGangs s
  let s := { s with latches := s.latches.map fun (l : Latch) => { l with seen := gangNoted s l } }
  (s.latches.filter (gangLost s)).foldl (fun s l =>
    let s := { s with latches := s.latches.filter fun x => !(x.blk == l.blk && x.gid == l.gid) }
    l.members.foldl (fun s e =>
      match aget s.groups e.2 with
      | some g => raiseFault s e.2 .gang (gangVal 0 4 l.gid) g.pc
      | none => s) s) s

end Sys2Proof.Machine
end

