-- ==== Sys2Proof/Machine/Submit.lean ====
section
/-! DEFINITION. Instructions that act on queues: LAUNCH, QPUSH, ECMD, QPOP, QTRY, QBIND, QSTAT, QDRAIN (R108, R109,
R112, R115, R278, R330 to R335). -/

namespace Sys2Proof.Machine

/-! Host-fed queues (R97, R278). -/

/-- Key of a host-fed queue. -/
def hostKey (port qid : Nat) : Nat := port * 8192 + qid

/-- Appends 64 bytes as a record that takes the next SEQ (R97). -/
def appendHost (s : State) (key : Nat) (data : List Byte) : State :=
  let dws := (List.range 8).map fun i => dwordAt (data.drop (8 * i)) 0
  { s with queues := amod s.queues key fun q =>
      { q with recs := q.recs ++ [{ dw := dws, seq := q.nextSeq }], nextSeq := q.nextSeq + 1 } }

/-- Has a host-fed queue a free slot. -/
def HostQ.hasRoom (q : HostQ) : Bool := q.recs.length < q.depth

/-- The work queue of a context that a LAUNCH names, by key (R278, check 4). -/
def launchTarget (s : State) (b : Block) (v : Dword) : Option (Nat × HostQ) :=
  let key := hostKey (portOfPart s (partOfDie s (b.core / 40))) (bits v 12 0)
  match aget s.queues key with
  | some q => if bits v 12 0 ≠ 0 && q.ctx = b.ctx && b.ctx ≠ 0 && !q.dying then some (key, q) else none
  | none => none

/-- LAUNCH (R278): the checks in their order, a release, the read of the record, and its append. A full book is met by
the read, after every check, and a queue with no free slot before the read. -/
def execLaunch (a b : SReg) (s : State) : Host.Outcome State Fault Refusal :=
  withCur (.launch a b) false s fun s k g blk =>
    let va := g.readS a
    let qv := g.readS b
    if bits qv 63 13 ≠ 0 then .trap s .reservedField qv
    else if va.toNat % 64 ≠ 0 then .trap s .alignment va
    else
      match groupFault s g blk va 64, launchTarget s blk qv with
      | some (s, t, x), _ => .trap s t x
      | none, none => .trap s .protection qv
      | none, some (key, q) =>
        if q.halted then .trap s .queueHalted (dw (0x10000 + bits qv 12 0))
        else
          let s1 := flushUpd s fun u => u.grp == k
          if !q.hasRoom then .stall s1
          else
            match groupRead s1 k g blk va 64 with
            | (s2, .bad t x) => .trap s2 t x
            | (s2, .held) => .stall s2
            | (s2, .bytes data) => .done (appendHost s2 key data) .seq []

/-! Pushing records (R109, R331). -/

/-- The dwords of a pushed record: n from scalar registers k on, the rest 0. -/
def pushDwords (g : Group) (k n : Nat) : List Dword :=
  (List.range 8).map fun i => if i < n then g.readSn (k + i) else 0

/-- Is a TYPE that of a copy record (R331). -/
def isCopyType (ty : Nat) : Bool := 0x10 ≤ ty && ty ≤ 0x14

/-- Records queued at an endpoint, fence entries apart. -/
def EpQ.queued (e : EpQ) : Nat := (e.recs.filter fun r => r.fence.isNone).length

/-- Appends a record to the endpoint that register q of group k is bound to. -/
def appendPush (s : State) (k q : Nat) (key : Nat) (dws : List Dword) : State :=
  let copy := isCopyType ((dwd dws 0).toNat % 256)
  let s := { s with
    eps := amod s.eps key fun (e : EpQ) =>
      { e with recs := e.recs ++ [({ dw := dws, seq := e.nextSeq, owner := some (k, q), copy := copy } : QRec)],
               nextSeq := e.nextSeq + 1 } }
  { s with groups := amod s.groups k fun g =>
      { g with qregs := amod g.qregs q fun x => { x with outstanding := x.outstanding + 1 },
               openRecs := if copy then g.openRecs + 1 else g.openRecs } }

/-- QPUSH and ECMD with the dwords of the record (R331): a release, then the append, or a stall at a limit of R109. -/
def pushBody (dws : Group → List Dword) (q : QReg) (s : State) (k : Nat) (g : Group) (b : Block) : Res :=
  match aget g.qregs q with
  | none => .trap s .queueHalted (dw (0x100 + q.val))
  | some x =>
    let key := b.ctx * 64 + x.slot
    if x.halted then .trap s .queueHalted (dw q.val)
    else
      match aget s.eps key with
      | none => .trap s .queueHalted (dw q.val)
      | some e =>
        if 256 ≤ e.queued || 32 ≤ x.outstanding then .stall s
        else .done (appendPush (flushUpd s fun u => u.grp == k) k q key (dws g)) .seq []

/-- The dwords of an ECMD record: TYPE 0x10 + fn takes the place of bits [7:0] of dword 0 (R331). -/
def ecmdDwords (fn : Nat) (a n1 : Nat) (g : Group) : List Dword :=
  match pushDwords g a (n1 + 1) with
  | [] => []
  | d :: r => dw (d.toNat / 256 * 256 + 0x10 + fn) :: r

/-- QPUSH (R331). -/
def execQpush (q : QReg) (a : Fin 16) (n1 : Fin 4) (s : State) : Host.Outcome State Fault Refusal :=
  withCur (.qpush q a n1) false s fun s k g b => pushBody (fun g => pushDwords g a (n1 + 1)) q s k g b

/-- ECPY (R331). -/
def execEcpy (q : QReg) (a : Fin 16) (n1 : Fin 4) (s : State) : Host.Outcome State Fault Refusal :=
  withCur (.ecpy q a n1) false s fun s k g b => pushBody (ecmdDwords 0 a n1) q s k g b

/-- EGATH (R331). -/
def execEgath (q : QReg) (a : Fin 16) (n1 : Fin 4) (s : State) : Host.Outcome State Fault Refusal :=
  withCur (.egath q a n1) false s fun s k g b => pushBody (ecmdDwords 1 a n1) q s k g b

/-- ESCAT (R331). -/
def execEscat (q : QReg) (a : Fin 16) (n1 : Fin 4) (s : State) : Host.Outcome State Fault Refusal :=
  withCur (.escat q a n1) false s fun s k g b => pushBody (ecmdDwords 2 a n1) q s k g b

/-- ERCPY (R331). -/
def execErcpy (q : QReg) (a : Fin 16) (n1 : Fin 4) (s : State) : Host.Outcome State Fault Refusal :=
  withCur (.ercpy q a n1) false s fun s k g b => pushBody (ecmdDwords 3 a n1) q s k g b

/-- EFILL (R331). -/
def execEfill (q : QReg) (a : Fin 16) (n1 : Fin 4) (s : State) : Host.Outcome State Fault Refusal :=
  withCur (.efill q a n1) false s fun s k g b => pushBody (ecmdDwords 4 a n1) q s k g b

/-- EMIG (R331). -/
def execEmig (q : QReg) (a : Fin 16) (n1 : Fin 4) (s : State) : Host.Outcome State Fault Refusal :=
  withCur (.emig q a n1) false s fun s k g b => pushBody (ecmdDwords 5 a n1) q s k g b

/-! Collecting completions (R332, R335). -/

/-- Completions of pushed records that a register holds. -/
def QRegState.collected (x : QRegState) : Nat := (x.done.filter Completion.pushed).length

/-- Writes the two dwords of a completion to sD and the register after it. -/
def Group.writePair (g : Group) (d : SReg) (x y : Dword) : Group :=
  match d with
  | .z => g
  | .s n => (g.writeSn n x).writeSn (n + 1) y

/-- Takes the oldest completion of a register, if any. -/
def Group.popDone (g : Group) (q : Nat) (x : QRegState) : Option (Group × Completion) :=
  match x.done with
  | [] => none
  | c :: r =>
    let y := { x with done := r, outstanding := if c.pushed then x.outstanding - 1 else x.outstanding }
    some ({ g with qregs := aset g.qregs q y }, c)

/-- QPOP (R332). -/
def execQpop (d : SReg) (q : QReg) (s : State) : Host.Outcome State Fault Refusal :=
  withCur (.qpop d q) false s fun s _ g _ =>
    match aget g.qregs q with
    | none => .trap s .queueHalted (dw (0x100 + q.val))
    | some x =>
      match g.popDone q x with
      | some (g, c) => .of (g.writePair d c.value c.extra)
      | none => if x.outstanding = 0 then .trap s .queueHalted (dw q.val) else .block s .queue

/-- QTRY (R332). -/
def execQtry (d : SReg) (q : QReg) (s : State) : Host.Outcome State Fault Refusal :=
  withCur (.qtry d q) false s fun _ _ g _ =>
    match (aget g.qregs q).bind (g.popDone q) with
    | some (g, c) => .of (g.writePair d c.value c.extra)
    | none => .of (g.writePair d 0 0)

/-- STATUS of a completion value (R101). -/
def Completion.status (c : Completion) : Nat := c.value.toNat % 256

/-- QDRAIN (R335). -/
def execQdrain (d : GReg) (q : QReg) (s : State) : Host.Outcome State Fault Refusal :=
  withCur (.qdrain d q) false s fun s _ g _ =>
    match aget g.qregs q with
    | none => .of (g.writeGroup d 0)
    | some x =>
      if x.collected < x.outstanding then .block s .queue
      else
        let bad := (x.done.filter fun c => c.status != 0).length
        .of ({ g with qregs := aset g.qregs q { x with done := [], outstanding := 0 } }.writeGroup d (dw bad))

/-- QSTAT (R334). -/
def execQstat (d : GReg) (q : QReg) (s : State) : Host.Outcome State Fault Refusal :=
  withCur (.qstat d q) false s fun s _ g b =>
    match aget g.qregs q with
    | none => .of (g.writeGroup d 0)
    | some x =>
      let kind := ((aget s.eps (b.ctx * 64 + x.slot)).map EpQ.kind).getD 0
      let kind := if 64 ≤ x.slot then 0 else kind
      .of (g.writeGroup d (dw ((if x.halted then 2 else 1) * 2 ^ 62 + kind * 2 ^ 48 + x.outstanding * 2 ^ 32
        + x.done.length * 2 ^ 16 + x.slot % 64)))

/-! Binding (R108, R333). -/

/-- Is a bind refused (R108). -/
def bindRefused (s : State) (c slot kind : Nat) : Bool :=
  (ctxOf s c).epMax ≤ slot || (match aget s.eps (c * 64 + slot) with
    | some e => e.kind != kind
    | none => false)

/-- Ends what register q of group k has at an endpoint (R333): records not started complete ERR_ABORTED; whether one
is in progress. -/
def abortPushed (s : State) (c k q slot : Nat) : State × Bool :=
  if 64 ≤ slot then (s, false)
  else
    let l := queueRecs s (.ep c slot)
    let mine (r : QRec) : Bool := r.fence.isNone && r.owner == some (k, q)
    let s1 := setRecs s (.ep c slot) (l.filter fun r => !(mine r && r.started.isNone))
    let s2 := (l.filter fun r => mine r && r.started.isNone).foldl
      (fun s r => completeRec s (.ep c slot) r errAborted 0) s1
    (s2, l.any fun r => mine r && r.started.isSome)

/-- Binds a register that has no binding (R108). -/
def bindFresh (s : State) (k c q slot kind die : Nat) (refused : Bool) : State :=
  let put (s : State) (x : QRegState) : State :=
    { s with groups := amod s.groups k fun g => { g with qregs := aset g.qregs q x } }
  if refused then
    put s { halted := true, slot := 64, outstanding := 0,
            done := [{ value := completionValue 0 errIll, extra := 0, copy := false, batch := none, pushed := false }] }
  else
    let key := c * 64 + slot
    let s := match aget s.eps key with
      | some e => { s with eps := aset s.eps key { e with bound := e.bound + 1 } }
      | none => { s with eps := aset s.eps key { kind := kind, die := die, recs := [], nextSeq := 0, bound := 1 } }
    put s { halted := false, slot := slot, outstanding := 0, done := [] }

/-- QBIND (R108, R333). -/
def execQbind (q : QReg) (a : SReg) (s : State) : Host.Outcome State Fault Refusal :=
  withCur (.qbind q a) false s fun s k g b =>
    let v := g.readS a
    let slot := bits v 5 0
    let kind := bits v 9 8
    let die := b.core / 40
    if bits v 63 10 ≠ 0 || bits v 7 6 ≠ 0 then .trap s .reservedField v
    else
      let refused := bindRefused s b.ctx slot kind
      match aget g.qregs q with
      | none => .done (bindFresh s k b.ctx q slot kind die refused) .seq []
      | some x =>
        if x.slot = slot && !refused then
          .of { g with qregs := aset g.qregs q { x with halted := false } }
        else
          match abortPushed s b.ctx k q x.slot with
          | (s, true) => .stall s
          | (s, false) => .done (bindFresh (unbind s b.ctx x.slot) k b.ctx q slot kind die refused) .seq []

end Sys2Proof.Machine
end

