-- ==== Sys2Proof/Machine/GroupEvents.lean ====
section
/-! DEFINITION. Events of groups: ends of waits and windows, pre-emption by the timer, saves, pending results, sweeps,
evictions, acknowledgements (R65, R77, R90, R150, R170, R174, R178, R182, R274, R275). An event whose condition does not
hold changes nothing. An event that a time brings about moves the clock to that time where it lies ahead. -/

namespace Sys2Proof.Machine

/-- The clock at a time, if it lies ahead. -/
def State.upTo (s : State) (t : Nat) : State := { s with clock := max s.clock t }

/-- A wait of group k that is over: the group is RUNNING again and the instruction has its outcome. -/
def endWait (s : State) (k : Nat) (i : Instr) (r : State → Group → Block → Res) : State :=
  match aget s.groups k with
  | none => s
  | some g =>
    match aget s.blocks g.blk with
    | none => s
    | some b =>
      let g := { g with st := g.awake, wait := none, lastIssue := s.clock }
      let s := setGroup s k g
      conclude i g b k s (r s g b)

/-- SLEEP_EXPIRY (R274). -/
def execSleepExpiry (k : Nat) (s : State) : Host.Outcome State Fault Refusal :=
  match (aget s.groups k).bind Group.wait with
  | some (i, .sleep t) => .next (endWait (s.upTo t) k i fun _ g _ => .of g)
  | _ => .next s

/-- 50 µs in ns (R275). -/
abbrev nopreNs : Nat := 50000

/-- NOPRE_TIMEOUT (R174, R275): the window closes, a wait ends, and the group takes NOPRE_LIMIT; a group that is saved
takes it at the first instruction boundary after its restore. -/
def execNopreTimeout (k : Nat) (s : State) : Host.Outcome State Fault Refusal :=
  match aget s.groups k with
  | some g =>
    match g.nopre with
    | some t =>
      let s := s.upTo (t + nsClocks nopreNs)
      if g.ended then .next s
      else if g.st == .saved then .next (setGroup s k { g with nopre := none, limitDue := true })
      else .next (raiseAt (setGroup s k { g with nopre := none, st := g.awake }) k .nopreLimit 0 g.pc)
    | none => .next s
  | none => .next s

/-- The outcome of a re-test of WAITM (R170): none while the dword has not changed. -/
def retestWaitm (pd : PReg) (a v : SReg) (s : State) (k : Nat) (g : Group) (b : Block) : Option Res :=
  let va := dw (bits (g.readS a) 55 0)
  match testWaitm s b va (g.readS v) with
  | (s, .bad t x) => some (.trap s t x)
  | (_, .held) | (_, .differs false) => none
  | (s, .differs true) =>
    match groupRead s k g b va 8 with
    | (s, .bad t x) => some (.trap s t x)
    | (_, .held) => none
    | (s, .bytes _) => some (.done (modGroup s k fun g => g.status pd true) .seq [])

/-- The outcome of WAITM where a re-test has found the dword changed: what stands there by now changes nothing; a book without
room for the read's record traps before it (R410). -/
def metWaitm (pd : PReg) (a : SReg) (s : State) (k : Nat) (g : Group) (b : Block) : Res :=
  match groupRead s k g b (dw (bits (g.readS a) 55 0)) 8 with
  | (s', .bad .bookFull v) => .trap s' .bookFull v
  | (s', .bytes _) => .done (modGroup s' k fun g => g.status pd true) .seq []
  | _ => .done (modGroup s k fun g => g.status pd true) .seq []

/-- WAITM_MET (R170): a re-test that finds another value, or a fault. -/
def waitmMet (s : State) (k : Nat) : Option State :=
  match aget s.groups k with
  | none => none
  | some g =>
    match aget s.blocks g.blk, g.wait with
    | some b, some (.waitm pd sc a v, .mem _ met) =>
      let s0 := setGroup s k { g with st := g.awake, wait := none }
      (if met then some (metWaitm pd a s0 k g b) else retestWaitm pd a v s0 k g b).map fun r =>
        conclude (.waitm pd sc a v) { g with st := g.awake, wait := none } b k
          (setGroup s k { g with st := g.awake, wait := none, lastIssue := s.clock }) r
    | _, _ => none

/-- WAITM_MET (R170). -/
def execWaitmMet (k : Nat) (s : State) : Host.Outcome State Fault Refusal := .next ((waitmMet s k).getD s)

/-- WAITM_TIMEOUT (R170): no change is missed, so a re-test comes first. -/
def execWaitmTimeout (k : Nat) (s : State) : Host.Outcome State Fault Refusal :=
  match (aget s.groups k).bind Group.wait with
  | some (.waitm pd sc a v, .mem (some t) _) =>
    let s := s.upTo t
    match waitmMet s k with
    | some s => .next s
    | none => .next (endWait s k (.waitm pd sc a v) fun s g _ => .done (setGroup s k (g.status pd false)) .seq [])
  | _ => .next s

/-- CARRY_SWEEP (R65) of LA la (32 × index + lane) of a block. -/
def execCarrySweep (blk la k : Nat) (s : State) : Host.Outcome State Fault Refusal :=
  match aget s.blocks blk with
  | some b =>
    if b.st == .placed && k ≤ 8 && ahas b.las la then
      .next (setBlock s blk { b with las := asetD b.las la ((agetD b.las la LA.zero).sweep k) LA.zero })
    else .next s
  | none => .next s

/-- UPDATE_LINE_EVICTION (R178): the updates buffered in a line merge at home. -/
def execUpdateLineEviction (key line : Nat) (s : State) : Host.Outcome State Fault Refusal :=
  .next (flushUpd s fun u => u.key == key && u.pa / 128 == line / 128)

/-- PENDING_RESULT_COMPLETE (R150): the result of a pending instruction lands; its promise stands. -/
def execPendingResultComplete (k idx : Nat) (s : State) : Host.Outcome State Fault Refusal :=
  .next (drainGroup s k fun x =>
    match x.1.pend[idx]? with
    | none => x
    | some p =>
      let y := landOne x p
      let l := y.1.pend.set idx { p with landed := true, vw := [], sw := [], pw := [], lw := [] }
      ({ y.1 with pend := l.filter fun p => !(p.landed && p.left == 0) }, y.2))

/-- POSTED_WRITE_ACKNOWLEDGEMENT (R182): a peer acknowledges the writes posted to it that have reached it, performed by
then; those on whose way traffic is held have not (R375, R377). -/
def execPostedWriteAcknowledgement (peer : Nat) (s : State) : Host.Outcome State Fault Refusal :=
  let mine (p : Posted) : Bool := p.peer == peer && wayTo s p.part p.pa = .free
  let s1 := landWrites s mine
  .next { s1 with posted := s1.posted.filter fun p => !mine p }

/-- The status register of a fence that can wait. -/
def fencePd : Instr → Option PReg
  | .fenceRel pd _ => some pd
  | .fenceAr pd _ => some pd
  | _ => none

/-- SYSTEM_FENCE_TIMEOUT (R182): 2 ms after its issue a fence ends, and the writes not acknowledged are lost. -/
def execSystemFenceTimeout (k : Nat) (s : State) : Host.Outcome State Fault Refusal :=
  match aget s.groups k with
  | none => .next s
  | some g =>
    match g.fenceAt, g.held with
    | some t, some i =>
      match fencePd i with
      | some pd =>
        .next (endWait (s.upTo (t + nsClocks fenceNs)) k i fun s g _ =>
          endSystemFence (losePosted s k fun _ => true) k { g with stalled := false, held := none } pd)
      | none => .next s
    | _, _ => .next s

/-- PREEMPT_FALLBACK (R90): 200 µs after the request a group that reached no CUE is dumped. A group in a NOPRE window,
in a save or restore routine, or waiting in a fence (R182) is not. -/
def execPreemptFallback (k : Nat) (s : State) : Host.Outcome State Fault Refusal :=
  match aget s.groups k with
  | none => .next s
  | some g =>
    match (aget s.blocks g.blk).bind Block.pre with
    | some t =>
      let s := s.upTo (t + nsClocks fallbackNs)
      if g.st == .running && g.nopre.isNone && g.fenceAt.isNone && !g.inRoutine then .next (dumpGroup s k .dump)
      else .next s
    | none => .next s

/-- May a block be saved: every group of it is, and its write-backs need not wait (R90, R204, R410). -/
def maySave (s : State) (k : Nat) (b : Block) : Bool :=
  b.pre.isSome && b.st == .placed && blockQuiet s k && !backWaits s b (k * 32)

/-- BLOCK_SAVE (R77, R90 step 4). -/
def execBlockSave (b : Nat) (s : State) : Host.Outcome State Fault Refusal :=
  match aget s.blocks b with
  | some x => .next (if maySave s b x then saveBlock s b else s)
  | none => .next s

end Sys2Proof.Machine
end

