-- ==== Sys2Proof/Machine/Engines.lean ====
section
/-! DEFINITION. Work of the engines: reads, copies, fills, gathers and tiles (R105, R336 to R339, R341), and the course
of a record at the head of its queue (R100, R101, R110). -/

namespace Sys2Proof.Machine

/-! The head of a queue. -/

/-- Fields of a dword that must be zero (R5, R100). -/
def zeroBits (x : Dword) (l : List (Nat × Nat)) : Bool := l.all fun r => bits x r.1 r.2 == 0

/-- Are dwords lo to hi of a record zero. -/
def zeroDwords (r : QRec) (lo hi : Nat) : Bool := (List.range (hi + 1 - lo)).all fun i => dwd r.dw (lo + i) == 0

/-- Is an address field within 56 bits (R100, R336). -/
def addrOk (x : Dword) : Bool := bits x 63 56 == 0

/-- The course of a record of a TYPE at the head of queue q: nothing where the head is not such a record or may not be
performed; ERR_ILLFORMED and the halt of R107 or R109 where it is ill-formed, once the launches ahead of it complete (R110);
else it is started and has its effect. -/
def withHead (s : State) (q : QRef) (ty : Nat) (ok : State → QRec → Bool) (body : State → QRec → State) : State :=
  match queueRecs s q with
  | [] => s
  | r :: _ =>
    if !startable s q || recType r ≠ ty then s
    else if !queueAccepts s q ty || !eventOk r || !ok s r then
      (if r.started.isSome then body s r else if launchesDone s q then finishIll s q errIll else s)
    else body (startHead s q) r

/-- Sets the work done of the head record. -/
def setWork (s : State) (q : QRef) (n : Nat) : State :=
  match queueRecs s q with
  | r :: l => setRecs s q ({ r with work := n } :: l)
  | [] => s

/-- What stops an engine before its work is done. -/
inductive Stop where
  | wait
  | err (status : Nat)
deriving DecidableEq, Repr

/-- The record at the head has done n units of work in all: it waits, or completes with a count (R341). -/
def endWork (s : State) (q : QRef) (n count : Nat) : Option Stop → State
  | none => finishHead s q 0 (dw count)
  | some .wait => setWork s q n
  | some (.err e) => finishHead s q e (dw count)

/-- A read of n bytes by a queue agent, page by page. -/
def engReadSpan (s : State) (q : QRef) (c va n die : Nat) : State × EngVal :=
  (pieces va n).foldl (fun r p =>
    match r.2 with
    | .ok l =>
      match engRead r.1 q c p.1 p.2.2 die with
      | (s, .ok x) => (s, .ok (l ++ x))
      | (s, x) => (s, x)
    | _ => r) (s, .ok [])

/-! Copies (R105, R337). -/

/-- Bytes from an address to the end of its page. -/
def toPageEnd (va : Nat) : Nat := 65536 - va % 65536

/-- Bytes of a source that an engine can read before an uncorrectable granule (R105). -/
def goodBytes (s : State) (t : Tr) (n : Nat) : Nat := if paKind t.pa = .hbm then cleanPrefix s t.pa n else n

/-- Does a write by an engine fail at its destination (R105): its frame takes no more writes. -/
def destFails (s : State) (t : Tr) : Bool := paKind t.pa = .hbm && s.failing.contains (t.pa / 65536)

/-- Copies n bytes that lie in one page at each end: how many were copied, and what stopped the rest. Those before a
granule in error are copied, but for an element, which is read whole before it is written (R338). -/
def copyChunk (s : State) (q : QRef) (c die src dst n : Nat) (whole : Bool) : State × Nat × Option Stop :=
  let p := queuePart s q
  match engPage s c src false p die with
  | (s, .wait) => (s, 0, some .wait)
  | (s, .err e) => (s, 0, some (.err e))
  | (s, .ok ts) =>
    match engPage s c dst true p die with
    | (s, .wait) => (s, 0, some .wait)
    | (s, .err e) => (s, 0, some (.err e))
    | (s, .ok td) =>
      let good := goodBytes s ts n
      let m := if whole && good < n then 0 else good
      if bookWaits s c [(ts, m), (td, m)] then (s, 0, some .wait)
      else if m ≠ 0 && destFails s td then (s, 0, some (.err errDest))
      else
        let r := if m = 0 then (s, .ok ()) else
          match homeReadNc s ts.key ts.pa m with
          | (s, .waits) => (s, .waits)
          | (s, .err) => (s, .err)
          | (s, .ok data) =>
            match homeWriteNc s td.key td.pa data with
            | (s, .ok ()) => (noteAgent (noteAgent s c ts m .read (queueAgent q)) c td m .write (queueAgent q), .ok ())
            | r => r
        match r with
        | (s, .waits) => (s, 0, some .wait)
        | (s, .err) => (s, 0, some (.err errProt))
        | (s, .ok ()) => if m < n then (findErrors s (ts.pa + good) 1, m, some (.err errSource)) else (s, n, none)

/-- Copies len bytes from byte `at_` of a span on, chunk by chunk: the byte reached. -/
def copySpan : Nat → State → QRef → Nat → Nat → Nat → Nat → Nat → Nat → State × Nat × Option Stop
  | 0, s, _, _, _, _, _, _, at_ => (s, at_, none)
  | fuel + 1, s, q, c, die, src, dst, len, at_ =>
    if len ≤ at_ then (s, at_, none)
    else
      let n := min (len - at_) (min (toPageEnd (src + at_)) (toPageEnd (dst + at_)))
      match copyChunk s q c die (src + at_) (dst + at_) n false with
      | (s, m, some x) => (s, at_ + m, some x)
      | (s, _, none) => copySpan fuel s q c die src dst len (at_ + n)

/-- Chunks of a span of len bytes, at most. -/
def chunkFuel (len : Nat) : Nat := 2 * (len / 65536) + 4

/-- Do two ranges overlap. -/
def rangesMeet (a n b m : Nat) : Bool := n != 0 && m != 0 && decide (a < b + m) && decide (b < a + n)

/-- The die whose ferry performs a COPY of a host-fed queue (R105). -/
def ferryDie (s : State) (q : QRef) (c src dst : Nat) : Nat :=
  let home (va : Nat) : Option Nat :=
    match walk s c va with
    | some t => if paKind t.pa = .hbm then some (homeDie t.pa) else none
    | none => none
  match q, home dst, home src with
  | .ep _ _, _, _ => queueDie s q
  | _, some d, _ => d
  | _, none, some d => d
  | _, none, none => queueDie s q

/-- Performs a copy of the head record, from where it stands. -/
def runCopy (s : State) (q : QRef) (r : QRec) (src dst len : Nat) : State :=
  let c := queueCtx s q
  match copySpan (chunkFuel len) s q c (ferryDie s q c src dst) src dst len r.work with
  | (s, n, x) => endWork s q n n x

/-- Well-formedness of COPY (R105): the fields it does not name are zero. -/
def copyOk (r : QRec) : Bool :=
  let src := dwd r.dw 1
  let dst := dwd r.dw 2
  let len := bits (dwd r.dw 3) 39 0
  zeroBits (dwd r.dw 0) [(63, 8)] && addrOk src && addrOk dst && zeroBits (dwd r.dw 3) [(63, 40)] && zeroDwords r 4 6
    && !rangesMeet src.toNat len dst.toNat len

/-- COPY (R105). -/
def execCopy (q : QRef) (s : State) : Host.Outcome State Fault Refusal :=
  .next (withHead s q 0x04 (fun _ r => copyOk r) fun s r =>
    runCopy s q r (dwd r.dw 1).toNat (dwd r.dw 2).toNat (bits (dwd r.dw 3) 39 0))

/-- Well-formedness of ECPY (R337). -/
def ecpyOk (r : QRec) : Bool :=
  let len := bits (dwd r.dw 0) 63 24
  zeroBits (dwd r.dw 0) [(23, 8)] && addrOk (dwd r.dw 1) && addrOk (dwd r.dw 2) && dwd r.dw 3 == 0
    && !rangesMeet (dwd r.dw 1).toNat len (dwd r.dw 2).toNat len

/-- ECPY (R337). -/
def execEcpyRecord (q : QRef) (s : State) : Host.Outcome State Fault Refusal :=
  .next (withHead s q 0x10 (fun _ r => ecpyOk r) fun s r =>
    runCopy s q r (dwd r.dw 1).toNat (dwd r.dw 2).toNat (bits (dwd r.dw 0) 63 24))

/-! Fills (R337). -/

/-- Byte X of a fill: byte X mod 8 of the pattern. -/
def fillBytes (pattern : Dword) (va n : Nat) : List Byte :=
  (List.range n).map fun i => BitVec.ofNat 8 (pattern.toNat / 2 ^ (8 * ((va + i) % 8)))

/-- Fills len bytes from byte `at_` on, page by page. -/
def fillSpan : Nat → State → QRef → Nat → Nat → Dword → Nat → Nat → State × Nat × Option Stop
  | 0, s, _, _, _, _, _, at_ => (s, at_, none)
  | fuel + 1, s, q, c, dst, pattern, len, at_ =>
    if len ≤ at_ then (s, at_, none)
    else
      let n := min (len - at_) (toPageEnd (dst + at_))
      match engPage s c (dst + at_) true (queuePart s q) (queueDie s q) with
      | (s, .wait) => (s, at_, some .wait)
      | (s, .err e) => (s, at_, some (.err e))
      | (s, .ok t) =>
        if bookHolds s c t n then (s, at_, some .wait)
        else if destFails s t then (s, at_, some (.err errDest))
        else
          match homeWriteNc s t.key t.pa (fillBytes pattern (dst + at_) n) with
          | (s, .waits) => (s, at_, some .wait)
          | (s, .err) => (s, at_, some (.err errProt))
          | (s, .ok ()) => fillSpan fuel (noteAgent s c t n .write (queueAgent q)) q c dst pattern len (at_ + n)

/-- EFILL (R337). -/
def execEfillRecord (q : QRef) (s : State) : Host.Outcome State Fault Refusal :=
  .next (withHead s q 0x14
    (fun _ r => zeroBits (dwd r.dw 0) [(23, 8)] && addrOk (dwd r.dw 1) && dwd r.dw 3 == 0) fun s r =>
      let len := bits (dwd r.dw 0) 63 24
      match fillSpan (chunkFuel len) s q (queueCtx s q) (dwd r.dw 1).toNat (dwd r.dw 2) len r.work with
      | (s, n, x) => endWork s q n n x)

/-! Gather and scatter (R338). -/

/-- The fields of EGATH and ESCAT. -/
structure Elems where
  count : Nat
  iw : Nat
  esz : Nat
  base : Nat
  idx : Nat
  other : Nat
deriving DecidableEq, Repr

/-- Reads them. -/
def elemsOf (r : QRec) : Elems :=
  let d := dwd r.dw 0
  { count := bits d 63 32, iw := if bits d 13 12 = 0 then 4 else 8, esz := 2 ^ bits d 10 8, base := (dwd r.dw 1).toNat,
    idx := (dwd r.dw 2).toNat, other := (dwd r.dw 3).toNat }

/-- Well-formedness of EGATH and ESCAT (R338). -/
def elemsOk (r : QRec) : Bool :=
  let d := dwd r.dw 0
  let e := elemsOf r
  zeroBits d [(31, 14), (11, 11)] && bits d 13 12 ≤ 1 && addrOk (dwd r.dw 1) && addrOk (dwd r.dw 2) && addrOk (dwd r.dw 3)
    && e.base % e.esz == 0 && e.idx % e.iw == 0 && e.other % e.esz == 0
    && !rangesMeet e.other (e.count * e.esz) e.idx (e.count * e.iw)

/-- One element (R338). -/
def elemStep (s : State) (q : QRef) (c die : Nat) (e : Elems) (scatter : Bool) (i : Nat) : State × Option Stop :=
  match engRead s q c (e.idx + i * e.iw) e.iw die with
  | (s, .wait) => (s, some .wait)
  | (s, .err x) => (s, some (.err x))
  | (s, .ok l) =>
    let a := e.base + ofBytes l * e.esz
    let b := e.other + i * e.esz
    if 2 ^ 56 < a + e.esz then (s, some (.err errProt))
    else
      match copyChunk s q c die (if scatter then b else a) (if scatter then a else b) e.esz true with
      | (s, _, x) => (s, x)

/-- Elements from i on, at most fuel of them: the number completed. -/
def elemLoop : Nat → State → QRef → Nat → Nat → Elems → Bool → Nat → State × Nat × Option Stop
  | 0, s, _, _, _, _, _, i => (s, i, none)
  | fuel + 1, s, q, c, die, e, scatter, i =>
    if e.count ≤ i then (s, i, none)
    else
      match elemStep s q c die e scatter i with
      | (s, some x) => (s, i, some x)
      | (s, none) => elemLoop fuel s q c die e scatter (i + 1)

/-- Performs the elements of the head record from where it stands. -/
def runElems (s : State) (q : QRef) (r : QRec) (scatter : Bool) : State :=
  let e := elemsOf r
  match elemLoop e.count s q (queueCtx s q) (queueDie s q) e scatter r.work with
  | (s, n, x) => endWork s q n n x

/-- EGATH (R338). -/
def execEgathRecord (q : QRef) (s : State) : Host.Outcome State Fault Refusal :=
  .next (withHead s q 0x11 (fun _ r => elemsOk r) fun s r => runElems s q r false)

/-- ESCAT (R338). -/
def execEscatRecord (q : QRef) (s : State) : Host.Outcome State Fault Refusal :=
  .next (withHead s q 0x12 (fun _ r => elemsOk r) fun s r => runElems s q r true)

/-! Tiles (R339). -/

/-- Bytes from the first of a tile to its last. -/
def tileSpan (rb rows stride : Nat) : Nat := if rb = 0 || rows = 0 then 0 else (rows - 1) * stride + rb

/-- Well-formedness of ERCPY (R339). -/
def ercpyOk (r : QRec) : Bool :=
  let rb := bits (dwd r.dw 0) 63 40
  let rows := bits (dwd r.dw 0) 39 24
  let ss := bits (dwd r.dw 3) 31 0
  let ds := bits (dwd r.dw 3) 63 32
  zeroBits (dwd r.dw 0) [(23, 8)] && addrOk (dwd r.dw 1) && addrOk (dwd r.dw 2)
    && (rb = 0 || rows = 0 || (!(1 < rows && ds < rb)
      && !rangesMeet (dwd r.dw 1).toNat (tileSpan rb rows ss) (dwd r.dw 2).toNat (tileSpan rb rows ds)))

/-- Rows of a tile from byte `at_` of its data on, at most fuel of them: the byte reached. -/
def tileLoop : Nat → State → QRef → Nat → Nat → Nat → Nat → Nat → Nat → Nat → Nat → Nat → State × Nat × Option Stop
  | 0, s, _, _, _, _, _, _, _, _, _, at_ => (s, at_, none)
  | fuel + 1, s, q, c, die, src, dst, rb, rows, ss, ds, at_ =>
    if rb * rows ≤ at_ then (s, at_, none)
    else
      let row := at_ / rb
      match copySpan (chunkFuel rb) s q c die (src + row * ss) (dst + row * ds) rb (at_ % rb) with
      | (s, n, some x) => (s, row * rb + n, some x)
      | (s, _, none) => tileLoop fuel s q c die src dst rb rows ss ds ((row + 1) * rb)

/-- ERCPY (R339). -/
def execErcpyRecord (q : QRef) (s : State) : Host.Outcome State Fault Refusal :=
  .next (withHead s q 0x13 (fun _ r => ercpyOk r) fun s r =>
    let rb := bits (dwd r.dw 0) 63 40
    let rows := bits (dwd r.dw 0) 39 24
    let src := (dwd r.dw 1).toNat
    let dst := (dwd r.dw 2).toNat
    let die := queueDie s q
    match tileLoop rows s q (queueCtx s q) die src dst rb rows (bits (dwd r.dw 3) 31 0) (bits (dwd r.dw 3) 63 32) r.work with
    | (s, n, x) => endWork s q n (if rb = 0 then 0 else n / rb) x)

end Sys2Proof.Machine
end

