-- ==== Sys2Proof/Machine/QueueEvents.lean ====
section
/-! DEFINITION. Landing writes, WAIT, SIGNAL and the administration of queues (R96 to R98, R103, R104, R106, R107). -/

namespace Sys2Proof.Machine

/-! Landing windows (R97, R98). -/

/-- Counts a dropped write of a window, saturating, and logs it (R97). -/
def dropWrite (s : State) (port off : Nat) : State :=
  let s := { s with log := s.log ++ [.dropped port off] }
  if off < 2 ^ 25 then
    let key := hostKey port (off / 4096)
    { s with drops := asetD s.drops key (min 16383 (agetD s.drops key 0 + 1)) 0 }
  else s

/-- The window status (R98). -/
def windowStatus (s : State) (port qid : Nat) : Dword :=
  let d := agetD s.drops (hostKey port qid) 0
  match aget s.queues (hostKey port qid) with
  | none => dw (d * 2 ^ 48)
  | some q =>
    dw ((if q.halted then 2 else 1) * 2 ^ 62 + d * 2 ^ 48 + min 32767 (q.depth - q.recs.length) * 2 ^ 32
      + q.nextSeq % 2 ^ 32)

/-- What a read of a port's landing windows returns (R98): the status at offset 0 of a window, 8 bytes wide; zeros at any
other offset or size. -/
def windowRead (s : State) (port off size : Nat) : List Byte :=
  if size = 8 && off % 4096 = 0 && off < 2 ^ 25 then bytesOf [windowStatus s port (off / 4096)] else List.replicate size 0

/-- LANDING_WRITE (R97): a write cannot arrive at a port that presents no window, or is DOWN (R96, R373). One that arrives
during a warm reset is dropped (R398). The host's writes to device memory before it are performed first (R99, R193). -/
def execLandingWrite (port off : Nat) (data : List Byte) (s : State) : Host.Outcome State Fault Refusal :=
  let arrives := (partOfPort s port).isSome && (match s.pports[port]? with
    | some p => p.st != .down
    | none => false)
  if !arrives then .next s
  else
    let key := hostKey port (off / 4096)
    let open_ := match aget s.queues key with
      | some q => !q.halted && !q.dying && q.hasRoom
      | none => false
    if data.length = 64 && off % 64 = 0 && off < 2 ^ 25 && open_ && s.resetUntil ≤ s.clock then
      .next (appendHost (settleHost s) key data)
    else .next (dropWrite s port off)

/-! WAIT (R103). -/

/-- Well-formedness of WAIT. -/
def waitOk (r : QRec) : Bool :=
  zeroBits (dwd r.dw 0) [(63, 16), (11, 8)] && bits (dwd r.dw 0) 15 12 ≤ 3 && addrOk (dwd r.dw 1)
    && (dwd r.dw 1).toNat % 8 == 0 && zeroBits (dwd r.dw 4) [(63, 32)] && zeroDwords r 5 6

/-- Does a value meet the condition. -/
def waitHolds (r : QRec) (v : Dword) : Bool :=
  let x := v &&& dwd r.dw 3
  let cmp := dwd r.dw 2
  match bits (dwd r.dw 0) 15 12 with
  | 0 => decide (cmp.toNat ≤ x.toNat)
  | 1 => x == cmp
  | 2 => x != cmp
  | _ => v.getLsbD 63

/-- One test of the location: the state after it, and the status with which the record completes, if it does. -/
def testWait (s : State) (q : QRef) (r : QRec) : State × Option Nat :=
  match engRead s q (queueCtx s q) (dwd r.dw 1).toNat 8 (queueDie s q) with
  | (s, .wait) => (s, none)
  | (s, .err e) => (s, some e)
  | (s, .ok l) => (s, if waitHolds r (dwordAt l 0) then some 0 else none)

/-- A WAIT that completes with any status but OK halts its queue (R103, R107, R109). -/
def endWaitRec (s : State) (q : QRef) (status : Nat) : State :=
  let s := finishHead s q status 0
  if status = 0 then s else haltQueue s q

/-- Tests the WAIT at the head, and completes it where the test decides. -/
def tryWait (s : State) (q : QRef) (r : QRec) : State :=
  match testWait s q r with
  | (s, some st) => endWaitRec s q st
  | (s, none) => s

/-- WAIT (R103): the record starts, and its location is tested. -/
def execWait (q : QRef) (s : State) : Host.Outcome State Fault Refusal :=
  .next (withHead s q 0x02 (fun _ r => waitOk r) fun s r => if r.started.isNone then tryWait s q r else s)

/-- WAIT_MET (R103): a further test, after which the record completes OK, or with an error. -/
def execWaitMet (q : QRef) (s : State) : Host.Outcome State Fault Refusal :=
  .next (withHead s q 0x02 (fun _ r => waitOk r) fun s r =>
    if r.started.isSome then
      match testWait s q r with
      | (s, some st) => endWaitRec s q st
      | (s, none) => s
    else s)

/-- WAIT_TIMEOUT (R103): counted from the start of the record; a location that meets the condition by then completes
the record OK. -/
def execWaitTimeout (q : QRef) (s : State) : Host.Outcome State Fault Refusal :=
  .next (withHead s q 0x02 (fun _ r => waitOk r) fun s r =>
    let us := bits (dwd r.dw 4) 31 0
    match r.started with
    | some t =>
      if us = 0 then s
      else
        let s := s.upTo (t + nsClocks (us * 1000))
        match testWait s q r with
        | (s, some st) => endWaitRec s q st
        | (s, none) => endWaitRec s q errTimeout
    | none => s)

/-! SIGNAL (R104). -/

/-- Well-formedness of SIGNAL: the fields it does not name are zero. -/
def signalOk (r : QRec) : Bool :=
  zeroBits (dwd r.dw 0) [(63, 10)] && bits (dwd r.dw 0) 9 8 != 3 && addrOk (dwd r.dw 1) && (dwd r.dw 1).toNat % 8 == 0
    && zeroDwords r 3 6

/-- Is a queue an endpoint of the collective engine (R108, R382). -/
def isCollective (s : State) : QRef → Bool
  | .ep c slot => ((aget s.eps (c * 64 + slot)).map EpQ.kind) == some 2
  | .host _ _ => false

/-- The context and collective table entry of which a SIGNAL is a close: one at a collective endpoint whose ADDR is the
entry's CLOSE (R382). -/
def closeOf (s : State) (q : QRef) (r : QRec) : Option (Nat × Nat × CollEntry) :=
  match q with
  | .ep c _ =>
    if isCollective s q then
      ((ctxOf s c).colls.find? fun e => e.2.close == dwd r.dw 1).map fun e => (c, e.1, e.2)
    else none
  | .host _ _ => none

/-- SIGNAL (R104), but for one that is a close (R382). -/
def execSignal (q : QRef) (s : State) : Host.Outcome State Fault Refusal :=
  .next (match (queueRecs s q).head?.bind (closeOf s q) with
  | some _ => s
  | none =>
    withHead s q 0x03 (fun _ r => signalOk r) fun s r =>
      match engUpdate s q (queueCtx s q) (dwd r.dw 1).toNat (queueDie s q) (bits (dwd r.dw 0) 9 8) (dwd r.dw 2) with
      | (s, .wait) => s
      | (s, .err e) => finishHead s q e 0
      | (s, .ok _) => finishHead s q 0 0)

/-! Administration (R106, R107). -/

/-- QID of an administration record. -/
def adminQid (r : QRec) : Nat := bits (dwd r.dw 0) 44 32

/-- Well-formedness of the administration records. CLASS and CTXID, which the manual's table has for CREATE only, are
Zero in the others, as it says of LOG2DEPTH (DESIGN CHOICE; log 73). -/
def adminOk (create : Bool) (r : QRec) : Bool :=
  let d := dwd r.dw 0
  let log := bits d 31 28
  zeroBits d [(63, 45), (27, 22)] && adminQid r != 0 && zeroDwords r 1 6
    && (if create then 6 ≤ log else zeroBits d [(31, 28), (21, 8)])

/-- The port of a host-fed queue. -/
def portOf : QRef → Nat
  | .host p _ => p
  | .ep _ _ => 0

/-- QUEUE_CREATE (R106, R107). DESIGN CHOICE (log 78): where the queue is not FREE and the context is, QEXISTS comes
before NOCTX. -/
def execQueueCreate (q : QRef) (s : State) : Host.Outcome State Fault Refusal :=
  .next (withHead s q 0x30 (fun _ r => adminOk true r) fun s r =>
    let d := dwd r.dw 0
    let key := hostKey (portOf q) (adminQid r)
    let ctx := bits d 19 8
    if ahas s.queues key then finishHead s q 0x01 0
    else if !ahas s.ctxs ctx then finishHead s q 0x02 0
    else
      let x : HostQ := { halted := false, depth := 2 ^ bits d 31 28, cls := bits d 21 20, ctx := ctx, nextSeq := 0,
                         recs := [] }
      finishHead { s with queues := aset s.queues key x, drops := adel s.drops key } q 0 0)

/-- Has a record started: a launch that is WAITING at the head of its queue has not (R97, R110, R125). -/
def QRec.hasStarted (r : QRec) : Bool := r.started.isSome && recType r != 1

/-- The sequence number of the record of a queue that is in progress. -/
def inProgress (s : State) (key : Nat) : Option Nat :=
  match aget s.queues key with
  | some x =>
    match x.recs with
    | r :: _ => if r.hasStarted then some r.seq else none
    | [] => none
  | none => none

/-- Ends a record that has not started in ERR_ABORTED; a launch WAITING goes with its record (R107, R131). -/
def abortRec (s : State) (t : QRef) (r : QRec) : State :=
  match s.launches.find? fun e => e.2.queue == t && !e.2.detached && e.2.seq == r.seq && e.2.st == .waiting with
  | some (k, l) => dropLaunch s k l errAborted true
  | none => completeRec s t r errAborted 0

/-- Records of a queue that have not started complete ERR_ABORTED (R107). -/
def abortUnstarted (s : State) (key : Nat) : State :=
  let t := QRef.host (key / 8192) (key % 8192)
  let l := queueRecs s t
  (l.filter fun r => !r.hasStarted).foldl (fun s r => abortRec s t r) (setRecs s t (l.filter QRec.hasStarted))

/-- A queue becomes FREE: launches that have left it go on (R107). -/
def freeQueue (s : State) (key : Nat) : State :=
  { s with queues := adel s.queues key,
           launches := s.launches.map fun e =>
             if e.2.queue = .host (key / 8192) (key % 8192) then (e.1, { e.2 with detached := true }) else e }

/-- Completes a QUEUE_RESET or QUEUE_DESTROY at the head once the record that was in progress has left: `work` holds its
sequence number plus 1. A destroyed queue becomes FREE first. -/
def finishAdmin (s : State) (q : QRef) : State :=
  match queueRecs s q with
  | [] => s
  | r :: _ =>
    let key := hostKey (portOf q) (adminQid r)
    if r.started.isNone || !isSystem s q || !(recType r = 0x31 || recType r = 0x32) then s
    else if r.work ≠ 0 && (queueRecs s (.host (key / 8192) (key % 8192))).any (fun x => x.seq + 1 = r.work) then s
    else
      let self := q = .host (key / 8192) (key % 8192)
      let s := if recType r = 0x32 && !self then freeQueue s key else s
      let s := finishHead s q 0 0
      if recType r = 0x32 && self then freeQueue s key else s

/-- Performs a QUEUE_RESET or QUEUE_DESTROY on a queue (R107): `set` gives the queue's fields after it. -/
def adminPerform (s : State) (q : QRef) (r : QRec) (set : HostQ → HostQ) : State :=
  let key := hostKey (portOf q) (adminQid r)
  match aget s.queues key with
  | none => finishHead s q 0x03 0
  | some _ =>
    let busy := inProgress s key
    let wait := match busy with
      | some n => if q = .host (key / 8192) (key % 8192) then 0 else n + 1
      | none => 0
    let s := abortUnstarted s key
    finishAdmin (setWork { s with queues := amod s.queues key set } q wait) q

/-- QUEUE_RESET (R107). -/
def execQueueReset (q : QRef) (s : State) : Host.Outcome State Fault Refusal :=
  .next (withHead s q 0x31 (fun _ r => adminOk false r) fun s r =>
    if r.started.isSome then finishAdmin s q
    else
      let key := hostKey (portOf q) (adminQid r)
      let s := if ahas s.queues key then { s with drops := adel s.drops key } else s
      adminPerform s q r fun x => { x with halted := false })

/-- QUEUE_DESTROY (R107). -/
def execQueueDestroy (q : QRef) (s : State) : Host.Outcome State Fault Refusal :=
  .next (withHead s q 0x32 (fun _ r => adminOk false r) fun s r =>
    if r.started.isSome then finishAdmin s q else adminPerform s q r fun x => { x with dying := true })

end Sys2Proof.Machine
end

