-- ==== Sys2Proof/Machine/LaunchEvents.lean ====
section
/-! DEFINITION. The life of a launch (R116 to R118, R121, R123 to R125, R130 to R132, R326, R411). -/

namespace Sys2Proof.Machine

/-! The launch record (R121). -/

/-- DEP0 to DEP3. -/
def launchDeps (r : QRec) : List Dword := (List.range 4).map fun i => dwd r.dw (3 + i)

/-- The record-only fields. -/
def launchOk (r : QRec) : Bool :=
  let d1 := dwd r.dw 1
  let d2 := dwd r.dw 2
  zeroBits (dwd r.dw 0) [(10, 8)] && zeroBits d1 [(55, 52)] && bits d1 63 56 ≤ 160
    && (bit d1 50 || zeroBits d1 [(49, 48)])
    && bits d2 31 0 != 0 && bits d2 47 32 != 0 && bits d2 63 48 != 0
    && (launchDeps r).all fun d => addrOk d && d.toNat % 8 == 0

/-- Launch records still in a queue of a context, with their queue and SEQ. -/
def queuedLaunches (s : State) (c : Nat) : List (QRef × QRec) :=
  s.queues.flatMap fun e =>
    if e.2.ctx = c then
      (e.2.recs.filter fun r => recType r = 1 && r.started.isNone).map fun r => (.host (e.1 / 8192) (e.1 % 8192), r)
    else []

/-- LAUNCH_RECORD (R131, R121): WAITING, with the producers of R125 as they stand now. A FAILED module takes no launch of
a context other than 0 (R399). -/
def execLaunchRecord (q : QRef) (s : State) : Host.Outcome State Fault Refusal :=
  .next (withHead s q 0x01 (fun _ r => launchOk r) fun s r =>
    if r.started.isSome then s
    else
      let c := queueCtx s q
      if s.health == .failed && c ≠ 0 then finishHead s q errAborted 0
      else
        let d1 := dwd r.dw 1
        let d2 := dwd r.dw 2
        let deps := launchDeps r
        let named (ev : Dword) : Bool := ev ≠ 0 && deps.contains ev
        let early := bit d1 51
        let prods := s.launches.filter fun e =>
          (e.2.queue == q && !e.2.detached && e.2.seq + 1 == r.seq) || (e.2.ctx == c && named e.2.event)
        let queued := (queuedLaunches s c).filter fun x => named (dwd x.2.dw 7)
        let evs := prods.map (fun e => e.2.event) ++ queued.map fun x => dwd x.2.dw 7
        let l : Launch :=
          { ctx := c, queue := q, seq := r.seq, event := dwd r.dw 7, st := .waiting,
            cls := if bit d1 50 then bits d1 49 48 else ((aget s.queues (match q with
              | .host p n => hostKey p n
              | .ep _ _ => 0)).map HostQ.cls).getD 0,
            early := early, floor := bits d1 63 56, hdrAt := dw (bits d1 47 0 * 256), args := dw (bits (dwd r.dw 0) 63 11 * 8),
            gx := bits d2 31 0, gy := bits d2 47 32, gz := bits d2 63 48, deps := deps,
            producers := if early then prods.map Prod.fst else [],
            queuedProd := if early then queued.map fun x => (x.1, x.2.seq) else [],
            prodDeps := if early then (List.range 4).filter fun i =>
                let d := (deps[i]?).getD 0
                d ≠ 0 && evs.contains d
              else [] }
        let k := s.nextId
        { s with nextId := k + 1,
                 launches := aset (s.launches.map fun e =>
                   if e.2.queuedProd.contains (q, r.seq) then
                     (e.1, { e.2 with queuedProd := e.2.queuedProd.filter (· != (q, r.seq)),
                                      producers := e.2.producers ++ [k] })
                   else e) k l })

/-! The header (R116, R118). -/

/-- The header that 32 dwords hold. -/
def headerOf32 (d : List Dword) : Header :=
  let x (i : Nat) : Dword := dwd d i
  { code := x 0, pinned := bit (x 1) 61, sigen := bit (x 1) 60, csize := bits (x 1) 58 56, bars := bits (x 1) 54 48,
    spadKB := bits (x 1) 40 32, lapl := bits (x 1) 24 16, vregs := bits (x 1) 12 8, groups := bits (x 1) 5 0,
    comm := if bit (x 2) 5 then some (bits (x 2) 4 0) else none, safeTab := x 3, safeN := bits (x 4) 12 0,
    idemTab := x 5, idemN := bits (x 6) 4 0, privBase := x 7, privLane := bits (x 8) 20 0 }

/-- Well-formedness of a header, the region table apart (R116). -/
def headerWf (d : List Dword) : Bool :=
  let x (i : Nat) : Dword := dwd d i
  let h := headerOf32 d
  addrOk (x 0) && (x 0).toNat % 4 == 0
    && zeroBits (x 1) [(63, 62), (59, 59), (55, 55), (47, 41), (31, 25), (15, 13), (7, 6)]
    && 1 ≤ h.csize && h.csize ≤ 4 && h.bars ≤ 64 && h.spadKB ≤ 384 && h.lapl ≤ 256 && 1 ≤ h.vregs && h.vregs ≤ 16
    && 1 ≤ h.groups && h.groups ≤ 32
    && zeroBits (x 2) [(63, 6)] && (if bit (x 2) 5 then bits (x 2) 4 0 < h.groups else zeroBits (x 2) [(4, 0)])
    && addrOk (x 3) && (x 3).toNat % 32 == 0 && (h.safeN != 0 || x 3 == 0) && zeroBits (x 4) [(63, 13)] && h.safeN ≤ 4096
    && addrOk (x 5) && (x 5).toNat % 8 == 0 && (h.idemN != 0 || x 5 == 0) && zeroBits (x 6) [(63, 5)] && h.idemN ≤ 16
    && addrOk (x 7) && (x 7).toNat % 256 == 0 && (h.privLane != 0 || x 7 == 0)
    && zeroBits (x 8) [(63, 21)] && h.privLane % 8 == 0 && h.privLane ≤ 1048576 && (!h.pinned || h.privLane == 0)
    && (List.range 23).all fun i => x (9 + i) == 0

/-- The idempotent regions of a table. -/
def regionsOf (d : List Dword) : List (Nat × Nat) := d.map fun x => (bits x 31 0, bits x 63 32)

/-- Well-formedness of the region table (R118). -/
def regionsWf (l : List (Nat × Nat)) : Bool :=
  l.all (fun r => r.1 % 4 == 0 && r.2 % 4 == 0 && r.1 < r.2)
    && (List.range l.length).all fun i => (List.range i).all fun j =>
      match l[i]?, l[j]? with
      | some a, some b => a.2 ≤ b.1 || b.2 ≤ a.1
      | _, _ => true

/-! Leaving WAITING (R125, R131). -/

/-- What the tests of the dependence events give. -/
inductive DepsRes where
  | met
  | wait
  | done (status : Nat)
deriving DecidableEq, Repr

/-- Status for a read of the queue agent that cannot be made (R131): ERR_NOFRAME, else ERR_PROT. -/
def unread (e : Nat) : Nat := if e = errNoFrame then errNoFrame else errProt

/-- Tests the dependence events of a launch in order (R125, R131): an event that names a producer of an early launch need
not read DONE. -/
def testDeps (s : State) (l : Launch) : State × DepsRes :=
  (List.range 4).foldl (fun r i =>
    match r.2 with
    | .done _ => r
    | _ =>
      let d := (l.deps[i]?).getD 0
      if d = 0 then r
      else
        match engRead r.1 l.queue l.ctx d.toNat 8 (queueDie r.1 l.queue) with
        | (s, .wait) => (s, .wait)
        | (s, .err e) => (s, .done (unread e))
        | (s, .ok b) =>
          let v := dwordAt b 0
          if v.getLsbD 63 then (s, if v.toNat % 256 = 0 then r.2 else .done 0x05)
          else (s, if l.prodDeps.contains i then r.2 else .wait)) (s, .met)

/-- Have the producers of an early launch left WAITING, or the predecessor of another completed (R125, R110). -/
def producersLeft (s : State) (l : Launch) : Bool :=
  if l.early then
    l.queuedProd.isEmpty && l.producers.all fun k => match aget s.launches k with
      | some x => x.st != .waiting
      | none => true
  else !(s.launches.any fun e => e.2.queue == l.queue && !e.2.detached && e.2.seq < l.seq)

/-- A launch that completes from WAITING (R131): its record leaves the head of the queue. -/
def endWaiting (s : State) (k : Nat) (l : Launch) (status : Nat) : State :=
  let s := dropLaunch (headDone s l.queue) k l status true
  if status = errIll then haltQueue s l.queue else s

/-- Does a spill bin fit the pinned lines of some die of the partition (R326). -/
def binFits (s : State) (p c : Nat) (h : Header) : Bool :=
  (diesOf s p).any fun d => binBytes h ≤ ((ctxOf s c).pinPages[d]?).getD 0 * 65536

/-- The launch leaves WAITING with a header that has been read (R131, R411). -/
def enterPlacing (s : State) (k : Nat) (l : Launch) (h : Header) (regions : List (Nat × Nat)) : State :=
  let p := queuePart s l.queue
  if h.pinned != (ctxOf s l.ctx).pinned then endWaiting s k l 0x01
  else if !h.fitsEmpty || (h.pinned && !binFits s p l.ctx h) then endWaiting s k l 0x02
  else if !hasBay s p h.csize then endWaiting s k l 0x03
  else
    let s := headDone s l.queue
    let prods := if l.early then l.producers.filter (ahas s.launches) else []
    { s with nextId := s.nextId + 1,
             launches := aset s.launches k
               { l with st := .placing, hdr := some h, regions := regions, order := s.nextId, waitSince := s.clock,
                        early := !prods.isEmpty, producers := prods, det := (ctxOf s l.ctx).det } }

/-- The dependences of a launch are met: header and region table are read and judged (R117, R131). The table names the
unreadable region table before the ill-formed header; a header that is both completes ERR_ILLFORMED here, since the address
of its table means nothing then (DESIGN CHOICE; log 73). -/
def readHeader (s : State) (k : Nat) (l : Launch) : State :=
  let die := queueDie s l.queue
  match engReadSpan s l.queue l.ctx l.hdrAt.toNat 256 die with
  | (s, .wait) => s
  | (s, .err e) => endWaiting s k l (unread e)
  | (s, .ok b) =>
    let d := (List.range 32).map fun i => dwordAt (b.drop (8 * i)) 0
    let h := headerOf32 d
    if !headerWf d || l.gx % h.csize ≠ 0 then endWaiting s k l errIll
    else
      match engReadSpan s l.queue l.ctx h.idemTab.toNat (8 * h.idemN) die with
      | (s, .wait) => s
      | (s, .err e) => endWaiting s k l (unread e)
      | (s, .ok t) =>
        let rs := regionsOf ((List.range h.idemN).map fun i => dwordAt (t.drop (8 * i)) 0)
        if regionsWf rs then enterPlacing s k l h rs else endWaiting s k l errIll

/-- LEAVE_WAITING (R125, R131); a launch that ends there completes in queue order, as one that runs does (R110). -/
def execLeaveWaiting (k : Nat) (s : State) : Host.Outcome State Fault Refusal :=
  match aget s.launches k with
  | none => .next s
  | some l =>
    if l.st != .waiting || (ctxOf s l.ctx).st != .resident then .next s
    else
      match testDeps s l with
      | (s, .done st) => .next (if producersLeft s l then endWaiting s k l st else s)
      | (s, .wait) => .next s
      | (s, .met) => .next (if producersLeft s l then readHeader s k l else s)

/-! Placement (R123, R124). -/

/-- CLUSTER_PLACEMENT (R123). -/
def execClusterPlacement (part : Nat) (s : State) : Host.Outcome State Fault Refusal := .next (placeCluster s part)

/-- 1 ms in ns. -/
abbrev msNs : Nat := 1000000

/-- PLACEMENT_STARVATION (R124): of a launch that it is not the floor which keeps waiting (R126). -/
def execPlacementStarvation (k : Nat) (s : State) : Host.Outcome State Fault Refusal :=
  match aget s.launches k with
  | none => .next s
  | some l =>
    if mayPlace s k l && !l.starved && !floorRefused s k l then
      let s := s.upTo (l.waitSince + nsClocks msNs)
      .next { s with launches := aset s.launches k { l with starved := true } }
    else .next s

end Sys2Proof.Machine
end

