-- ==== Sys2Proof/Machine/ContextEvents.lean ====
section
/-! DEFINITION. Context and key commands, loading, eviction, release, destruction (R79 to R93, R379, R380, R428). -/

namespace Sys2Proof.Machine

/-! Commands (R82, R83). -/

/-- ID of a command. -/
def cmdId (r : QRec) : Nat := bits (dwd r.dw 0) 19 8

/-- Well-formedness of a command: alignment of ADDR, 0 for one that has none, and whether it has a MASK (R82). -/
def cmdOk (r : QRec) (align : Nat) (mask : Bool) : Bool :=
  let a := dwd r.dw 1
  zeroBits (dwd r.dw 0) [(63, 20)] && addrOk a && (if align = 0 then a == 0 else a.toNat % align == 0)
    && (if mask then zeroBits (dwd r.dw 2) [(63, 3)] else dwd r.dw 2 == 0) && zeroDwords r 3 6 && cmdId r != 0

/-- ILLFORMED of R83. -/
abbrev stIll : Nat := 7

/-- The course of a command of a TYPE: ILLFORMED of R83 where it is not well-formed. -/
def withCmd (s : State) (q : QRef) (ty align : Nat) (mask : Bool) (body : State → QRec → State) : State :=
  withHead s q ty (fun _ _ => true) fun s r =>
    if r.started.isNone && !cmdOk r align mask then finishHead s q stIll 0 else body s r

/-- What the record at the head of a queue has read is kept with it. -/
def setBuf (s : State) (q : QRef) (l : List Byte) : State :=
  match queueRecs s q with
  | r :: t => setRecs s q ({ r with buf := l } :: t)
  | [] => s

/-- Reads the descriptor or key block of a command in context 0, once (R428): UNREADABLE where it cannot be read. -/
def readBlock (s : State) (q : QRef) (va n : Nat) (body : State → List Byte → State) : State :=
  let got := (((queueRecs s q).head?).map QRec.buf).getD []
  if got.length = n then body s got
  else
    match engReadSpan s q 0 va n (queueDie s q) with
    | (s, .wait) => s
    | (s, .err _) => finishHead s q 10 0
    | (s, .ok l) => body (setBuf s q l) l

/-! Descriptors (R81). -/

/-- The context a descriptor of 16 dwords defines, its collective table apart. -/
def ctxOfDesc (d : List Dword) : Ctx :=
  let x (i : Nat) : Dword := dwd d i
  { st := .defined, classMax := bits (x 0) 41 40, epMax := bits (x 0) 39 32, priv := bit (x 0) 25, pinned := bit (x 0) 24,
    keySlot := bits (x 0) 23 12, pinPages := (List.range 4).map fun i => bits (x 1) (16 * i + 15) (16 * i), handler := x 2,
    saveBase := x 3, savePages := bits (x 4) 31 0, collTab := x 5, collN := bits (x 6) 9 0, srate := bits (x 7) 15 8,
    det := bit (x 7) 4, obs := bit (x 7) 3, sched := bits (x 7) 2 1, place := bit (x 7) 0 }

/-- Well-formedness of a descriptor that a command for context `id` names. -/
def descOk (d : List Dword) (id : Nat) : Bool :=
  let x (i : Nat) : Dword := dwd d i
  let c := ctxOfDesc d
  zeroBits (x 0) [(63, 42), (31, 26)] && bits (x 0) 11 0 == id && 1 ≤ c.epMax && c.epMax ≤ 64
    && c.pinPages.all (· ≤ 384) && (c.pinned || x 1 == 0)
    && addrOk (x 2) && (x 2).toNat % 4 == 0 && addrOk (x 3) && (x 3).toNat % 65536 == 0
    && zeroBits (x 4) [(63, 32)] && c.savePages != 0
    && addrOk (x 5) && (x 5).toNat % 128 == 0 && zeroBits (x 6) [(63, 10)] && c.collN ≤ 512 && (x 5 != 0 || c.collN == 0)
    && zeroBits (x 7) [(63, 16), (7, 5)] && c.srate ≤ 20 && c.sched != 3
    && (List.range 8).all fun i => x (8 + i) == 0

/-! The collective table (R379, R380). -/

/-- Element formats of a table entry (R379). -/
def collFmtOk (n : Nat) : Bool :=
  match numOfCode n with
  | some .fp64 => false
  | some f => numBits f ≤ 32
  | none => false

/-- A valid entry of 8 dwords with its rank map. -/
def collOf (d : List Dword) (rmap : List Nat) : CollEntry :=
  let x (i : Nat) : Dword := dwd d i
  { base := bits (x 0) 55 16 * 65536, pages := bits (x 2) 31 0, fmt := bits (x 0) 11 8, rooted := bits (x 0) 5 4 == 1,
    swred := bit (x 0) 3, e2e := bit (x 0) 2, root := bits (x 1) 57 48, myRank := bits (x 1) 41 32,
    nrank := bits (x 1) 8 0 + 1, close := x 3, flag := x 4, rmap := rmap, timeout := bits (x 6) 31 0, ph := bits (x 7) 1 0 }

/-- Conditions on the fields of one valid entry (R379, R380): `word` says whether an address may hold a close or flag
word. -/
def collFieldsOk (d : List Dword) (word : Dword → Bool) : Bool :=
  let x (i : Nat) : Dword := dwd d i
  let e := collOf d []
  zeroBits (x 0) [(63, 56), (15, 12), (7, 6), (1, 1)] && collFmtOk e.fmt && bits (x 0) 5 4 ≤ 1
    && zeroBits (x 1) [(63, 58), (47, 42), (31, 9)] && e.root < e.nrank && e.myRank < e.nrank
    && zeroBits (x 2) [(63, 32)] && 1 ≤ e.pages && e.pages ≤ 2 ^ 24
    && addrOk e.close && e.close.toNat % 8 == 0 && word e.close && addrOk e.flag && e.flag.toNat % 8 == 0 && word e.flag
    && addrOk (x 5) && zeroBits (x 6) [(63, 32)] && zeroBits (x 7) [(63, 2)] && e.ph ≤ 2

/-- Planes of an entry are those of the partition (R372, R380). -/
def collPlanesOk (s : State) (p : Nat) (e : CollEntry) : Bool := s.part != .split || e.ph == p + 1

/-- What a table read gives. -/
inductive CollRes where
  | ok (m : AMap CollEntry)
  | wait
  | unread
  | bad
deriving DecidableEq, Repr

/-- One entry of a table, none where it is not valid. -/
def readColl (s : State) (q : QRef) (c : Nat) (d : List Dword) : State × EngVal × Option CollEntry :=
  if !bit (dwd d 0) 0 then (s, .ok [], none)
  else
    let n := bits (dwd d 1) 8 0 + 1
    match engReadSpan s q c (dwd d 5).toNat (2 * n) (queueDie s q) with
    | (s, .ok l) =>
      let ids := (List.range n).map fun i => ofBytes ((l.drop (2 * i)).take 2)
      (s, .ok l, some (collOf d ids))
    | (s, x) => (s, x, none)

/-- Does a word of a context lie outside every REDUCE page (R379). -/
def outsideReduce (s : State) (c : Nat) (va : Dword) : Bool :=
  match walk s c va.toNat with
  | some t => !t.reduce
  | none => match backingOf (ctxOf s c) (va.toNat / 65536) with
    | some b => b.attr % 2 == 0
    | none => true

/-- The rank map of an entry (R379, R380). -/
def rmapOk (s : State) (e : CollEntry) : Bool :=
  e.rmap.all (· < 512) && e.rmap[e.myRank]? == some s.podPos && e.rmap.eraseDups.length == e.rmap.length

/-- Do the ranges of entries overlap. -/
def collsMeet (m : AMap CollEntry) : Bool :=
  m.any fun a => m.any fun b => a.1 != b.1
    && decide (a.2.base < b.2.base + b.2.pages * 65536) && decide (b.2.base < a.2.base + a.2.pages * 65536)

/-- Reads and checks the collective table of a context (R379, R380), in the space of that context. -/
def readTable (s : State) (q : QRef) (c : Nat) (tab : Dword) (n : Nat) : State × CollRes :=
  match engReadSpan s q c tab.toNat (64 * n) (queueDie s q) with
  | (s, .wait) => (s, .wait)
  | (s, .err _) => (s, .unread)
  | (s, .ok l) =>
    (List.range n).foldl (fun r i =>
      match r.2 with
      | .ok m =>
        let d := (List.range 8).map fun j => dwordAt (l.drop (64 * i + 8 * j)) 0
        if bit (dwd d 0) 0 && !collFieldsOk d (outsideReduce r.1 c) then (r.1, .bad)
        else
          match readColl r.1 q c d with
          | (s, .wait, _) => (s, .wait)
          | (s, .err _, _) => (s, .unread)
          | (s, .ok _, none) => (s, .ok m)
          | (s, .ok _, some e) =>
            let m := aset m i e
            if rmapOk s e && collPlanesOk s (queuePart s q) e && !collsMeet m then (s, .ok m) else (s, .bad)
      | _ => r) (s, .ok [])

/-- A table is read for a command, which completes ILLFORMED where it breaks R380 and UNREADABLE where it cannot be read
(log 25). -/
def withTable (s : State) (q : QRef) (c : Nat) (x : Ctx) (body : State → AMap CollEntry → State) : State :=
  match readTable s q c x.collTab x.collN with
  | (s, .ok m) => body s m
  | (s, .wait) => s
  | (s, .unread) => finishHead s q 10 0
  | (s, .bad) => finishHead s q stIll 0

/-! CTX_DEFINE and CTX_UPDATE (R84). -/

/-- Status for the key slot of a descriptor (R83): KEYBUSY, then KEYINUSE for a definition. -/
def keyStatus (s : State) (k : Nat) (define : Bool) : Nat :=
  match aget s.keys k with
  | some e => if e.retiring then 4 else 0
  | none => if define && k ≠ 0 then 8 else 0

/-- The frames of a save area, none where one of its pages is not resident in a frame or cannot be pinned (log 23). -/
def saveFrames (s : State) (c base n : Nat) : Option (List Nat) :=
  ((List.range n).foldl (fun (o : Option (List Nat)) i =>
    match o, walk s c (base + i * 65536) with
    | some l, some t =>
      let full := match aget s.frames t.entry with
        | some f => f.pincnt = 255
        | none => true
      if !t.aper && !full && (t.st == .resident || t.st == .pinned) then some (l ++ [t.entry]) else none
    | _, _ => none) (some [])).map List.eraseDups

/-- Pinned spill pages of all contexts on a die (R86). -/
def pinnedPages (s : State) (die : Nat) : Nat := (s.ctxs.map fun e => (e.2.pinPages[die]?).getD 0).sum

/-- Does a definition exceed the pin budget of R86. -/
def overBudget (s : State) (x : Ctx) : Bool :=
  (List.range 4).any fun d => 384 < pinnedPages s d + (x.pinPages[d]?).getD 0

/-- The 16 dwords of a descriptor. -/
def descDwords (l : List Byte) : List Dword := (List.range 16).map fun i => dwordAt (l.drop (8 * i)) 0

/-- CTX_DEFINE (R81, R83, R84, R86). -/
def execCtxDefine (q : QRef) (s : State) : Host.Outcome State Fault Refusal :=
  .next (withCmd s q 0x20 128 false fun s r =>
    let c := cmdId r
    if ahas s.ctxs c then finishHead s q 1 0
    else
      readBlock s q (dwd r.dw 1).toNat 128 fun s l =>
        let d := descDwords l
        let x := ctxOfDesc d
        if !descOk d c then finishHead s q stIll 0
        else
          withTable s q c x fun s m =>
            let ks := keyStatus s x.keySlot true
            if ks ≠ 0 then finishHead s q ks 0
            else
              match saveFrames s c x.saveBase.toNat x.savePages with
              | none => finishHead s q 5 0
              | some fs =>
                if overBudget s x then finishHead s q 3 0
                else
                  let s := fs.foldl (fun s id => (pinPage s id).1) s
                  finishHead { s with ctxs := aset s.ctxs c { x with colls := m } } q 0 0)

/-- The fields that CTX_UPDATE replaces under its MASK (R82, R87). -/
def Ctx.update (x new : Ctx) (mask : Nat) (m : AMap CollEntry) : Ctx :=
  let x := if mask.testBit 0 then { x with handler := new.handler } else x
  let x := if mask.testBit 1 then { x with collTab := new.collTab, collN := new.collN, collsNew := some m } else x
  if mask.testBit 2 then
    { x with srate := new.srate, det := new.det, obs := new.obs, sched := new.sched, place := new.place }
  else x

/-- Entries of a replaced collective table come into force where this rank has no part in a round (R87); a context with saved
blocks is suspended in them too (R390). -/
def settleTable (s : State) (c : Nat) : State :=
  match (ctxOf s c).collsNew with
  | none => s
  | some m =>
    let x := ctxOf s c
    let keys := ((x.colls ++ m).map Prod.fst).eraseDups
    let now (e : Nat) : Bool := !(roundsOf s c e).busy
    let colls := keys.foldl (fun t e =>
      if now e then
        match aget m e with
        | some v => aset t e v
        | none => adel t e
      else t) x.colls
    let s := { s with ctxs := aset s.ctxs c { x with colls := colls, collsNew := if keys.all now then none else some m } }
    if s.blocks.any fun e => e.2.ctx == c && e.2.st == .saved then suspendRounds s c true else s

/-- CTX_UPDATE (R84, R87). -/
def execCtxUpdate (q : QRef) (s : State) : Host.Outcome State Fault Refusal :=
  .next (withCmd s q 0x21 128 true fun s r =>
    let c := cmdId r
    match aget s.ctxs c with
    | none => finishHead s q 2 0
    | some x0 =>
      if !(x0.st == .defined || x0.st == .resident) then finishHead s q 9 0
      else
        readBlock s q (dwd r.dw 1).toNat 128 fun s l =>
          let d := descDwords l
          let new := ctxOfDesc d
          let mask := bits (dwd r.dw 2) 2 0
          if !descOk d c then finishHead s q stIll 0
          else
            let go (s : State) (m : AMap CollEntry) : State :=
              let ks := keyStatus s new.keySlot false
              if ks ≠ 0 then finishHead s q ks 0
              else
                finishHead (settleTable { s with ctxs := amod s.ctxs c fun x => x.update new mask m } c) q 0 0
            if mask.testBit 1 then withTable s q c new go else go s [])

/-! Suspending and resuming (R84, R90). -/

/-- Blocks of a context that are on cores. -/
def placedBlocks (s : State) (c : Nat) : List Nat :=
  (s.blocks.filter fun e => e.2.ctx == c && e.2.st == .placed).map Prod.fst

/-- Pre-empts every block of a RESIDENT context, which becomes SAVING (R84); none where its save area cannot hold
them. -/
def saveContext (s : State) (c : Nat) (why : SaveWhy) : Option State :=
  let l := placedBlocks s c
  (assignSlots s c l).map fun s =>
    let s := { s with ctxs := amod s.ctxs c fun x => { x with st := .saving, why := why } }
    contextSaved (l.foldl preemptBlock s) c

/-- Completes the head of queue q OK where a command that has begun (work 1) waits for its context no longer. -/
def endSuspend (s : State) (q : QRef) (c : Nat) : State :=
  if (ctxOf s c).st == .saving then s else finishHead s q 0 0

/-- CTX_SUSPEND (R84). -/
def execCtxSuspend (q : QRef) (s : State) : Host.Outcome State Fault Refusal :=
  .next (withCmd s q 0x22 0 false fun s r =>
    let c := cmdId r
    if r.work = 1 then endSuspend s q c
    else
      match aget s.ctxs c with
      | none => finishHead s q 2 0
      | some x =>
        match x.st with
        | .defined => finishHead { s with ctxs := aset s.ctxs c { x with held := true } } q 0 0
        | .loading => s
        | .resident =>
          match saveContext s c .suspend with
          | none => finishHead s q 6 0
          | some s => endSuspend (setWork s q 1) q c
        | .saving | .wiping => finishHead s q 9 0)

/-- CTX_RESUME (R84). -/
def execCtxResume (q : QRef) (s : State) : Host.Outcome State Fault Refusal :=
  .next (withCmd s q 0x23 0 false fun s r =>
    let c := cmdId r
    match aget s.ctxs c with
    | none => finishHead s q 2 0
    | some x =>
      if x.st == .defined then finishHead { s with ctxs := aset s.ctxs c { x with held := false } } q 0 0
      else finishHead s q 9 0)

/-! Destroying (R93). -/

/-- Ends the kernels of a context with no event and discards its queues (R93 steps 1 to 3). -/
def endKernels (s : State) (c : Nat) : State :=
  let s := ((s.launches.filter fun e => e.2.ctx == c).map Prod.fst).foldl (fun s k => abortLaunch s k false) s
  let queued := (queuedLaunches s c).map fun x => x.2.seq
  { s with log := s.log ++ queued.map fun n => .aborted c n,
           queues := s.queues.filter fun e => e.2.ctx != c,
           eps := s.eps.filter fun e => e.1 / 64 != c,
           evq := s.evq.filter fun e => e.ctx != c,
           lateDone := s.lateDone.filter fun e => e.ctx != c }

/-- Sends ABORT for the entries in force, and forgets the rounds of a context (R390; log 84). -/
def abortRounds (s : State) (c : Nat) : State :=
  let s := (ctxOf s c).colls.foldl (fun s e =>
    { s with collOut := s.collOut ++ ((List.range e.2.nrank).filter (· != e.2.myRank)).map fun k => .abort c e.1 k }) s
  { s with rounds := s.rounds.filter fun e => e.1 / 512 != c }

/-- CTX_DESTROY (R84, R93): the record completes when the wipe is complete. -/
def execCtxDestroy (q : QRef) (s : State) : Host.Outcome State Fault Refusal :=
  .next (withCmd s q 0x24 0 false fun s r =>
    let c := cmdId r
    if r.work = 1 then (if ahas s.ctxs c then s else finishHead s q 0 0)
    else
      match aget s.ctxs c with
      | none => finishHead s q 2 0
      | some x =>
        match x.st with
        | .loading | .saving => s
        | .wiping => finishHead s q 9 0
        | .defined | .resident =>
          let s := settleCores (endKernels (abortRounds s c) c)
          setWork { s with ctxs := amod s.ctxs c fun x => { x with st := .wiping } } q 1)

/-- A page operation ends with its page: an unmap or a retirement that waited is done, a move finds no page (R93, R235). -/
def dropOp (s : State) (id : Nat) : State :=
  let s0 : State := { s with pageOps := adel s.pageOps id }
  let moved (who : Option QRef) (l : List Nat) : State := pageDone (markRetire s0 l) who (if l.isEmpty then 3 else 0)
  match aget s.pageOps id with
  | some (.migrate _ _ who l) | some (.deferMigrate _ _ who l) => moved who l
  | some (.deferUnmap _ who) => pageDone s0 who 0
  | some (.unmapAfter _ _ m l _ who) => pageDone (moved m l) who 0
  | _ => s0

/-- Every page of a context leaves the page table and its frames are written with zeros (R93 step 4, R239). -/
def freeContextPages (s : State) (c : Nat) : State :=
  let firsts := (s.frames.filter fun e => e.2.ctx == c && e.2.st != .retired
    && !(e.2.large && e.2.vpn % 256 != 0)).map Prod.fst
  let s := firsts.foldl (fun s id =>
    let n := match aget s.frames id with
      | some f => spanOf f.large
      | none => 1
    freePage (recallRange (shootdown (dropOp s id) id) (id * 2 ^ 16) (n * 2 ^ 16)) id) s
  let apers := (s.aperts.filter fun e => e.2.ctx == c)
  apers.foldl (fun s e =>
    let s := linkOut (shootAperture (dropOp s (apertOp e.1)) e.1) c e.2.vpn (apertLink e.1)
    { s with aperts := adel s.aperts e.1 }) s

/-- CONTEXT_WIPE_COMPLETE (R93). -/
def execContextWipeComplete (c : Nat) (s : State) : Host.Outcome State Fault Refusal :=
  if (ctxOf s c).st == .wiping && ahas s.ctxs c then
    let s := endKernels (freeContextPages s c) c
    .next { s with ctxs := adel s.ctxs c }
  else .next s

/-! Keys (R87). -/

/-- KEY_INSTALL (R87). -/
def execKeyInstall (q : QRef) (s : State) : Host.Outcome State Fault Refusal :=
  .next (withCmd s q 0x25 64 false fun s r =>
    let k := cmdId r
    readBlock s q (dwd r.dw 1).toNat 64 fun s l =>
      if ahas s.keys k then finishHead s q 4 0
      else finishHead { s with keys := aset s.keys k { retiring := false, bytes := l } } q 0 0)

/-- KEY_RETIRE (R87): the record completes when the slot is EMPTY. The refusal for a slot that is EMPTY is not stated
(log 24). -/
def execKeyRetire (q : QRef) (s : State) : Host.Outcome State Fault Refusal :=
  .next (withCmd s q 0x26 0 false fun s r =>
    let k := cmdId r
    if r.work = 1 then (if ahas s.keys k then s else finishHead s q 0 0)
    else
      match aget s.keys k with
      | none => finishHead { s with freeCtr := s.freeCtr + 1 } q ((Config.freeRefusal s.freeCtr).val + 1) 0
      | some e =>
        if e.retiring then finishHead s q 4 0
        else if s.ctxs.any fun x => x.2.keySlot = k then finishHead s q 8 0
        else setWork { s with keys := aset s.keys k { retiring := true, bytes := [] } } q 1)

/-- KEY_RETIRE_COMPLETE (R87, R214): the lines tagged with the slot are flushed, and it is EMPTY. -/
def execKeyRetireComplete (slot : Nat) (s : State) : Host.Outcome State Fault Refusal :=
  match aget s.keys slot with
  | some e =>
    if e.retiring then
      let s := recallWhere s evFlsh fun k => k / 2 ^ 52 = slot
      .next { s with keys := adel s.keys slot }
    else .next s
  | none => .next s

/-! Residency (R79, R84, R85). -/

/-- Resident slots in use. -/
def slotsUsed (s : State) : Nat :=
  (s.ctxs.filter fun e => e.2.st == .loading || e.2.st == .resident || e.2.st == .saving).length

/-- Queues of a context. -/
def queuesOf (s : State) (c : Nat) : List QRef := (allQueues s).filter fun q => queueCtx s q == c

/-- Has work reached a queue head of a context: a record that could start were it resident, or a launch that is not
done (log 26). -/
def hasWork (s : State) (c : Nat) : Bool :=
  (queuesOf s c).any (fun q => !(queueRecs s q).isEmpty && !queueHalted s q) || s.launches.any fun e => e.2.ctx == c

/-- Class of a record: a launch record's own, else its queue's, within the limit (R113). DESIGN CHOICE (log 78): an
endpoint queue, to which the manual gives no CLASS, counts as class 0 within the limit. -/
def recClass (s : State) (q : QRef) (r : QRec) : Nat :=
  let own := match q with
    | .host p n => ((aget s.queues (hostKey p n)).map HostQ.cls).getD 0
    | .ep _ _ => 0
  let d1 := dwd r.dw 1
  max (if recType r = 1 && bit d1 50 then bits d1 49 48 else own) (ctxOf s (queueCtx s q)).classMax

/-- The most urgent class queued or running of a context; 4 where it has no work. -/
def urgentClass (s : State) (c : Nat) : Nat :=
  let q := (queuesOf s c).flatMap fun q => ((queueRecs s q).filter fun r => r.fence.isNone).map fun r => recClass s q r
  let l := (s.launches.filter fun e => e.2.ctx == c).map fun e => launchClass s e.2
  (q ++ l).foldl min 4

/-- Has a context a command in flight: a record that has started. -/
def inFlight (s : State) (c : Nat) : Bool := (queuesOf s c).any fun q => (queueRecs s q).any fun r => r.started.isSome

/-- R85 step 1: the resident context to release at once, least recently served. -/
def idleVictim (s : State) : Option Nat :=
  let l := s.ctxs.filter fun e => e.1 != 0 && e.2.st == .resident && (placedBlocks s e.1).isEmpty && !inFlight s e.1
  (l.foldl (fun (b : Option (Nat × Ctx)) e =>
    match b with
    | some x => if e.2.served < x.2.served then some e else b
    | none => some e) none).map Prod.fst

/-- R85 step 2: the context to evict for one whose most urgent class is cls. -/
def evictVictim (s : State) (cls : Nat) : Option Nat :=
  let l := s.ctxs.filter fun e => e.1 != 0 && e.2.st == .resident && (assignSlots s e.1 (placedBlocks s e.1)).isSome
    && cls < urgentClass s e.1
  (l.foldl (fun (b : Option (Nat × Ctx)) e =>
    match b with
    | some x =>
      let k := urgentClass s e.1
      let m := urgentClass s x.1
      if m < k || (m == k && e.2.loaded < x.2.loaded) then some e else b
    | none => some e) none).map Prod.fst

/-- A DEFINED context takes a resident slot. -/
def takeSlot (s : State) (c : Nat) : State :=
  { s with ctxs := amod s.ctxs c fun x => { x with st := .loading, loaded := s.clock, served := s.clock },
           launches := s.launches.map fun e => if e.2.ctx = c then (e.1, { e.2 with waitSince := s.clock }) else e }

/-- Is a resident context being saved to free a slot for this one (R85): one is enough. -/
def evicting (s : State) (c : Nat) : Bool := s.ctxs.any fun e => e.2.st == .saving && e.2.why == .evict c

/-- CONTEXT_LOAD (R84, R85). -/
def execContextLoad (c : Nat) (s : State) : Host.Outcome State Fault Refusal :=
  match aget s.ctxs c with
  | none => .next s
  | some x =>
    if x.st != .defined || x.held || !hasWork s c || evicting s c then .next s
    else if slotsUsed s < 256 then .next (takeSlot s c)
    else
      match idleVictim s with
      | some v => .next (takeSlot { s with ctxs := amod s.ctxs v fun x => { x with st := .defined } } c)
      | none =>
        match evictVictim s (urgentClass s c) with
        | some v => .next ((saveContext s v (.evict c)).getD s)
        | none => .next s

/-- CONTEXT_LOAD_COMPLETE (R84). -/
def execContextLoadComplete (c : Nat) (s : State) : Host.Outcome State Fault Refusal :=
  if (ctxOf s c).st == .loading && ahas s.ctxs c && !(s.blocks.any fun e => e.2.ctx == c && e.2.st == .saved) then
    .next { s with ctxs := amod s.ctxs c fun x => { x with st := .resident, idleSince := s.clock } }
  else .next s

/-- Has a context neither work queued nor a block (R84); records of a HALTED queue are no work (log 26). -/
def ctxIdle (s : State) (c : Nat) : Bool := !hasWork s c && !(s.blocks.any fun e => e.2.ctx == c)

/-- CONTEXT_IDLE_RELEASE (R84): no queued work and no block for 1 ms. -/
def execContextIdleRelease (c : Nat) (s : State) : Host.Outcome State Fault Refusal :=
  match aget s.ctxs c with
  | none => .next s
  | some x =>
    if c ≠ 0 && x.st == .resident && ctxIdle s c then
      let s := s.upTo (x.idleSince + nsClocks msNs)
      .next { s with ctxs := amod s.ctxs c fun x => { x with st := .defined } }
    else .next s

end Sys2Proof.Machine
end

