-- ==== Sys2Proof/Machine/PageEvents.lean ====
section
/-! DEFINITION. Page and frame records, EMIG, and the ends of fills, migrations and shootdowns (R225, R230, R233 to R240,
R340). -/

namespace Sys2Proof.Machine

/-! The records of R234. -/

/-- COUNT. -/
def pgCount (r : QRec) : Nat := bits (dwd r.dw 0) 63 32
/-- LARGE. -/
def pgLarge (r : QRec) : Bool := bit (dwd r.dw 0) 28
/-- CTXID. -/
def pgCtx (r : QRec) : Nat := bits (dwd r.dw 0) 19 8
/-- DIE, where DIEV is set. -/
def pgDie (r : QRec) : Option Nat := if bit (dwd r.dw 0) 31 then some (bits (dwd r.dw 0) 30 29) else none
/-- ATTR. -/
def pgAttr (r : QRec) : Nat := bits (dwd r.dw 0) 27 25
/-- PERM. -/
def pgPerm (r : QRec) : Nat := bits (dwd r.dw 0) 24 22
/-- GRAN. -/
def pgGran (r : QRec) : Nat := bits (dwd r.dw 0) 21 20
/-- The first page's VPN. -/
def pgVpn (r : QRec) : Nat := bits (dwd r.dw 1) 55 16
/-- SRC. -/
def pgSrc (r : QRec) : Nat := (dwd r.dw 2).toNat
/-- APER. -/
def pgAper (r : QRec) : Bool := bit (dwd r.dw 3) 8
/-- Bytes of one page of the record. -/
def pgBytes (r : QRec) : Nat := spanOf (pgLarge r) * 65536
/-- VPNs of the record's pages. -/
def pgVpns (r : QRec) : List Nat := (List.range (pgCount r)).map fun i => pgVpn r + i * spanOf (pgLarge r)

/-- Well-formedness: dword 3's fields belong to the TYPEs that R234 names with them; the range ends inside the space. -/
def pageOk (r : QRec) (zero aper index : Bool) : Bool :=
  let d := dwd r.dw 0
  let v := dwd r.dw 1
  (zero || pgCount r != 0) && pgGran r != 3 && zeroBits v [(63, 56), (15, 0)]
    && (!pgLarge r || pgVpn r % 256 == 0) && pgVpn r + pgCount r * spanOf (pgLarge r) ≤ 2 ^ 40
    && zeroBits (dwd r.dw 3) [(63, 9), (7, 6)] && (aper || !pgAper r) && (index || zeroBits (dwd r.dw 3) [(5, 0)])
    && (!pgAper r || pgLarge r) && zeroDwords r 4 6 && d.toNat % 256 == recType r

/-- Is a source or destination range one that pages may use (R219, R235): host or pod memory, not this module's own. -/
def srcOk (s : State) (src n align : Nat) : Bool :=
  src % align == 0 && (match paKind src, paKind (src + n - 1) with
    | .host, .host => true
    | .pod a, .pod b => !(decide (a ≤ s.podPos) && decide (s.podPos ≤ b)) && decide (src + n ≤ 2 ^ 51 + 2 ^ 48)
    | _, _ => false)

/-- Has a page of a context an entry that meets n VPNs from v on. -/
def mappedIn (s : State) (c v n : Nat) : Bool :=
  s.frames.any (fun e => e.2.ctx == c && e.2.st != .retired && decide (v ≤ e.2.vpn) && decide (e.2.vpn < v + n))
    || s.aperts.any fun e => e.2.ctx == c && decide (e.2.vpn < v + n) && decide (v < e.2.vpn + 256)

/-- The partition in whose stacks the entry that a link names stands. -/
def linkPart (s : State) (l : BitVec 24) : Nat :=
  if linkAper l then apertPart s (linkKey l) else partOfDie s (linkKey l / 2 ^ 21)

/-- The entry of a page of the record's size, its link: an entry of the other partition is none that a record acts on
(R234). -/
def pageLink (s : State) (p c v : Nat) (large : Bool) : Option (BitVec 24) :=
  (chainFind s c v large 65 (anchorOf s c v)).filter fun l => linkPart s l == p

/-- What the checks of a record's pages give. -/
inductive PgChk where
  | ok
  | wait
  | status (n : Nat)
deriving DecidableEq, Repr

/-- The check that a copy's far end makes. -/
def EngVal.chk : EngVal → PgChk
  | .ok _ => .ok
  | .wait => .wait
  | .err e => .status e

/-- The first of a list of checks that does not pass. -/
def firstChk (l : List PgChk) : PgChk := (l.find? (· != .ok)).getD .ok

/-- Continues the head record according to its checks. -/
def withChk (s : State) (q : QRef) (c : PgChk) (body : Unit → State) : State :=
  match c with
  | .ok => body ()
  | .wait => s
  | .status n => finishHead s q n 0

/-- A status where a condition fails. -/
def chk (b : Bool) (n : Nat) : PgChk := if b then .ok else .status n

/-- The record waits for n page operations, or completes. -/
def awaitPages (s : State) (q : QRef) (n : Nat) : State := if n = 0 then finishHead s q 0 0 else setWork s q n

/-! PAGE_MAP and PAGE_BACK (R230, R235). -/

/-- A free aperture entry of a partition: the lowest (log 16). -/
def freeAperture (s : State) (p : Nat) : Option Nat :=
  (diesOf s p).findSome? fun d => [2 * d, 2 * d + 1].findSome? fun st =>
    let used := (s.aperts.filter fun e => e.1 / 2 ^ 17 == st).map Prod.fst
    ((List.range (min (used.length + 1) (2 ^ 17))).map (st * 2 ^ 17 + ·)).find? fun k => !used.contains k

/-- Maps one page: the new state, or a status. -/
def mapOne (s : State) (q : QRef) (r : QRec) (i v : Nat) : State × PgChk :=
  let c := pgCtx r
  let p := queuePart s q
  let die := ((diesOf s p).head?).getD 0
  let src := if pgSrc r = 0 then 0 else pgSrc r + i * pgBytes r
  if !chainRoom s c v 1 then (s, .status 0x07)
  else if pgAper r then
    match freeAperture s p with
    | none => (s, .status errNoFrame)
    | some k =>
      let a : Aperture := { vpn := v, ctx := c, next := endLink, perm := pgPerm r, reduce := pgAttr r % 2 = 1, target := src / 2 ^ 24 }
      (linkIn { s with aperts := aset s.aperts k a } c v (apertLink k), .ok)
  else
    match takeFrame s p (pgDie r) die (pgLarge r) with
    | none => (s, .status errNoFrame)
    | some id =>
      let f := newEntry (ctxOf s c).keySlot c v (pgLarge r) (pgGran r) (pgPerm r) (pgAttr r) .resident
      (fillFrom (enterPage s id f) id src f.key f.large, .ok)

/-- The checks of PAGE_MAP before frames are taken. -/
def mapChk (s : State) (q : QRef) (r : QRec) : PgChk :=
  let c := pgCtx r
  let src := pgSrc r
  let n := pgCount r * pgBytes r
  firstChk [chk (ahas s.ctxs c) 0x05,
    chk ((src = 0 && !pgAper r) || srcOk s src n (if pgAper r then 2 ^ 24 else 65536)) 0x06,
    chk (!mappedIn s c (pgVpn r) (pgCount r * spanOf (pgLarge r))) 0x02,
    if pgAper r || src = 0 then .ok
    else firstChk ((List.range (pgCount r)).map fun i => (farStatus s (queuePart s q) (src + i * pgBytes r)).chk)]

/-- PAGE_MAP (R235). -/
def execPageMap (q : QRef) (s : State) : Host.Outcome State Fault Refusal :=
  .next (withHead s q 0x50 (fun _ r => pageOk r false true false) fun s r =>
    withChk s q (mapChk s q r) fun _ =>
      let x := (List.range (pgCount r)).foldl (fun (x : State × PgChk) i =>
        match x.2 with
        | .ok => mapOne x.1 q r i (pgVpn r + i * spanOf (pgLarge r))
        | _ => x) (s, .ok)
      match x.2 with
      | .ok => finishHead x.1 q 0 0
      | c => withChk s q c fun _ => s)

/-- PAGE_BACK (R235). -/
def execPageBack (q : QRef) (s : State) : Host.Outcome State Fault Refusal :=
  .next (withHead s q 0x53 (fun _ r => pageOk r true false true) fun s r =>
    let c := pgCtx r
    let i := bits (dwd r.dw 3) 5 0
    let n := pgCount r * spanOf (pgLarge r)
    let clash := (ctxOf s c).backing.any fun e => e.1 != i
      && decide (e.2.vpn < pgVpn r + n) && decide (pgVpn r < e.2.vpn + e.2.count * spanOf e.2.large)
    withChk s q (firstChk [chk (ahas s.ctxs c) 0x05,
        chk (n = 0 || pgSrc r = 0 || srcOk s (pgSrc r) (n * 65536) 65536) 0x06, chk (n = 0 || !clash) 0x09]) fun _ =>
      let b : Backing := { vpn := pgVpn r, count := pgCount r, large := pgLarge r, src := pgSrc r, gran := pgGran r,
                           perm := pgPerm r, attr := pgAttr r, die := pgDie r }
      finishHead { s with ctxs := amod s.ctxs c fun x =>
        { x with backing := if n = 0 then adel x.backing i else aset x.backing i b } } q 0 0)

/-! PAGE_UNMAP (R235, R239). -/

/-- The checks of one page of PAGE_UNMAP. A page that is REQUESTED is waited for; a page whose unmap is pending is
BUSY. -/
def unmapChk (s : State) (p c v : Nat) (large : Bool) (out : Nat) : PgChk :=
  match pageLink s p c v large with
  | none => .status 0x03
  | some l =>
    if linkAper l then
      if ahas s.pageOps (apertOp (linkKey l)) then .status 0x08
      else if apertInUse s (linkKey l) then .ok
      else if apertHeld s (linkKey l) then .wait
      else
        match aget s.aperts (linkKey l) with
        | some a => if out = 0 then .ok else (farStatus s p (a.target * 2 ^ 24)).chk
        | none => .ok
    else
      match aget s.frames (linkKey l) with
      | none => .status 0x03
      | some f =>
        if f.st == .requested then .wait
        else if f.pincnt ≠ 0 then .status 0x04
        else
          match aget s.pageOps (linkKey l) with
          | some (.deferUnmap _ _) | some (.unmapAfter _ _ _ _ _ _) => .status 0x08
          | _ => if out ≠ 0 && f.st != .migrating && f.rcnt = 0 && pageInError s (linkKey l) large then .status errSource else .ok

/-- What an unmap that has been tried leaves to its record: nothing, or one that waits for the way to its target (R375). -/
def unmapLater (x : State × Option Nat) (op out : Nat) (q : QRef) : State × Nat :=
  match x.2 with
  | some _ => (x.1, 0)
  | none => ({ x.1 with pageOps := aset x.1.pageOps op (.deferUnmap out (some q)) }, 1)

/-- Unmaps one page, at once or later: the state, and whether the record waits for it. -/
def unmapOne (s : State) (q : QRef) (c v : Nat) (large : Bool) (out : Nat) : State × Nat :=
  match pageLink s (queuePart s q) c v large with
  | none => (s, 0)
  | some l =>
    let k := linkKey l
    if linkAper l then
      if apertInUse s k then ({ s with pageOps := aset s.pageOps (apertOp k) (.deferUnmap out (some q)) }, 1)
      else unmapLater (unmapAperture s k out) (apertOp k) out q
    else
      match aget s.frames k with
      | none => (s, 0)
      | some f =>
        match f.st, aget s.pageOps k with
        | .migrating, some (.migrate d g m t) => ({ s with pageOps := aset s.pageOps k (.unmapAfter d g m t out (some q)) }, 1)
        | _, op =>
          if f.rcnt ≠ 0 then
            let s := match op with
              | some (.deferMigrate _ _ who l) => markRetire (pageDone s who 0x03) l
              | _ => s
            let s := deferPage s k
            ({ s with pageOps := aset s.pageOps k (.deferUnmap out (some q)) }, 1)
          else unmapLater (unmapNow s k out) k out q

/-- PAGE_UNMAP (R235). -/
def execPageUnmap (q : QRef) (s : State) : Host.Outcome State Fault Refusal :=
  .next (withHead s q 0x51 (fun _ r => pageOk r false false false) fun s r =>
    if r.work ≠ 0 then s
    else
      let c := pgCtx r
      let large := pgLarge r
      let out (i : Nat) : Nat := if pgSrc r = 0 then 0 else pgSrc r + i * pgBytes r
      let pages := (List.range (pgCount r)).map fun i => (i, pgVpn r + i * spanOf large)
      let far := pages.map fun e => (outStatus s (queuePart s q) (out e.1)).chk
      let chks := pages.map fun e => unmapChk s (queuePart s q) c e.2 large (out e.1)
      withChk s q (firstChk ([chk (ahas s.ctxs c) 0x05,
          chk (pgSrc r = 0 || srcOk s (pgSrc r) (pgCount r * pgBytes r) 65536) 0x06] ++ chks ++ far)) fun _ =>
        let x := pages.foldl (fun (x : State × Nat) e =>
          let y := unmapOne x.1 q c e.2 large (out e.1)
          (y.1, x.2 + y.2)) (s, 0)
        settleHealth (awaitPages x.1 q x.2))

/-! PAGE_ATTR (R235, R236). -/

/-- The checks of one page of PAGE_ATTR. -/
def attrChk (s : State) (p c v : Nat) (large : Bool) : PgChk :=
  match pageLink s p c v large with
  | none => .status 0x03
  | some l =>
    if linkAper l then
      if apertInUse s (linkKey l) then .status 0x08 else if apertHeld s (linkKey l) then .wait else .ok
    else
      match aget s.frames (linkKey l) with
      | none => .status 0x03
      | some f =>
        if f.st == .requested then .wait
        else if f.pincnt ≠ 0 then .status 0x04
        else if f.rcnt ≠ 0 || f.st == .migrating || f.st == .deferred then .status 0x08
        else .ok

/-- Replaces the attributes of one page; a granule that changes starts a migration, which brings the others with it: the
state, whether the record waits for it, none where no frame is free. -/
def attrOne (s : State) (q : QRef) (r : QRec) (v : Nat) : Option (State × Nat) :=
  match pageLink s (queuePart s q) (pgCtx r) v (pgLarge r) with
  | none => some (s, 0)
  | some l =>
    let k := linkKey l
    if linkAper l then
      let s := shootAperture s k
      some ({ s with aperts := amod s.aperts k fun x => { x with perm := pgPerm r, reduce := bit (dwd r.dw 0) 25 } }, 0)
    else
      match aget s.frames k with
      | none => some (s, 0)
      | some f =>
        if f.gran = pgGran r then some (modPage (shootdown s k) k r.attrs, 0)
        else (moveFrame s k none f.large).map fun dst => (startMove s k dst (pgGran r) (some q) [], 1)

/-- PAGE_ATTR (R235). -/
def execPageAttr (q : QRef) (s : State) : Host.Outcome State Fault Refusal :=
  .next (withHead s q 0x52 (fun _ r => pageOk r false false false) fun s r =>
    if r.work ≠ 0 then s
    else
      let c := pgCtx r
      withChk s q (firstChk (chk (ahas s.ctxs c) 0x05 :: (pgVpns r).map fun v => attrChk s (queuePart s q) c v (pgLarge r))) fun _ =>
        let x := (pgVpns r).foldl (fun (x : Option (State × Nat)) v =>
          x.bind fun y => (attrOne y.1 q r v).map fun z => (z.1, y.2 + z.2)) (some (s, 0))
        match x with
        | none => finishHead s q errNoFrame 0
        | some y => awaitPages y.1 q y.2)

/-! FRAME_RETIRE (R235, R238). -/

/-- The checks of one frame of FRAME_RETIRE. -/
def retireChk (s : State) (id : Nat) : PgChk :=
  if reservedFrame id then .ok
  else
    match aget s.frames id with
    | none => if frameFree s id then .ok else .wait
    | some f =>
      if f.st == .retired then .ok
      else if f.st == .requested then .wait
      else if f.pincnt ≠ 0 then .status 0x04
      else if f.st == .migrating || ahas s.pageOps (pageBase s id) then .status 0x08
      else .ok

/-- Retires one frame, at once or after its page has left it: whether the record waits, none where no frame is free. A frame
of a large page that this record moves already goes with it. -/
def retireOne (s : State) (q : QRef) (id : Nat) : Option (State × Nat) :=
  if reservedFrame id then some (s, 0)
  else
    match aget s.frames id with
    | none => some (if frameFree s id then retireFrame s id else s, 0)
    | some f =>
      let base := pageBase s id
      if f.st == .retired then some (s, 0)
      else
        match addRetire s base [id] with
        | some s => some (s, 0)
        | none =>
          if f.rcnt ≠ 0 then
            some (deferPage { s with pageOps := aset s.pageOps base (.deferMigrate none f.gran (some q) [id]) } base, 1)
          else (moveFrame s base none f.large).map fun dst => (startMove s base dst f.gran (some q) [id], 1)

/-- The frames that FRAME_RETIRE names (R234): COUNT of them, or of large pages. -/
def retireIds (r : QRec) : List Nat :=
  (List.range (pgCount r * spanOf (pgLarge r))).map fun i => (dwd r.dw 1).toNat / 65536 + i

/-- FRAME_RETIRE (R235): the frames of pinned pages are marked, and the record completes PINNED. Those that are free are
retired before any page moves, so that none takes one of them. -/
def execFrameRetire (q : QRef) (s : State) : Host.Outcome State Fault Refusal :=
  .next (withHead s q 0x54
    (fun s r =>
      let pa := (dwd r.dw 1).toNat
      let n := pgCount r * pgBytes r
      pgCount r != 0 && pgGran r != 3 && zeroBits (dwd r.dw 1) [(63, 52), (15, 0)] && dwd r.dw 3 == 0 && zeroDwords r 4 6
        && (!pgLarge r || pa % 2 ^ 24 == 0) && decide (pa + n ≤ 2 ^ 39)
        && partOfDie s (homeDie pa) == queuePart s q && partOfDie s (homeDie (pa + n - 1)) == queuePart s q)
    fun s r =>
      if r.work ≠ 0 then s
      else
        let ids := retireIds r
        match firstChk (ids.map (retireChk s)) with
        | .wait => s
        | .status n =>
          let pinned := ids.filter fun id => retireChk s id == .status 0x04
          finishHead (if n = 0x04 then markRetire s pinned else s) q n 0
        | .ok =>
          let (free, used) := ids.partition (frameFree s)
          let x := (free ++ used).foldl (fun (x : Option (State × Nat)) id =>
            x.bind fun y => (retireOne y.1 q id).map fun z => (z.1, y.2 + z.2)) (some (s, 0))
          match x with
          | none => finishHead s q errNoFrame 0
          | some y => settleHealth (awaitPages y.1 q y.2))

/-! EMIG (R340). -/

/-- Does a page operation belong to the record at the head of a queue. -/
def opOf (q : QRef) : PageOp → Bool
  | .migrate _ _ w _ | .deferMigrate _ _ w _ => w == some q
  | .unmapAfter _ _ m _ _ _ => m == some q
  | _ => false

/-- The next page of EMIG (R236, R340). An absent page is requested and waited for (R336); a page that its context may not read is not permitted (log 69). -/
def emigPage (s : State) (q : QRef) (r : QRec) : State :=
  let c := queueCtx s q
  let va := (dwd r.dw 1).toNat + r.work * 65536
  let die := if bit (dwd r.dw 0) 10 then some (bits (dwd r.dw 0) 9 8) else none
  let stop (n : Nat) : State := finishHead s q n (dw r.work)
  if 2 ^ 56 ≤ va then stop errProt
  else
    match walk s c va with
    | none =>
      let x := requestPage s c va (queuePart s q) (queueDie s q)
      if x.2 = reqNoBack then stop errProt else if x.2 = reqNoFrame then stop errNoFrame else x.1
    | some t =>
      if t.aper || t.large then stop errTarget
      else
        match aget s.frames t.entry with
        | none => stop 0x03
        | some f =>
          if f.st == .requested then s
          else if f.perm &&& permR = 0 || !keyLoaded s f.key then stop errProt
          else if f.pincnt ≠ 0 then stop 0x04
          else if f.st == .migrating || ahas s.pageOps t.entry then stop 0x08
          else if f.rcnt ≠ 0 then
            deferPage { s with pageOps := aset s.pageOps t.entry (.deferMigrate die f.gran (some q) []) } t.entry
          else beginMove s t.entry f.gran die (some q) []

/-- EMIG (R340): one page at a time. -/
def execEmigRecord (q : QRef) (s : State) : Host.Outcome State Fault Refusal :=
  .next (withHead s q 0x15
    (fun _ r => let d := dwd r.dw 0
      zeroBits d [(31, 11)] && bits d 63 32 != 0 && zeroBits (dwd r.dw 1) [(63, 56), (15, 0)] && zeroDwords r 2 3)
    fun s r =>
      if s.pageOps.any fun e => opOf q e.2 then s
      else if bits (dwd r.dw 0) 63 32 ≤ r.work then finishHead s q 0 (dw r.work)
      else emigPage s q r)

/-! Ends of page-engine work (R225, R237, R239). -/

/-- PAGE_FILL_COMPLETE (R239): a source that cannot be reached is a source error. -/
def execPageFillComplete (frame : Nat) (ok : Bool) (s : State) : Host.Outcome State Fault Refusal :=
  match aget s.pageOps frame with
  | some (.fill src) =>
    match outStatus s (partOfDie s (frame / 2 ^ 21)) src with
    | .wait => .next s
    | .ok _ => .next (endFill s frame ok)
    | .err _ => .next (endFill s frame false)
  | _ => .next s

/-- Does the destination of a migration in progress take no writes. -/
def moveFails (s : State) (frame : Nat) : Bool :=
  match aget s.pageOps frame, aget s.frames frame with
  | some (.migrate d _ _ _), some f | some (.unmapAfter d _ _ _ _ _), some f =>
    !(failedFrames s d (spanOf f.large)).isEmpty
  | _, _ => false

/-- MIGRATION_COMPLETE (R236, R237): a source that holds an uncorrectable error fails the migration, and a destination that
takes no writes does. -/
def execMigrationComplete (frame : Nat) (res : MigEnd) (s : State) : Host.Outcome State Fault Refusal :=
  match aget s.frames frame with
  | some f =>
    let res := if pageInError s frame f.large then .sourceError
      else if res = .ok && moveFails s frame then .destError else res
    .next (settleHealth (endMove s frame res))
  | none => .next s

/-- SHOOTDOWN_COMPLETE (R225). -/
def execShootdownComplete (frame : Nat) (s : State) : Host.Outcome State Fault Refusal := .next (shootdown s frame)

end Sys2Proof.Machine
end

