-- ==== Sys2Proof/Machine/CohEvents.lean ====
section
/-! DEFINITION. Coherence records and the events of the protocol engines (R202 to R216). -/

namespace Sys2Proof.Machine

/-! Records (R216). -/

/-- ARG of a coherence record. -/
def cohArg (r : QRec) : Nat := bits (dwd r.dw 0) 13 8

/-- Well-formedness of COH_CHECK and COH_LOAD, their ARG apart. -/
def cohImageOk (r : QRec) : Bool :=
  zeroBits (dwd r.dw 0) [(63, 14)] && addrOk (dwd r.dw 1) && (dwd r.dw 1).toNat % 64 == 0 && zeroDwords r 2 6

/-- Reads and checks an image (R212): UNREADABLE where it cannot be read; a table that fails is logged. -/
def withImage (s : State) (q : QRef) (r : QRec) (body : State → CohTable → State) : State :=
  match engReadSpan s q 0 (dwd r.dw 1).toNat 1088 (queueDie s q) with
  | (s, .wait) => s
  | (s, .err _) => finishHead s q 0x0C 0
  | (s, .ok l) =>
    let m := cohImage l
    match cohCheckImage m with
    | (0, _, _) => body s m.table
    | (n, st, ev) => finishHead { s with log := s.log ++ [.tableError st ev] } q n 0

/-- COH_CHECK (R216). -/
def execCohCheck (q : QRef) (s : State) : Host.Outcome State Fault Refusal :=
  .next (withHead s q 0x40 (fun _ r => cohImageOk r && cohArg r == 0) fun s r =>
    withImage s q r fun s _ => finishHead s q 0 0)

/-- COH_LOAD (R216). -/
def execCohLoad (q : QRef) (s : State) : Host.Outcome State Fault Refusal :=
  .next (withHead s q 0x41 (fun _ r => cohImageOk r && 5 ≤ cohArg r && cohArg r ≤ 7) fun s r =>
    let p := queuePart s q
    if s.rmap.any fun e => e.1 / 64 = p && e.2.pid = cohArg r && e.2.pages ≠ 0 then finishHead s q 0x08 0
    else
      withImage s q r fun s t =>
        finishHead { s with tables := aset s.tables (p * 8 + cohArg r) t } q 0 0)

/-- Does a range of 64 KiB units lie in a partition's HBM (R216). -/
def inPartition (s : State) (p base pages : Nat) : Bool :=
  decide (base + pages ≤ 2 ^ 23) && partOfDie s (base / 2 ^ 21) == p && partOfDie s ((base + pages - 1) / 2 ^ 21) == p

/-- Changes the range map (R206): quarters whose protocol changes are recalled under the protocol that is leaving, and
start in state 0 of the new one. -/
def setRange (s : State) (key : Nat) (e : RangeE) : State :=
  let m := if e.pages = 0 then adel s.rmap key else aset s.rmap key e
  let changes (s : State) (k : Nat) : Bool :=
    protoId s (k % 2 ^ 52) != protoId { s with rmap := m } (k % 2 ^ 52)
  let s1 := recallWhere s evRecl (changes s)
  { s1 with rmap := m, dir := s1.dir.filter fun d => !(changes s (d.1 * 32)) }

/-- RMAP_SET (R206, R216). -/
def execRmapSet (q : QRef) (s : State) : Host.Outcome State Fault Refusal :=
  .next (withHead s q 0x42
    (fun _ r => zeroBits (dwd r.dw 0) [(63, 14)] && zeroBits (dwd r.dw 1) [(63, 52), (15, 0)]
      && zeroBits (dwd r.dw 2) [(63, 27)] && zeroDwords r 3 6)
    fun s r =>
      let p := queuePart s q
      let key := p * 64 + cohArg r
      let e : RangeE := { base := bits (dwd r.dw 1) 51 16, pages := bits (dwd r.dw 2) 23 0, pid := bits (dwd r.dw 2) 26 24 }
      let meet := s.rmap.any fun x => x.1 / 64 = p && x.1 != key
        && decide (x.2.base < e.base + e.pages) && decide (e.base < x.2.base + x.2.pages)
      if e.pages ≠ 0 && meet then finishHead s q 0x09 0
      else if e.pages ≠ 0 && !inPartition s p e.base e.pages then finishHead s q 0x0A 0
      else if 5 ≤ e.pid && !ahas s.tables (p * 8 + e.pid) then finishHead s q 0x0B 0
      else finishHead (setRange s key e) q 0 0)

/-! Requests at a home slice (R209). -/

/-- GETS: a read miss. -/
def execGets (r : CohReq) (s : State) : Host.Outcome State Fault Refusal := .next (cohRequest s evGets r)
/-- GETX: a write miss. -/
def execGetx (r : CohReq) (s : State) : Host.Outcome State Fault Refusal := .next (cohRequest s evGetx r)
/-- UPGR: a write by a read holder. -/
def execUpgr (r : CohReq) (s : State) : Host.Outcome State Fault Refusal := .next (cohRequest s evUpgr r)
/-- PUTS: a clean eviction. -/
def execPuts (r : CohReq) (s : State) : Host.Outcome State Fault Refusal := .next (cohRequest s evPuts r)
/-- PUTL: an eviction by the only holder. -/
def execPutl (r : CohReq) (s : State) : Host.Outcome State Fault Refusal := .next (cohRequest s evPutl r)
/-- PUTX: the eviction of a dirty owner with other holders. -/
def execPutx (r : CohReq) (s : State) : Host.Outcome State Fault Refusal := .next (cohRequest s evPutx r)
/-- WTHR: a write-through of a span. -/
def execWthr (r : CohReq) (s : State) : Host.Outcome State Fault Refusal := .next (cohRequest s evWthr r)
/-- ATOM: an RMW or a commutative update. -/
def execAtomRequest (r : CohReq) (s : State) : Host.Outcome State Fault Refusal := .next (cohRequest s evAtom r)
/-- GETM: a request for an update-only or merge line. -/
def execGetm (r : CohReq) (s : State) : Host.Outcome State Fault Refusal := .next (cohRequest s evGetm r)
/-- PUTM: an update-only or merge line with its contribution. -/
def execPutm (r : CohReq) (s : State) : Host.Outcome State Fault Refusal := .next (cohRequest s evPutm r)
/-- IACK: every acknowledgement has arrived. -/
def execIack (r : CohReq) (s : State) : Host.Outcome State Fault Refusal := .next (cohRequest s evIack r)
/-- FACK: the owner's reply. -/
def execFack (r : CohReq) (s : State) : Host.Outcome State Fault Refusal := .next (cohRequest s evFack r)
/-- RECL: a recall. -/
def execRecl (r : CohReq) (s : State) : Host.Outcome State Fault Refusal := .next (cohRequest s evRecl r)
/-- FLSH: a key retirement's flush (R214). -/
def execFlsh (r : CohReq) (s : State) : Host.Outcome State Fault Refusal := .next (cohRequest s evFlsh r)

/-! A host's accesses (R193, R211, R409, R410). -/

/-- The agent field of a host (R408): the port that owns the home die's partition. -/
def hostAgent (s : State) (pa : Nat) : Dword := dw (2 ^ 63 + portOfPart s (partOfDie s (homeDie pa)))

/-- Has the last request of a host been refused. -/
def refusedNow (old new : State) : Bool := old.ncOut.length < new.ncOut.length && new.ncOut.getLast? == some none

/-- A host's access to a span of HBM. One that has no room in a book waits at its home slice (R410); a read of poison is
refused as that of another module is (R227; log 71). Updates buffered for what it reads merge first (R178). A module without
power serves none (R25). -/
def hostRequest (s : State) (ev : Nat) (code : AccCode) (r : CohReq) : State :=
  let pa := r.line + 4 * r.word
  let n := 4 * r.len
  if s.shut then s
  else
  let s := settleHost s
  let log := pageLogged s pa
  let l := if log.isSome then agentPieces n pa n else []
  if bookFull s (homeDie pa) l.length then s
  else if ev = evNcrd && cohReqOk r && inError s pa n then { findErrors s pa n with ncOut := s.ncOut ++ [none] }
  else
    let s := if ev = evNcrd && cohReqOk r && paKind pa = .hbm then flushAt s r.key pa n else s
    let s1 := cohRequest s ev r
    match log with
    | some c => if refusedNow s s1 || !cohReqOk r then s1
      else l.foldl (fun s p => bookAccess s c p.1 p.2 code (hostAgent s pa)) s1
    | none => s1

/-- NCRD: a non-caching read. -/
def execNcrd (r : CohReq) (s : State) : Host.Outcome State Fault Refusal := .next (hostRequest s evNcrd .read r)
/-- NCWR: a non-caching write. -/
def execNcwr (r : CohReq) (s : State) : Host.Outcome State Fault Refusal := .next (hostRequest s evNcwr .write r)

end Sys2Proof.Machine
end

