-- ==== Sys2Proof/Machine/Collectives.lean ====
section
/-! DEFINITION. Reduction rounds at this rank: closes, partials, delivery, landing, the end of a round, suspension
(R382 to R388, R390). How a rank learns that all partials, and all merged images, of a round have reached it is not
stated: an empty image says so (log 27). -/

namespace Sys2Proof.Machine

/-! Ranks, locations and planes (R379, R381, R384, R387). -/

/-- An entry in force. -/
def collEntry (s : State) (c e : Nat) : Option CollEntry := aget (ctxOf s c).colls e

/-- The partition whose planes an entry's traffic uses (R372, R379). -/
def collPart (s : State) (x : CollEntry) : Nat := if s.part = .split then x.ph - 1 else 0

/-- A rank as a mask. -/
def rankBit (k : Nat) : BitVec 512 := 1#512 <<< k

/-- The other ranks of an entry. -/
def otherRanks (x : CollEntry) : List Nat := (List.range x.nrank).filter (· != x.myRank)

/-- Does a mask count every rank of a list. -/
def coversRanks (m : BitVec 512) (l : List Nat) : Bool := l.all fun k => m.getLsbD k

/-- Is a rank a receiver (R384). -/
def receives (x : CollEntry) (k : Nat) : Bool := !x.rooted || k == x.root

/-- The pod position of a rank. -/
def rankPos (x : CollEntry) (k : Nat) : Nat := (x.rmap[k]?).getD 0

/-- Bytes of a location. -/
def locBytes (s : State) (c : Nat) (x : CollEntry) (loc : Nat) : Nat := if cellAt s c x loc then 128 else codeBytes x.fmt

/-- The address of a location. -/
def locVa (s : State) (c : Nat) (x : CollEntry) (loc : Nat) : Nat := x.base + locIx loc * locBytes s c x loc

/-- Is a number that of a location of the entry (R381; log 83). -/
def locOk (s : State) (c : Nat) (x : CollEntry) (loc : Nat) : Bool :=
  cellAt s c x loc
    || (locIx loc * codeBytes x.fmt < x.pages * 65536 && !accumAt s c (locVa s c x loc)
      && loc = locNum s c x false (locIx loc))

/-- The plane of a location's switch slot (R387). -/
def slotPlane (x : CollEntry) (cell : Bool) (loc : Nat) : Nat :=
  let i := collPage x cell loc
  if x.ph = 0 then i % 18 else if x.ph = 1 then i % 9 else 9 + i % 9

/-- Do the partials of a plane's locations go to a slot of its switch (R387). -/
def slotOpen (s : State) (x : CollEntry) (n : Nat) : Bool :=
  x.swred && !x.e2e
    && (match s.uports[n]? with
      | some p => p.swr && linkUp (linkCode p.st)
      | none => false)
    && (otherRanks x).all fun k => linkUp (agetD s.reach (rankPos x k * 18 + n) 0)

/-! Messages (R384, R390). -/

/-- Sends a contribution or merged image to a rank; what is addressed to a suspended rank is held (R390). -/
def sendColl (s : State) (c e k : Nat) (m : CollMsg) : State :=
  let r := roundsOf s c e
  if r.suspended.contains k then setRounds s c e { r with heldOut := r.heldOut ++ [m] }
  else { s with collOut := s.collOut ++ [m] }

/-- The rank a message is addressed to; a partial for a slot goes to none. -/
def CollMsg.to : CollMsg → Option Nat
  | .part _ _ _ _ k _ | .partsEnd _ _ _ k | .merged _ _ _ _ k _ | .mergedEnd _ _ _ k | .ack _ _ _ k => some k
  | .suspend _ _ _ k | .resume _ _ k | .abort _ _ k => some k
  | .slot _ _ _ _ _ _ => none

/-- Merges into what the reducer holds for a location, unless the mask counts a rank already (R387). -/
def mergePartial (r : Rounds) (loc : Nat) (mask : BitVec 512) (f : LA → LA) : Rounds :=
  let m := agetD r.merged loc (0, LA.zero)
  if m.1 &&& mask != 0 then r else { r with merged := aset r.merged loc (m.1 ||| mask, f m.2) }

/-- Sends this rank's partial for a location to its reducer (R384). -/
def sendPartial (s : State) (c e : Nat) (x : CollEntry) (loc : Nat) (a : LA) : State :=
  let k := reducerOf x (cellAt s c x loc) loc
  let r := roundsOf s c e
  if k = x.myRank then
    (if r.reduced < r.closed then setRounds s c e (mergePartial r loc (rankBit k) fun b => b.merge a) else s)
  else sendColl s c e k (.part c e r.closed loc k a.image)

/-- Sends this rank's partials of the round just closed, to slots and reducers (R384, R387). -/
def sendPartials (s : State) (c e : Nat) (x : CollEntry) : State :=
  let n := (roundsOf s c e).closed
  let s := (roundsOf s c e).closedC.foldl (fun s p =>
    let plane := slotPlane x (cellAt s c x p.1) p.1
    if slotOpen s x plane then
      let r := roundsOf s c e
      let s := setRounds s c e { r with slots := r.slots ++ [p.1] }
      { s with collOut := s.collOut ++ [.slot c e n p.1 plane p.2.image] }
    else sendPartial s c e x p.1 p.2) s
  (otherRanks x).foldl (fun s k => sendColl s c e k (.partsEnd c e n k)) s

/-! Writing and landing (R384 step 5, R388). -/

/-- The LA of a block in which a location of an entry lands (R388); in an entry with pages of both kinds a window names the
cells and the elements of its indices alike (log 83). -/
def landingLa (b : Block) (c e loc : Nat) : Option Nat :=
  let a := b.accin
  let w := bits a 31 0
  let loc := locIx loc
  if b.st == .placed && b.ctx == c && bit a 63 && bits a 62 54 == e && w ≤ loc && loc < w + 32 * (bits a 45 38 + 1) then
    some (32 * (bits a 53 46 + (loc - w) / 32) + (loc - w) % 32)
  else none

/-- Lands an image in a block (R388). -/
def landImage (s : State) (k la : Nat) (im : List Byte) : State :=
  { s with blocks := amod s.blocks k fun b =>
      { b with las := asetD b.las la ((agetD b.las la LA.zero).mergeImage im) LA.zero } }

/-- The bytes that an image writes to a location (R384 step 5, R68). -/
def locData (s : State) (c : Nat) (x : CollEntry) (loc : Nat) (im : List Byte) : List Byte :=
  if cellAt s c x loc then im
  else
    match numOfCode x.fmt with
    | some f => toBytes (numBits f / 8) ((loadImage im).round f .rn 0).1
    | none => []

/-- Writes a location's bytes as one write of the collective engine; false where it has to be waited for. A write that
the page does not admit is discarded (log 28). -/
def putLoc (s : State) (c e : Nat) (x : CollEntry) (loc : Nat) (data : List Byte) : State × Bool :=
  let q := QRef.ep c (roundsOf s c e).slot
  let va := locVa s c x loc
  match walk s c va with
  | none =>
    let r := requestPage s c va (collPart s x) (queueDie s q)
    if r.2 = reqNoBack then (s, true) else (r.1, false)
  | some t =>
    if t.perm &&& permW = 0 || !keyLoaded s t.key then (s, true)
    else if t.absentFor true then (s, false)
    else
      match farStatus s (collPart s x) t.pa with
      | .wait => (s, false)
      | .err _ => (s, true)
      | .ok _ =>
        if bookHolds s c t data.length then (s, false)
        else
          match homeWriteNc s t.key t.pa data with
          | (s, .waits) => (s, false)
          | (s, .err) => (countErr s (homeDie t.pa), true)
          | (s, .ok _) => (noteAgent s c t data.length .write (queueAgent q), true)

/-- A merged image arrives (R384 step 5, R388): it lands where a landing is armed by then, else it is to be written. -/
def arriveLoc (s : State) (c e : Nat) (x : CollEntry) (loc : Nat) (im : List Byte) : State :=
  let l := if x.rooted then [] else s.blocks.filterMap fun b => (landingLa b.2 c e loc).map fun a => (b.1, a)
  let r := roundsOf s c e
  if l.isEmpty then setRounds s c e { r with todo := aset r.todo loc im }
  else l.foldl (fun s b => landImage s b.1 b.2 im) (setRounds s c e { r with written := r.written ++ [loc] })

/-- Writes what has come in to be written. -/
def flushTodo (s : State) (c e : Nat) (x : CollEntry) : State :=
  (roundsOf s c e).todo.foldl (fun s m =>
    let d := putLoc s c e x m.1 (locData s c x m.1 m.2)
    if d.2 then
      let r := roundsOf d.1 c e
      setRounds d.1 c e { r with todo := adel r.todo m.1, written := r.written ++ [m.1] }
    else d.1) s

/-! The course of a round (R384). -/

/-- The reducer's part (R384 steps 3 and 4): once every rank's partials are in, merged images go to the receivers. It
waits for slots that may still come back to it (R387), until all that this rank sent to them is known to be in. While its
context is saved, the images that are for this rank itself wait for it as those of other reducers do (R390). -/
def reduceRound (s : State) (c e : Nat) (x : CollEntry) : State :=
  let r := roundsOf s c e
  let open_ := (r.slots.any fun l => reducerOf x (cellAt s c x l) l == x.myRank) && !r.fin.getLsbD x.myRank
  if r.reduced < r.closed && r.ending.isNone && coversRanks r.fin (otherRanks x) && !open_ then
    let dest := (otherRanks x).filter (receives x)
    let s := setRounds s c e { r with reduced := r.closed, merged := [], fin := 0 }
    let s :=
      if !receives x x.myRank then s
      else if r.selfSuspended then
        setRounds s c e { roundsOf s c e with
          inbox := r.inbox ++ r.merged.map fun m => ⟨r.closed, m.1, m.2.2.image⟩ }
      else r.merged.foldl (fun s m => arriveLoc s c e x m.1 m.2.2.image) s
    let s := r.merged.foldl (fun s m =>
      dest.foldl (fun s k => sendColl s c e k (.merged c e r.closed m.1 k m.2.2.image)) s) s
    dest.foldl (fun s k => sendColl s c e k (.mergedEnd c e r.closed k)) s
  else s

/-- This rank's own delivery (R384 step 6): acknowledged once all it receives is written or landed. -/
def ackRound (s : State) (c e : Nat) (x : CollEntry) : State :=
  let r := roundsOf s c e
  let got := !receives x x.myRank || (r.todo.isEmpty && r.inbox.isEmpty && r.slots.isEmpty
    && coversRanks r.deliv (otherRanks x))
  if r.ending.isSome then s
  else if r.acked then
    if coversRanks r.acks (otherRanks x) then setRounds s c e { r with ending := some 0 } else s
  else if r.reduced = r.closed && got then
    let ended := coversRanks r.acks (otherRanks x)
    let s := setRounds s c e { r with acked := true, ending := if ended then some 0 else none }
    { s with collOut := s.collOut ++ (otherRanks x).map fun k => .ack c e r.closed k }
  else s

/-- The close record completes, and with it the round (R382, R385); ERR_ILLFORMED halts the endpoint. -/
def endClose (s : State) (c e : Nat) (status : Nat) : State :=
  let r := roundsOf s c e
  let q := QRef.ep c r.slot
  let s := setRounds s c e { r with
    completed := r.closed, reduced := r.closed, closedC := [], todo := [], written := [], deliv := 0, acks := 0,
    acked := false, ending := none, due := none, left := 0, slots := [] }
  let s := settleTable (finishHead s q status 0) c
  if status = errIll then haltQueue s q else s

/-- Writes FLAG where the round is ending (R384 step 6, R385). -/
def writeFlag (s : State) (c e : Nat) (x : CollEntry) : State :=
  let r := roundsOf s c e
  match r.ending with
  | none => s
  | some st =>
    let q := QRef.ep c r.slot
    match engUpdate s q c x.flag.toNat (queueDie s q) 0 (dw (b2n (st != 0) * 2 ^ 63 + r.closed % 2 ^ 32)) with
    | (s, .wait) => s
    | (s, .err er) => endClose s c e (if st = 0 then er else st)
    | (s, .ok _) => endClose s c e st

/-- Takes the round in progress as far as it goes. -/
def settleRound (s : State) (c e : Nat) : State :=
  match collEntry s c e with
  | none => s
  | some x =>
    let r := roundsOf s c e
    if r.completed < r.closed then
      let s := reduceRound s c e x
      let s := if r.ending.isNone then flushTodo s c e x else s
      writeFlag (ackRound s c e x) c e x
    else s

/-- Locations of a failed round that this rank knows of and has not written: each keeps its value, or takes the final
one, by a free choice (R385; log 13). -/
def loseRound (s : State) (c e : Nat) (x : CollEntry) : State :=
  let r := roundsOf s c e
  let mine := if r.reduced < r.closed then r.merged.map Prod.fst else []
  let locs := if receives x x.myRank then
      let inbox := (r.inbox.filter fun p => !p.image.isEmpty).map EarlyImage.loc
      ((r.closedC.map Prod.fst ++ mine ++ r.todo.map Prod.fst ++ inbox).eraseDups).filter fun l => !r.written.contains l
    else []
  locs.foldl (fun s l =>
    let n := s.freeCtr
    let s := { s with freeCtr := n + 1 }
    if Config.freeFailed n then
      (putLoc s c e x l (match aget r.todo l with
        | some im => locData s c x l im
        | none => toBytes (locBytes s c x l) (Config.freeFinal n).toNat)).1
    else s) s

/-- Ends the round in progress in error, or has the next close end so (R385). -/
def failRound (s : State) (c e : Nat) (status : Nat) : State :=
  match collEntry s c e with
  | none => s
  | some x =>
    let r := roundsOf s c e
    if r.completed < r.closed then
      if r.ending.isSome then s
      else
        let s := loseRound s c e x
        let r := roundsOf s c e
        let own := r.reduced < r.closed
        writeFlag (setRounds s c e { r with
          ending := some status, todo := [], inbox := [], reduced := r.closed, due := none, left := 0,
          merged := if own then [] else r.merged, fin := if own then 0 else r.fin }) c e x
    else if r.failed.isSome then s
    else setRounds s c e { r with failed := some status }

/-- An address in the memory of a rank's partition. -/
def rankPa (x : CollEntry) (k : Nat) : Nat := 8 * 2 ^ 48 + rankPos x k * 2 ^ 39 + (if x.ph = 2 then 2 ^ 38 else 0)

/-- Is a rank of an entry out of reach for good (R377, R385): no plane reaches it, none of them retrains, and no drain round
of it runs. -/
def rankGone (s : State) (x : CollEntry) (k : Nat) : Bool := wayTo s (collPart s x) (rankPa x k) = .lost

/-- What a round checks of its entry when it opens (R380): a table that has been replaced may not fit its module, its
partition, its pages or the entries still in force. -/
def roundFits (s : State) (c : Nat) (x : CollEntry) : Bool :=
  let word (va : Nat) : Bool := (walk s c va).all fun t => !t.reduce
  rmapOk s x && collPlanesOk s (collPart s x) x && !collsMeet (ctxOf s c).colls && word x.close.toNat && word x.flag.toNat

/-! Events. -/

/-- The close of round c (R382): CLOSE is written, and the round's contributions are those of the open round (R383). A round
whose entry fails the check of R380 ends as one with a mismatch does (log 76). -/
def openClose (s : State) (q : QRef) (c e : Nat) (x : CollEntry) : State :=
  let r := roundsOf s c e
  match engUpdate s q c x.close.toNat (queueDie s q) 0 (dw (r.closed + 1)) with
  | (s, .wait) => s
  | (s, .err er) => finishHead s q er 0
  | (s, .ok _) =>
    let slot := match q with
      | .ep _ n => n
      | .host _ _ => 0
    let n := nsClocks (x.timeout * 1000)
    let held := r.selfSuspended || !r.suspended.isEmpty
    let s := setRounds (setWork s q 1) c e { r with
      closed := r.closed + 1, slot := slot, closedC := r.openC, openC := [], failed := none, closedAt := s.clock,
      due := if x.timeout = 0 || held then none else some (s.clock + n),
      left := if x.timeout = 0 || !held then 0 else n + 1 }
    match r.failed with
    | some st => failRound s c e st
    | none =>
      if !roundFits s c x then failRound s c e errIll
      else if (otherRanks x).any (rankGone s x) then failRound s c e errRemote
      else settleRound (sendPartials s c e x) c e

/-- Well-formedness of a close (R382). -/
def closeOk (r : QRec) : Bool := signalOk r && bits (dwd r.dw 0) 9 8 == 0 && dwd r.dw 2 == 0

/-- Does a close wait for the round in progress of its entry (R382). -/
def closeWaits (s : State) (r : QRec) (c e : Nat) : Bool :=
  closeOk r && r.work == 0 && decide ((roundsOf s c e).completed < (roundsOf s c e).closed)

/-- COLLECTIVE_CLOSE (R382): a close stays at the head of its endpoint until its round completes; one whose entry has a
round in progress is not begun. -/
def execCollectiveClose (q : QRef) (s : State) : Host.Outcome State Fault Refusal :=
  match queueRecs s q with
  | [] => .next s
  | r0 :: _ =>
    match closeOf s q r0 with
    | none => .next s
    | some (c, e, x) =>
      if closeWaits s r0 c e then .next s
      else
        .next (withHead s q 0x03 (fun _ r => closeOk r) fun s r =>
          if r.work = 1 then settleRound s c e else openClose s q c e x)

/-- Takes a partial (R384, R387): one of a later round is kept until this rank comes to it. A switch that returns this
rank's partial holds it no more. -/
def takePartial (s : State) (c e : Nat) (x : CollEntry) (p : EarlyPart) : State :=
  let r := roundsOf s c e
  let place := locOk s c x p.loc && reducerOf x (cellAt s c x p.loc) p.loc == x.myRank
  let fits := p.rank < x.nrank && p.mask.toNat < 2 ^ x.nrank && (p.image.isEmpty || (p.image.length == 128 && place))
  if p.round ≤ r.reduced then s
  else if !fits then failRound s c e errIll
  else if r.reduced + 1 < p.round then setRounds s c e { r with early := r.early ++ [p] }
  else if p.image.isEmpty then settleRound (setRounds s c e { r with fin := r.fin ||| p.mask ||| rankBit p.rank }) c e
  else
    let m := if p.mask = 0 then rankBit p.rank else p.mask
    let r := mergePartial r p.loc m fun a => a.mergeImage p.image
    let r := if m.getLsbD x.myRank then { r with slots := r.slots.filter (· != p.loc) } else r
    settleRound (setRounds s c e r) c e

/-- PARTIAL_RECEIVED (R384, R387): a partial, with the mask of the ranks that a switch has merged, or none for the rank's
own. An empty image says that all partials of the rank, and of the ranks of the mask, are in. -/
def execPartialReceived (c e round loc rank : Nat) (mask : BitVec 512) (image : List Byte) (s : State) :
    Host.Outcome State Fault Refusal :=
  match collEntry s c e with
  | none => .next s
  | some x => .next (takePartial s c e x ⟨round, loc, rank, mask, image⟩)

/-- Takes a merged image (R384 step 5, R388): one that reaches a rank while its context is saved waits for it (R390). -/
def takeMerged (s : State) (c e : Nat) (x : CollEntry) (p : EarlyImage) : State :=
  let r := roundsOf s c e
  if !(r.completed < r.closed) || p.round ≠ r.closed || r.ending.isSome then s
  else if r.selfSuspended then setRounds s c e { r with inbox := r.inbox ++ [p] }
  else if !receives x x.myRank then failRound s c e errIll
  else if p.image.isEmpty then
    if p.loc < x.nrank then settleRound (setRounds s c e { r with deliv := r.deliv ||| rankBit p.loc }) c e
    else failRound s c e errIll
  else if p.image.length ≠ 128 || !locOk s c x p.loc then failRound s c e errIll
  else if r.written.contains p.loc || ahas r.todo p.loc then s
  else
    settleRound (arriveLoc (setRounds s c e { r with slots := r.slots.filter (· != p.loc) }) c e x p.loc p.image) c e

/-- MERGED_IMAGE_RECEIVED (R384 step 5, R388). An empty image says that all images of the reducer whose rank stands for
the location are in. -/
def execMergedImageReceived (c e round loc : Nat) (image : List Byte) (s : State) : Host.Outcome State Fault Refusal :=
  match collEntry s c e with
  | none => .next s
  | some x => .next (takeMerged s c e x ⟨round, loc, image⟩)

/-- Takes what has come early and is due by now: partials of the round that the reducer has come to, and images once the
context is resident. -/
def takeEarly (s : State) (c e : Nat) : State :=
  match collEntry s c e with
  | none => s
  | some x =>
    let r := roundsOf s c e
    let due (p : EarlyPart) : Bool := p.round ≤ r.reduced + 1
    let s1 := if r.early.any due then
        (r.early.filter due).foldl (fun s p => takePartial s c e x p)
          (setRounds s c e { r with early := r.early.filter fun p => !due p })
      else s
    let r1 := roundsOf s1 c e
    if r1.inbox.isEmpty || r1.selfSuspended then s1
    else r1.inbox.foldl (fun s p => takeMerged s c e x p) (setRounds s1 c e { r1 with inbox := [] })

/-- DELIVERY_ACK (R384 step 6): a rank has written all it receives. -/
def execDeliveryAck (c e round rank : Nat) (s : State) : Host.Outcome State Fault Refusal :=
  match collEntry s c e with
  | none => .next s
  | some x =>
    let r := roundsOf s c e
    if !(r.completed < r.closed) || round ≠ r.closed || r.ending.isSome then .next s
    else if x.nrank ≤ rank then .next (failRound s c e errIll)
    else .next (settleRound (setRounds s c e { r with acks := r.acks ||| rankBit rank }) c e)

/-- ROUND_TIMEOUT (R385): TIMEOUT counted from this rank's close. -/
def execRoundTimeout (c e : Nat) (s : State) : Host.Outcome State Fault Refusal :=
  match (roundsOf s c e).due with
  | some t => .next (failRound (setRounds (s.upTo t) c e { roundsOf s c e with due := none }) c e errTimeout)
  | none => .next s

/-- SUSPEND_RECEIVED (R390): it concerns the entry, whichever round it names. -/
def execSuspendReceived (c e rank : Nat) (s : State) : Host.Outcome State Fault Refusal :=
  match collEntry s c e with
  | none => .next s
  | some x =>
    let r := roundsOf s c e
    if x.nrank ≤ rank then .next (failRound s c e errIll)
    else if r.suspended.contains rank then .next s
    else .next (setRounds s c e { r.stop s.clock with suspended := r.suspended ++ [rank], suspAt := s.clock })

/-- RESUME_RECEIVED (R390): what was held for the rank is delivered, and the timer goes on. -/
def execResumeReceived (c e rank : Nat) (s : State) : Host.Outcome State Fault Refusal :=
  match collEntry s c e with
  | none => .next s
  | some x =>
    let r := roundsOf s c e
    if x.nrank ≤ rank then .next (failRound s c e errIll)
    else
      let mine (m : CollMsg) : Bool := m.to == some rank
      let r1 : Rounds := { r with suspended := r.suspended.filter (· != rank),
                                  heldOut := r.heldOut.filter fun m => !mine m }
      .next { setRounds s c e (r1.resume s.clock) with collOut := s.collOut ++ r.heldOut.filter mine }

/-- ABORT_RECEIVED (R385, R390): the context of a rank was destroyed. -/
def execAbortReceived (c e rank : Nat) (s : State) : Host.Outcome State Fault Refusal :=
  match collEntry s c e with
  | none => .next s
  | some x => .next (failRound s c e (if rank < x.nrank then errAborted else errIll))

/-- SLOT_RELEASE (R387, R390): 1 ms after SUSPEND passed it, be it a peer's or this rank's own, the slot of a location sends
what it holds to the reducer. -/
def execSlotRelease (c e loc : Nat) (s : State) : Host.Outcome State Fault Refusal :=
  let r := roundsOf s c e
  if r.slots.contains loc && (r.selfSuspended || !r.suspended.isEmpty) then
    let s := s.upTo (r.suspAt + nsClocks msNs)
    .next (settleRound (setRounds s c e { r with slots := r.slots.filter (· != loc) }) c e)
  else .next s

/-! Links and rounds (R385, R387). -/

/-- Every entry in force, by context and index. -/
def allColls (s : State) : List (Nat × Nat × CollEntry) :=
  s.ctxs.flatMap fun c => c.2.colls.map fun e => (c.1, e.1, e.2)

/-- The port of a plane has gone DEAD at a rank: its slots are abandoned, and this rank's partials for them go to their
reducers (R387). pos is the position of that module. -/
def abandonSlots (s : State) (plane pos : Nat) : State :=
  (allColls s).foldl (fun s x =>
    let e := x.2.2
    if !e.rmap.contains pos then s
    else
      let r := roundsOf s x.1 x.2.1
      let gone := r.slots.filter fun l => slotPlane e (cellAt s x.1 e l) l == plane
      let s := setRounds s x.1 x.2.1 { r with slots := r.slots.filter fun l => !gone.contains l }
      gone.foldl (fun s l => sendPartial s x.1 x.2.1 e l (agetD r.closedC l LA.zero)) s) s

/-- Rounds of which a rank has become unreachable to the end of its drain rounds end in ERR_REMOTE (R385). -/
def failUnreachable (s : State) : State :=
  (allColls s).foldl (fun s x =>
    let r := roundsOf s x.1 x.2.1
    if r.completed < r.closed && (otherRanks x.2.2).any (rankGone s x.2.2) then failRound s x.1 x.2.1 errRemote
    else s) s

/-- Takes every round in progress as far as it goes: those that wait for a page; and what has come early. -/
def settleRounds (s : State) : State :=
  s.rounds.foldl (fun s e =>
    let s := takeEarly s (e.1 / 512) (e.1 % 512)
    if e.2.completed < e.2.closed then settleRound s (e.1 / 512) (e.1 % 512) else s) s

end Sys2Proof.Machine
end

