-- ==== Sys2Proof/Machine/Links.lean ====
section
/-! DEFINITION. Ports and dead links, link-state updates, drain rounds, requests of other modules (R370 to R378). -/

namespace Sys2Proof.Machine

/-- 1 s in ns. -/
abbrev secNs : Nat := 1000000000

/-- Changes a UALink port. -/
def modPort (s : State) (n : Nat) (f : Port → Port) : State := { s with uports := s.uports.modify n f }

/-- Floods a link-state update about a port on every other port that is UP or DEGRADED (R376), of its partition in
SPLIT mode (R372). -/
def floodLsu (s : State) (n : Nat) : State :=
  match s.uports[n]? with
  | none => s
  | some p =>
    let seq := s.lsuSeq + 1
    let on := (List.range 18).filter fun m => m != n && (s.part != .split || m / 9 == n / 9)
      && (match s.uports[m]? with
        | some q => linkUp (linkCode q.st)
        | none => false)
    modPort { s with lsuSeq := seq, lsuOut := s.lsuOut ++ [⟨s.podPos, n, linkCode p.st, seq, on⟩] } n
      fun p => { p with lseq := seq % 2 ^ 32 }

/-- Starts the drain rounds of a plane, for one position or for all (R377). -/
def startDrain (s : State) (n : Nat) (pos : Option Nat) : State :=
  { s with drains := s.drains ++ [⟨n, 1, s.clock, pos⟩] }

/-- A port enters DEAD or ISOLATED (R375, R377, R387); drain rounds are counted from the LSU, where one is sent. -/
def portLost (s : State) (n : Nat) (lsu : Bool) (f : Port → Port) : State :=
  let s := modPort s n fun p => { f p with width := 0, since := s.clock }
  let s := if lsu then startDrain (floodLsu s n) n none else s
  abandonSlots s n s.podPos

/-- A port enters DEAD by a failure. -/
def portDead (s : State) (n : Nat) (lsu : Bool) : State :=
  portLost s n lsu fun p => { p with st := .dead, fails := p.fails + 1 }

/-- A port has trained at a width (R375): 3 is x4. -/
def portTrained (s : State) (n width : Nat) (lsu : Bool) : State :=
  let s := modPort s n fun p =>
    { p with st := if width = 3 then .up else .degraded, width := width, swr := Config.freeSlots n,
             everUp := p.everUp || width == 3,
             fails := 0, since := s.clock }
  if lsu then floodLsu s n else s

/-- LINK_TRAINED (R375). -/
def execLinkTrained (port width : Nat) (s : State) : Host.Outcome State Fault Refusal :=
  match s.uports[port]? with
  | some p => .next (if p.st == .training && 1 ≤ width && width ≤ 3 then portTrained s port width true else s)
  | none => .next s

/-- TRAINING_TIMEOUT (R375): no LSU about a port that has never been up. -/
def execTrainingTimeout (port : Nat) (s : State) : Host.Outcome State Fault Refusal :=
  match s.uports[port]? with
  | some p =>
    .next (if p.st == .training then portDead (s.upTo (p.since + nsClocks (100 * msNs))) port p.everUp else s)
  | none => .next s

/-- LINK_RETRAIN (R375): the replay limit, or a lane lost. -/
def execLinkRetrain (port : Nat) (s : State) : Host.Outcome State Fault Refusal :=
  match s.uports[port]? with
  | some p =>
    .next (if linkUp (linkCode p.st) then
        modPort s port fun p => { p with st := .retraining, wasWidth := p.width, width := 0,
                                         retrains := min 65535 (p.retrains + 1), since := s.clock }
      else s)
  | none => .next s

/-- RETRAIN_COMPLETE (R375), within 1 ms: a port that is UP again at the width it had sends no LSU. -/
def execRetrainComplete (port width : Nat) (s : State) : Host.Outcome State Fault Refusal :=
  match s.uports[port]? with
  | some p =>
    .next (if p.st == .retraining && 1 ≤ width && width ≤ 3 && s.clock ≤ p.since + nsClocks msNs then
        portTrained s port width (width ≠ 3 || p.wasWidth ≠ 3)
      else s)
  | none => .next s

/-- RETRAIN_TIMEOUT (R375). -/
def execRetrainTimeout (port : Nat) (s : State) : Host.Outcome State Fault Refusal :=
  match s.uports[port]? with
  | some p => .next (if p.st == .retraining then portDead (s.upTo (p.since + nsClocks msNs)) port true else s)
  | none => .next s

/-- DEAD_RETRY (R375, R399): the 16th consecutive failure isolates the port. -/
def execDeadRetry (port : Nat) (s : State) : Host.Outcome State Fault Refusal :=
  match s.uports[port]? with
  | some p =>
    .next (if p.st != .dead then s
      else if 16 ≤ p.fails then settleHealth (portLost s port false fun p => { p with st := .isolated })
      else
        let s := s.upTo (p.since + nsClocks secNs)
        modPort s port fun p => { p with st := .training, since := s.clock })
  | none => .next s

/-- LINK_DISABLE (R375, R399). -/
def execLinkDisable (port : Nat) (s : State) : Host.Outcome State Fault Refusal :=
  match s.uports[port]? with
  | some p =>
    .next (if p.st == .down || p.st == .isolated then s
      else settleHealth (portLost s port true fun p => { p with st := .isolated }))
  | none => .next s

/-- LINK_ENABLE (R375). -/
def execLinkEnable (port : Nat) (s : State) : Host.Outcome State Fault Refusal :=
  match s.uports[port]? with
  | some p =>
    .next (if p.st == .isolated then modPort s port fun p => { p with st := .training, fails := 0, since := s.clock } else s)
  | none => .next s

/-- LSU_RECEIVED (R376): applied when it is newer than the last from its origin; one that tells of a dead port starts
drain rounds for that module (R377) and gives up its slots (R387). -/
def execLsuReceived (origin plane st seq : Nat) (s : State) : Host.Outcome State Fault Refusal :=
  if 512 ≤ origin || 18 ≤ plane || 6 < st || origin = s.podPos || seq ≤ agetD s.lastLsu origin 0 then .next s
  else
    let s := { s with reach := asetD s.reach (origin * 18 + plane) st 0, lastLsu := aset s.lastLsu origin seq }
    .next (if 5 ≤ st then abandonSlots (startDrain s plane (some origin)) plane origin else s)

/-- Writes posted to a peer that is out of reach, with no drain round of it left, are lost (R377). -/
def loseKept (s : State) : State :=
  let gone (w : Posted) : Bool := wayTo s w.part w.pa = .lost
  { s with posted := s.posted.filter fun w => !gone w,
           lostPeers := s.lostPeers ++ (s.posted.filter gone).map fun w => (w.grp, w.peer) }

/-- DRAIN_ROUND_END (R377): the oldest drain of a plane goes to its next round, or ends with its third. -/
def execDrainRoundEnd (port : Nat) (s : State) : Host.Outcome State Fault Refusal :=
  match s.drains.find? fun d => d.plane == port with
  | none => .next s
  | some d =>
    let t := d.since + nsClocks 100000
    let s := s.upTo t
    if d.round < 3 then
      .next { s with drains := s.drains.map fun x => if x = d then { d with round := d.round + 1, since := t } else x }
    else .next (failUnreachable (loseKept { s with drains := s.drains.erase d }))

/-- States of a PCIe port by code (R373). -/
def pcieSt (n : Nat) : Option LinkSt := [LinkSt.down, .training, .up, .degraded, .retraining][n]?

/-- PCIE_LINK_CHANGE (R20, R373, R374): a port that carries traffic does so at x16, x8 or x4, and other states are never
reported. -/
def execPcieLinkChange (port st width : Nat) (s : State) : Host.Outcome State Fault Refusal :=
  match pcieSt st with
  | some x =>
    if width ≤ 5 && (3 ≤ width || !linkUp st) && port < 2 then
      .next { s with pports := s.pports.modify port fun p =>
        { p with st := x, width := if linkUp st then width else 0, since := s.clock,
                 retrains := if x == .retraining && p.st != .retraining then min 65535 (p.retrains + 1)
                   else p.retrains } }
    else .next s
  | none => .next s

/-! Requests of other modules (R370, R372). -/

/-- Answers a request. -/
def uaReply (s : State) (src : Nat) (l : Option (List Byte)) : State := { s with uaOut := s.uaOut ++ [(src, l)] }

/-- Bytes that a request concerns. -/
def uaLen : UaOp → Nat
  | .read n => n
  | .write l => l.length
  | .atomic _ wide _ _ | .update _ wide _ => if wide then 4 else 8
  | .cell _ => 128

/-- The event a request raises at home, and how it is recorded (R209, R408). -/
def uaKind : UaOp → Nat × AccCode
  | .read _ => (evNcrd, .read)
  | .write _ => (evNcwr, .write)
  | .atomic _ _ _ _ => (evAtom, .rmw)
  | .update _ _ _ => (evPutm, .update)
  | .cell _ => (evPutm, .update)

/-- The event as a quarter takes it: under ACCUM an integer update is taken as ATOM (R210). -/
def uaEvent (s : State) (q : Nat) : UaOp → Nat
  | .update _ _ _ => if protoId s q = 4 then evAtom else evPutm
  | op => (uaKind op).1

/-- An atomic request with no return (R370): a commutative update, of a dword or of a cell, gives no answer unless it is
refused. -/
def uaSilent : UaOp → Bool
  | .update _ _ _ | .cell _ => true
  | _ => false

/-- What a request does to memory at home, in the quarters whose entries move its data (R208). -/
def uaPerform (s : State) (pa : Nat) (op : UaOp) (moved : List Nat) : State :=
  let whole (f : State → State) : State := if (quarters pa (uaLen op)).all moved.contains then f s else s
  match op with
  | .read _ => s
  | .write l => writeQuarters s 0 pa l moved
  | .atomic op wide v c => whole fun s => homeAtomic s 0 pa (if wide then 4 else 8) op v c
  | .update op wide v => whole fun s => homeAtomic s 0 pa (if wide then 4 else 8) op v 0
  | .cell im => whole fun s => homeMerge s 0 pa im

/-- Is a request one that is issued: whole within a line, atomics and cells aligned. -/
def uaOk (pa : Nat) (op : UaOp) : Bool :=
  1 ≤ uaLen op && pa % 128 + uaLen op ≤ 128 && (match op with
    | .atomic _ _ _ _ | .update _ _ _ => pa % uaLen op == 0
    | .cell im => im.length == 128
    | _ => true)

/-- UALINK_REQUEST (R370, R372): served by the partition that owns the port, under key identifier 0, that of aperture
pages (R222). An address in the other partition, or ERR (R211), gets a completer abort; a read or RMW of poison is
refused alike (R227). One that has no room in a book waits (R410), as does one that a quarter holds (R204; log 36). -/
def execUalinkRequest (port src pa : Nat) (op : UaOp) (s : State) : Host.Outcome State Fault Refusal :=
  let up := match s.uports[port]? with
    | some p => linkUp (linkCode p.st)
    | none => false
  let pa := pa % 2 ^ 39
  let n := uaLen op
  let reads := match op with
    | .read _ | .atomic _ _ _ _ => true
    | _ => false
  let log := pageLogged s pa
  let l := if log.isSome then agentPieces n pa n else []
  if !up || 512 ≤ src || src = s.podPos || !uaOk pa op then .next s
  else if s.part = .split && homeDie pa / 2 ≠ port / 9 then .next (uaReply s src none)
  else if bookFull s (homeDie pa) l.length then .next s
  else if reads && inError s pa n then .next (uaReply (findErrors s pa n) src none)
  else
    let x := driveW (flushAt s 0 pa n) 0 pa n 63 fun s q => uaEvent s q op
    if x.2.waits then .next x.1
    else if x.2.err then .next (uaReply x.1 src none)
    else
      let old := if reads then readRaw x.1 0 pa n else []
      let s1 := uaPerform x.1 pa op x.2.moved
      let s2 := if uaSilent op then s1 else uaReply s1 src (some old)
      .next (match log with
        | some c => l.foldl (fun s p => bookAccess s c p.1 p.2 (uaKind op).2 (dw (3 * 2 ^ 62 + src))) s2
        | none => s2)

end Sys2Proof.Machine
end

