-- ==== Sys2Proof/Machine/Health.lean ====
section
/-! DEFINITION. Health records, rehearsals, retirement and withdrawal of cores (R129, R396, R399 to R402). -/

namespace Sys2Proof.Machine

/-! Records (R402). -/

/-- The physical core that CORE names. -/
def recCore (r : QRec) : Nat :=
  let d := dwd r.dw 0
  bits d 15 14 * 40 + bits d 13 10 * 4 + bits d 9 8

/-- Well-formedness of REHEARSE and CORE_RETIRE: a bay up to 9, and a core of the queue's own partition. -/
def coreRecOk (s : State) (q : QRef) (r : QRec) : Bool :=
  let d := dwd r.dw 0
  zeroBits d [(63, 16)] && bits d 13 10 ≤ 9 && partOfDie s (bits d 15 14) == queuePart s q && zeroDwords r 1 6

/-- Is a physical core retired, or left unused at manufacture (R18). -/
def coreGone (s : State) (core : Nat) : Bool := (harvestMap s (core / 40)).testBit (core % 40)

/-- A write of a span by a queue agent, page by page, once every page of it can be written. -/
def engWriteSpan (s : State) (q : QRef) (c va : Nat) (data : List Byte) (die : Nat) : State × EngVal :=
  let ps := pieces va data.length
  let r := ps.foldl (fun (r : State × Option EngVal) p =>
    match r.2 with
    | some _ => r
    | none =>
      match engPage r.1 c p.1 true (queuePart s q) die with
      | (s, .ok t) => (s, if bookHolds s c t p.2.2 then some .wait else none)
      | (s, .wait) => (s, some .wait)
      | (s, .err e) => (s, some (.err e))) (s, none)
  match r with
  | (s, some v) => (s, v)
  | (s, none) =>
    ps.foldl (fun r p =>
      match r.2, walk r.1 c p.1 with
      | .ok _, some t =>
        match homeWriteNc r.1 t.key t.pa ((data.drop p.2.1).take p.2.2) with
        | (s, .waits) => (s, .wait)
        | (s, .err) => (s, .err errProt)
        | (s, .ok _) => (noteAgent s c t p.2.2 .write (queueAgent q), .ok [])
      | v, _ => (r.1, v)) (s, .ok [])

/-- The report of HEALTH_QUERY (R402). -/
def healthReport (s : State) (die : Nat) : List Byte :=
  let frames (k : Nat) : Nat := ((List.range 4).map fun i => lostFrames s (4 * k + i) * 2 ^ (16 * i)).sum
  let skipped := (s.skips.filter fun t => s.clock ≤ t + nsClocks dayNs).length
  let ports := ((List.range 18).map fun n => match s.uports[n]? with
    | some p => if p.st == .isolated then 2 ^ n else 0
    | none => 0).sum
  bytesOf ([dw (Health.code s.health + min 255 (warmWithin s dayNs) * 2 ^ 8 + min 65535 skipped * 2 ^ 16)]
    ++ (List.range 4).map (harvestReg s die) ++ [dw (frames 0), dw (frames 1), dw ports] ++ List.replicate 8 0)

/-- HEALTH_QUERY (R402). -/
def execHealthQuery (q : QRef) (s : State) : Host.Outcome State Fault Refusal :=
  let ok (r : QRec) : Bool :=
    zeroBits (dwd r.dw 0) [(63, 8)] && addrOk (dwd r.dw 1) && (dwd r.dw 1).toNat % 64 == 0 && zeroDwords r 2 6
  .next (withHead s q 0x60 (fun _ r => ok r) fun s r =>
    match engWriteSpan s q (queueCtx s q) (dwd r.dw 1).toNat (healthReport s (queueDie s q)) (queueDie s q) with
    | (s, .wait) => s
    | (s, .err e) => finishHead s q e 0
    | (s, .ok _) => finishHead s q 0 0)

/-- REHEARSAL_CFG (R402). -/
def execRehearsalCfg (q : QRef) (s : State) : Host.Outcome State Fault Refusal :=
  .next (withHead s q 0x63 (fun _ r => zeroBits (dwd r.dw 0) [(63, 9)] && zeroDwords r 1 6) fun s r =>
    finishHead { s with rehearseOn := bit (dwd r.dw 0) 8 } q 0 0)

/-! Rehearsals (R401). -/

/-- Pre-empts a cluster whose context's save area can hold all of its resident blocks (R174, R401 step 2). -/
def preemptCluster (s : State) (c clu : Nat) : State :=
  if (assignSlots s c (placedBlocks s c)).isSome then
    let l := (s.blocks.filter fun e => e.2.clu == clu && e.2.st == .placed).map Prod.fst
    match assignSlots s c l with
    | some s => l.foldl preemptBlock s
    | none => s
  else s

/-- Starts a rehearsal (R401): no block is placed on the core, and its clusters are pre-empted; a spare has none. -/
def beginRehearsal (s : State) (core : Nat) (who : Option QRef) : State :=
  let s := { s with rehearsing := aset s.rehearsing core ⟨who, s.clock⟩,
                    rehearseDue := aset s.rehearseDue core (s.clock + nsClocks dayNs),
                    rehearseLast := aset s.rehearseLast (core / 40) s.clock }
  let clus := ((s.blocks.filter fun e => e.2.core == core && e.2.st == .placed).map fun e => (e.2.ctx, e.2.clu)).eraseDups
  clus.foldl (fun s x => preemptCluster s x.1 x.2) s

/-- Ends a rehearsal: the core is returned, and the record that asked for it completes. -/
def endRehearsal (s : State) (core : Nat) (status : Nat) : State :=
  match aget s.rehearsing core with
  | none => s
  | some x =>
    let s := { s with rehearsing := adel s.rehearsing core }
    match x.who with
    | some q => finishHead s q status 0
    | none => s

/-- REHEARSE (R402): its record waits for the rehearsal, and for one of the same die that is in progress (R401). A core
that is gone is not free, and is skipped (log 30). -/
def execRehearse (q : QRef) (s : State) : Host.Outcome State Fault Refusal :=
  .next (withHead s q 0x61 (fun s r => coreRecOk s q r) fun s r =>
    if r.work = 1 then s
    else if coreGone s (recCore r) then finishHead s q 1 0
    else if s.rehearsing.any fun e => e.1 / 40 == recCore r / 40 then s
    else beginRehearsal (setWork s q 1) (recCore r) (some q))

/-- 36 min in ns. -/
abbrev spacingNs : Nat := 2160000000000

/-- REHEARSAL_START (R401): a scheduled one, 24 h after the core's last and 36 min after the die's last. -/
def execRehearsalStart (core : Nat) (s : State) : Host.Outcome State Fault Refusal :=
  let die := core / 40
  if !s.rehearseOn || 160 ≤ core || coreGone s core || (s.rehearsing.any fun e => e.1 / 40 == die) then .next s
  else
    let last := match aget s.rehearseLast die with
      | some t => t + nsClocks spacingNs
      | none => 0
    .next (beginRehearsal (s.upTo (max last (agetD s.rehearseDue core 0))) core none)

/-- 10 s in ns. -/
abbrev freeNs : Nat := 10000000000

/-- REHEARSAL_SKIP (R401): a core not free within 10 s is tried again 1 h later. -/
def execRehearsalSkip (core : Nat) (s : State) : Host.Outcome State Fault Refusal :=
  match aget s.rehearsing core with
  | none => .next s
  | some x =>
    if !coreBusy s core then .next s
    else
      let s := s.upTo (x.since + nsClocks freeNs)
      .next (endRehearsal { s with skips := s.skips ++ [s.clock],
                                   rehearseDue := aset s.rehearseDue core (s.clock + nsClocks hourNs) } core 1)

/-- SELF_TEST_COMPLETE (R401, R400): a core that fails is retired. -/
def execSelfTestComplete (core : Nat) (pass : Bool) (s : State) : Host.Outcome State Fault Refusal :=
  if ahas s.rehearsing core && !coreBusy s core then
    if pass then .next (endRehearsal s core 0)
    else .next (endRehearsal (drainCore s core) core 2)
  else .next s

/-- CORE_RETIRE (R402): the record completes when the core is retired. -/
def execCoreRetire (q : QRef) (s : State) : Host.Outcome State Fault Refusal :=
  .next (withHead s q 0x62 (fun s r => coreRecOk s q r) fun s r =>
    if coreGone s (recCore r) then finishHead s q (if r.work = 1 then 0 else 3) 0
    else
      let s := drainCore (setWork s q 1) (recCore r)
      if coreGone s (recCore r) then finishHead s q 0 0 else s)

/-! Withdrawal (R129, R168, R396). -/

/-- CLUSTER_LOST reaches a group of an aborted cluster (R396): on the withdrawn core, or saved, it halts at once. -/
def loseGroup (s : State) (k : Nat) (here : Bool) (v : Dword) : State :=
  match aget s.groups k with
  | none => s
  | some g =>
    if g.ended then s
    else if here || g.st == .saved then haltLost s k g v
    else raiseAt s k .clusterLost v g.pc

/-- CORE_WITHDRAWAL (R129, R396, R400): every cluster with a block on the core is aborted, and the core is retired. -/
def execCoreWithdrawal (core : Nat) (s : State) : Host.Outcome State Fault Refusal :=
  if 160 ≤ core || coreGone s core then .next s
  else
    let v := dw ((logOfCore s core).getD 255)
    let clus := ((s.blocks.filter fun e => e.2.core == core && e.2.st == .placed).map fun e => e.2.clu).eraseDups
    let mark (e : Nat × Cluster) : Nat × Cluster :=
      if clus.contains e.1 then (e.1, { e.2 with aborted := true }) else e
    let s : State := { s with clusters := s.clusters.map mark }
    let blks := (s.blocks.filter fun e => clus.contains e.2.clu).map fun e => (e.1, e.2.core == core && e.2.st == .placed)
    let s := blks.foldl (fun s b => (groupsOf s b.1).foldl (fun s g => loseGroup s g.1 b.2 v) s) s
    let s := endRehearsal s core 1
    .next (retireCore s core)

end Sys2Proof.Machine
end

