-- ==== Sys2Proof/Machine/Reset.lean ====
section
/-! DEFINITION. Resets, wipes and shutdown (R21, R25, R27, R79, R84, R96, R107, R131, R216, R239, R375, R398, R399,
R403). -/

namespace Sys2Proof.Machine

/-! Cold reset. -/

/-- The entries of retired frames (R222, R238). -/
def retiredEntries (l : List Nat) : AMap Frame := l.foldl (fun m id => aset m id Frame.retiredEntry) []

/-- Queue 0 of each port that presents windows (R96). -/
def queueZeros (s : State) : AMap HostQ :=
  (List.range 2).foldl (fun m p => if (partOfPort s p).isSome then aset m (p * 8192) HostQ.zero else m) []

/-- The memory that is not HBM: the host's, and that of other modules (R219). -/
def farMem (m : List Host.Cell) : List Host.Cell := m.filter fun c => 2 ^ 39 ≤ c.1 % 2 ^ 52

/-- The module with every SRAM and all HBM wiped and every key slot emptied (R403); what the management controller, the
fuses and the ports hold stays, as does memory outside the module. -/
def wipeAll (s : State) : State :=
  { State.reset with
    mem := farMem s.mem, failing := s.failing, clock := s.clock, era := s.era, freeCtr := s.freeCtr, turns := s.turns,
    rr := s.rr, flip := s.flip,
    nextId := s.nextId, frames := retiredEntries s.retiredFrames, part := s.part, partCfg := s.partCfg, fuse := s.fuse,
    queues := queueZeros s, retired := s.retired, retiredFrames := s.retiredFrames, ltp := s.ltp, life := s.life,
    firmware := s.firmware, fused := s.fused, keyHash := s.keyHash, identity := s.identity, log := s.log,
    answers := s.answers, uports := s.uports, pports := s.pports,
    drains := s.drains, uaOut := s.uaOut, podPos := s.podPos, reach := s.reach, lastLsu := s.lastLsu,
    lsuSeq := s.lsuSeq, lsuOut := s.lsuOut, collOut := s.collOut, health := s.health, warmAt := s.warmAt,
    rehearseOn := s.rehearseOn, ncOut := s.ncOut, podSplit := s.podSplit, unusable := s.unusable,
    postFailed := s.postFailed }

/-- The binding from the fuse map, and each retirement of the record replayed (R15 to R17). -/
def rebind (s : State) : State :=
  s.retired.foldl retireCoreMap { s with retired := [], ltp := bindAll s }

/-- COLD_RESET (R403): the partition mode set takes effect (R21), clocks and ports start again, and the health state is
the more severe of the kept one and what the record, the stacks that come up and the self-test call for (R399; log 38). -/
def execColdReset (s : State) : Host.Outcome State Fault Refusal :=
  let s1 := { s with part := s.partCfg }
  let s2 := { wipeAll s1 with
    clock := 0, era := s.era + s.clock, uports := State.reset.uports, pports := State.reset.pports, drains := [],
    reach := [], lastLsu := [], lsuSeq := 0, rehearseOn := true,
    warmAt := s.warmAt.drop (s.warmAt.length - 3) }
  .next (settleHealth (rebind s2))

/-! Shutdown and alerts (R25). -/

/-- A port without power. -/
def Port.off (p : Port) : Port := { p with st := .down, width := 0 }

/-- THERMAL_SHUTDOWN (R25): power leaves the dies and the HBM; nothing is left to run until a cold reset. -/
def execThermalShutdown (die : Nat) (s : State) : Host.Outcome State Fault Refusal :=
  if 4 ≤ die then .next s
  else
    .next { wipeAll s with
      queues := [], ctxs := [], keys := [], shut := true, uports := s.uports.map Port.off,
      pports := s.pports.map Port.off, log := s.log ++ [.shutdown die] }

/-- JUNCTION_WARNING (R25). -/
def execJunctionWarning (die : Nat) (s : State) : Host.Outcome State Fault Refusal :=
  if 4 ≤ die then .next s else .next { s with log := s.log ++ [.junction die] }

/-! Life cycle (R27). -/

/-- The transitions of R27. -/
def lifeNext : LifeCycle → LifeCycle → Bool
  | .manufacture, .provisioned => true
  | .provisioned, .deployed => true
  | .deployed, .returned => true
  | .returned, .provisioned => true
  | .returned, .decommissioned => true
  | _, _ => false

/-- LIFE_CYCLE_COMMAND (R27, R403). A refused one changes nothing but the management log, where it leaves an entry, of
which the manual does not speak (DESIGN CHOICE, log 65). Firmware defines context 0 and opens queue 0 after the wipe, as
after a reset (log 31); a module that is shut down stays so. -/
def execLifeCycleCommand (target : LifeCycle) (valid : Bool) (s : State) : Host.Outcome State Fault Refusal :=
  if valid && lifeNext s.life target then
    let w := wipeAll s
    let w := if s.shut then { w with queues := [], ctxs := [], keys := [], shut := true } else w
    .next { w with life := target }
  else .next { s with log := s.log ++ [.refused 1] }

/-! Warm reset (R398). -/

/-- Is a die attributed. -/
def attributed (dies : BitVec 4) (d : Nat) : Bool := d < 4 && dies.getLsbD d

/-- Has a context a frame on an attributed die. -/
def frameOn (s : State) (dies : BitVec 4) (c : Nat) : Bool :=
  s.frames.any fun e => e.2.ctx == c && e.2.st != .retired && attributed dies (e.1 / 2 ^ 21)

/-- Is a context touched (R398): a block, an endpoint queue, a dirty line or a buffered update on an attributed die.
What an L2 holds dirty is a free choice (log 29). -/
def touched (s : State) (dies : BitVec 4) (c : Nat) : Bool :=
  (s.blocks.any fun e => e.2.ctx == c && e.2.st == .placed && attributed dies (e.2.core / 40))
    || (s.eps.any fun e => e.1 / 64 == c && attributed dies e.2.die)
    || (s.dir.any fun e =>
        let pa := e.1 * 32 % 2 ^ 52
        e.2.dirty && attributed dies (homeDie pa) && ((aget s.frames (pa / 2 ^ 16)).map Frame.ctx) == some c)
    || (s.upd.any fun u => attributed dies (u.core / 40) && ((aget s.blocks (u.grp / 32)).map Block.ctx) == some c)
    || (frameOn s dies c && Config.freeDirty (s.freeCtr + c))

/-- Is a launch kept (R398): all its blocks that have been placed and not retired are saved, and there is one. -/
def keptLaunch (s : State) (k : Nat) : Bool :=
  let l := s.blocks.filter fun e => e.2.launch == k
  !l.isEmpty && l.all fun e => e.2.st == .saved

/-- The records of a queue after a warm reset that did not touch its owner (R107, R131): the record in progress and
every QUEUED launch complete ERR_ABORTED. DESIGN CHOICE (log 78): the queue that an aborted QUEUE_DESTROY had begun to
close stays closed, until another frees it. -/
def warmQueue (s : State) (q : QRef) : State :=
  let gone (r : QRec) : Bool := r.started.isSome || recType r == 1
  let l := queueRecs s q
  (l.filter gone).foldl (fun s r => completeRec s q r errAborted 0) (setRecs s q (l.filter fun r => !gone r))

/-- A touched context is freed, and its frames await their wipe (R84, R398). -/
def freeTouched (s : State) (c : Nat) : State :=
  let ids := (s.frames.filter fun e => e.2.ctx == c && e.2.st != .retired).map Prod.fst
  let s := freeContextPages (endKernels (abortRounds s c) c) c
  let s := { s with ctxs := adel s.ctxs c }
  (ids.filter fun id => frameFree s id).foldl (fun s id => { s with wiping := aset s.wiping id c }) s

/-- A page operation after a warm reset (R239): a migration aborts, and its page is RESIDENT, or POISONED still (R227). -/
def warmPage (s : State) (e : Nat × PageOp) : State :=
  match e.2 with
  | .migrate _ _ _ _ | .unmapAfter _ _ _ _ _ _ =>
    modPage { s with pageOps := adel s.pageOps e.1 } e.1 fun f =>
      { f with st := if f.st == .migrating then f.rest else f.st }
  | _ => s

/-- A context that the reset did not touch (R84): DEFINED, its kernels ended. -/
def warmCtx (x : Ctx) : Ctx := { x with st := .defined, why := .none, pins := [] }

/-- Endpoint queues lose their records with their engines (R107); one that registers of saved groups are bound to stays,
for a bind of the same slot to open again (R108, R109). -/
def keptEndpoints (s : State) : AMap EpQ :=
  s.eps.filterMap fun e =>
    let bound := (s.groups.map fun g =>
      if ((aget s.blocks g.2.blk).map Block.ctx) == some (e.1 / 64) then
        (g.2.qregs.filter fun x => x.2.slot == e.1 % 64).length
      else 0).sum
    if bound = 0 then none else some (e.1, { e.2 with recs := [], bound := bound })

/-- The sets of dies that an error is attributed to (R398): one, or all four. -/
def oneOrAll (dies : BitVec 4) : Bool := [1, 2, 4, 8, 15].contains dies.toNat

/-- WARM_RESET (R398), in one step: it has ended at `resetUntil`, within 40 ms, and landing writes until then are dropped. A
module that has been shut down resumes through a cold reset only (R25). -/
def execWarmReset (dies : BitVec 4) (s : State) : Host.Outcome State Fault Refusal :=
  if s.shut || !oneOrAll dies then .next s
  else
  let hit := (s.ctxs.map Prod.fst).filter fun c => touched s dies c
  let free0 := s.freeCtr
  -- step 2: updates buffered on other dies reach HBM, those on attributed dies are lost
  let s := flushUpd { s with freeCtr := free0 + 4096 } fun u => !attributed dies (u.core / 40)
  let s := { s with upd := [], latches := [] }
  -- launches: all but those with saved blocks only, of contexts not touched (R131, R398)
  let gone := s.launches.filter fun e => hit.contains e.2.ctx || !keptLaunch s e.1
  let s := gone.foldl (fun s e => abortLaunch s e.1 true) s
  -- endpoint queues are lost with their engines (R107)
  let s := s.eps.foldl (fun s e => haltEndpoint s (e.1 / 64) (e.1 % 64)) s
  let s := (hit.filter (· != 0)).foldl freeTouched s
  -- context 0: defined anew by firmware
  let s := if hit.contains 0 then
      let t := freeTouched s 0
      { t with ctxs := aset t.ctxs 0 Ctx.system }
    else s
  let s := (s.queues.map Prod.fst).foldl (fun s k => warmQueue s (.host (k / 8192) (k % 8192))) s
  let s := s.pageOps.foldl warmPage s
  let s := (s.queues.map Prod.fst).foldl (fun s k => forgetOps s (.host (k / 8192) (k % 8192))) s
  -- book registers and DROPS take their reset values too (R8), which frees the books' frames
  let s := { s with
    ctxs := s.ctxs.map fun e => if e.1 = 0 then e else (e.1, warmCtx e.2),
    rounds := s.rounds.map fun e => (e.1, { e.2 with
      completed := e.2.closed, reduced := e.2.closed, closedC := [],
      merged := [], fin := 0, todo := [], written := [], deliv := 0, acks := 0, acked := false, ending := none,
      due := none, left := 0, slots := [] }),
    dir := [], rmap := [], tables := [], rot := [], served := [], gangs := [], samples := [], lastBay := [], rehearsing := [],
    queues := (queueZeros s).foldl (fun m e => if ahas m e.1 then m else aset m e.1 e.2) s.queues,
    frames := s.books.foldl (fun m e => match e.2.held with
      | some (f, n) => (List.range n).foldl (fun m i => adel m (f + i)) m
      | none => m) s.frames,
    books := [], eps := keptEndpoints s, drops := [], softErrs := [], frameErrs := [], lineErrs := [],
    resetUntil := s.clock + (Config.freeDelay free0).toNat * 1525,
    warmAt := s.warmAt ++ [s.era + s.clock] }
  .next (settleCores (settleHealth s))

/-- FRAME_WIPE_COMPLETE (R398). -/
def execFrameWipeComplete (c : Nat) (s : State) : Host.Outcome State Fault Refusal :=
  .next { s with wiping := s.wiping.filter fun e => e.2 != c }

end Sys2Proof.Machine
end

