-- ==== Sys2Proof/Machine/Manage.lean ====
section
/-! DEFINITION. The management controller's commands and the book registers (R21, R26, R374, R404 to R407). -/

namespace Sys2Proof.Machine

/-! Commands. -/

/-- PARTITION_MODE_SET (R21): takes effect at cold reset. -/
def execPartitionModeSet (m : PartMode) (s : State) : Host.Outcome State Fault Refusal := .next { s with partCfg := m }

/-- FIRMWARE_UPDATE (R26, R404) of an image whose RSA-4096 signature over SHA-512 comes with a public key; `valid` says that
the signature verifies under that key. Refused unless it does, the key is the one whose hash the fuses hold, and the version
is not below the fused counter. The same check at a cold reset passes for every image that was accepted. The spec does not
say when an accepted image takes effect nor that a refusal is logged: here it is the running firmware at once, and a refusal
leaves an entry in the management log (log 65). -/
def execFirmwareUpdate (image version : Nat) (valid : Bool) (s : State) : Host.Outcome State Fault Refusal :=
  let key := Config.imageKey s.freeCtr image version
  let s := { s with freeCtr := s.freeCtr + 1 }
  if valid && key == s.keyHash && s.fused ≤ version then .next { s with firmware := aset s.firmware image version }
  else .next { s with log := s.log ++ [.refused 0] }

/-- PLDM_MONITORING (R26): sensor 0 stands for health, the others for temperatures and power (log 14). -/
def execPldmMonitoring (sensor : Nat) (s : State) : Host.Outcome State Fault Refusal :=
  let v := if sensor = 0 then dw (Health.code s.health) else Config.sensor s.freeCtr sensor
  .next { s with freeCtr := s.freeCtr + 1, answers := s.answers ++ [.pldm sensor v] }

/-- Codes by which measurement 4 reports (log 14). -/
def lifeCode : LifeCycle → Nat
  | .manufacture => 0 | .provisioned => 1 | .deployed => 2 | .returned => 3 | .decommissioned => 4

/-- The partition modes in the order of R21. -/
def partCode : PartMode → Nat
  | .whole0 => 0 | .whole1 => 1 | .split => 2

/-- The retirement record as one number, for its digest. -/
def recordNum (s : State) : Nat := (s.retired ++ s.retiredFrames.map (160 + ·)).foldl (fun n k => n * 2 ^ 24 + k + 1) 0

/-- A measurement (R404). -/
def measurement (s : State) : Nat → Option (BitVec 512)
  | 1 => some (Config.digest 1 (agetD s.firmware 1 0))
  | 2 => some (Config.digest 2 (agetD s.firmware 2 0))
  | 3 => some (Config.digest 3 (agetD s.firmware 3 0))
  | 4 => some (BitVec.ofNat 512 (lifeCode s.life + partCode s.part * 2 ^ 8 + Health.code s.health * 2 ^ 16))
  | 5 => some (Config.digest 5 (recordNum s))
  | _ => none

/-- SPDM_MEASUREMENTS (R26, R404): signed by the identity key; another index leaves a refused entry in the log (log 65). -/
def execSpdmMeasurements (index : Nat) (s : State) : Host.Outcome State Fault Refusal :=
  match measurement s index with
  | some v => .next { s with answers := s.answers ++ [.measure index v (Config.identityKey s.identity)
      (Config.certificate s.identity) (Config.signature s.identity index v)] }
  | none => .next { s with log := s.log ++ [.refused 2] }

/-! Book registers (R405 to R407). -/

/-- Frees the frames a book holds (R405). -/
def bookRelease (s : State) (die : Nat) : State :=
  let b := bookOf s die
  match b.held with
  | some (f, n) =>
    setBook { s with frames := (List.range n).foldl (fun m i => adel m (f + i)) s.frames } die { b with held := none }
  | none => s

/-- ARM = 1 (R405): a book that is armed already stays as it is. -/
def armBook (s : State) (die : Nat) : State :=
  if 4 ≤ die || (bookOf s die).arm then s
  else
    let s := bookRelease s die
    let b := bookOf s die
    let ids := (List.range b.pages).map (b.base + ·)
    let ok := 1 ≤ b.pages && b.pages ≤ 16384 && b.base / 2 ^ 21 == die && (b.base + b.pages - 1) / 2 ^ 21 == die
      && ids.all (frameFree s)
    if ok then
      let s := { s with frames := ids.foldl (fun m id => aset m id Frame.retiredEntry) s.frames }
      setBook s die { b with arm := true, aerr := false, sealed := false, held := some (b.base, b.pages), head := 0,
                             tail := 0 }
    else setBook s die { b with arm := false, aerr := true }

/-- ARM = 0 (R405). -/
def disarmBook (s : State) (die : Nat) : State :=
  let s := bookRelease s die
  setBook s die { bookOf s die with arm := false }

/-- SEAL = 1 (R407): of an armed book. -/
def sealBook (s : State) (die : Nat) : State :=
  let b := bookOf s die
  if !b.arm then s
  else
    let s := bookPut s die 5 0 (dw b.count) 0
    setBook s die { bookOf s die with arm := false, sealed := true }

/-- A write to TAIL (R405). -/
def tailBook (s : State) (die : Nat) (v : Dword) : State :=
  let b := bookOf s die
  if v.toNat % 32 = 0 && b.tail ≤ v.toNat && v.toNat ≤ b.head then setBook s die { b with tail := v.toNat } else s

/-- BOOK_ARM. -/
def execBookArm (die : Nat) (s : State) : Host.Outcome State Fault Refusal := .next (armBook s die)

/-- BOOK_DISARM. -/
def execBookDisarm (die : Nat) (s : State) : Host.Outcome State Fault Refusal := .next (disarmBook s die)

/-- BOOK_SEAL. -/
def execBookSeal (die : Nat) (s : State) : Host.Outcome State Fault Refusal := .next (sealBook s die)

/-- BOOK_TAIL_WRITE. -/
def execBookTailWrite (die : Nat) (v : Dword) (s : State) : Host.Outcome State Fault Refusal := .next (tailBook s die v)

/-- REGISTER_WRITE (R8, R374, R405): a write to BAR0 of a management function. A book register of a die that the port
does not own ignores it, as every RO register does. A write of BCTL with SEAL = 1 seals the book, and has no effect on
one that is not armed (R407); one with SEAL = 0 counts by its ARM bit. -/
def execRegisterWrite (port off : Nat) (v : Dword) (s : State) : Host.Outcome State Fault Refusal :=
  let die := (off - 0x3000) / 0x40
  if off < 0x3000 || 0x3100 ≤ off || partOfPort s port ≠ some (partOfDie s die) then .next s
  else
    let b := bookOf s die
    match (off - 0x3000) % 0x40 with
    | 0x00 =>
      .next (if bit v 1 then sealBook s die else if bit v 0 then armBook s die else disarmBook s die)
    | 0x08 => .next (if b.arm then s else setBook s die { b with base := bits v 51 16 })
    | 0x10 => .next (if b.arm then s else setBook s die { b with pages := bits v 14 0 })
    | 0x20 => .next (tailBook s die v)
    | _ => .next s

/-! Reads of BAR0 (R8, R21, R374, R405). -/

/-- LSTAT of a port. -/
def lstat (p : Port) : Dword :=
  dw (linkCode p.st * 2 ^ 61 + p.width * 2 ^ 58 + b2n p.swr * 2 ^ 57 + p.retrains * 2 ^ 32 + p.lseq % 2 ^ 32)

/-- PLANES of a pod position, as the management function of a port presents it: the planes of its partition (R372). -/
def planesReg (s : State) (port pos : Nat) : Dword :=
  dw (((planesTo s ((partOfPort s port).getD 0) pos).map (2 ^ ·)).sum)

/-- A book register at an offset from the die's first (R405): SEAL is write-only and reads 0 (R8). -/
def bookReg (b : Book) : Nat → Dword
  | 0x00 => dw (b2n b.aerr * 8 + b2n b.sealed * 4 + b2n b.arm)
  | 0x08 => dw (b.base * 65536)
  | 0x10 => dw b.pages
  | 0x18 => dw b.head
  | 0x20 => dw b.tail
  | _ => 0

/-- What an aligned 8-byte read of BAR0 of a port's management function returns (R374, R405): 0 where no register lies
(log 65). A book register of a die that the port does not own reads 0. It has no side effect. -/
def barRead (s : State) (port off : Nat) : Dword :=
  if off % 8 ≠ 0 then 0
  else if 0x1000 ≤ off && off < 0x1090 then ((s.uports[(off - 0x1000) / 8]?).map lstat).getD 0
  else if 0x1100 ≤ off && off < 0x1110 then ((s.pports[(off - 0x1100) / 8]?).map lstat).getD 0
  else if 0x2000 ≤ off && off < 0x3000 then planesReg s port ((off - 0x2000) / 8)
  else if 0x3000 ≤ off && off < 0x3100 && partOfPort s port = some (partOfDie s ((off - 0x3000) / 0x40)) then
    bookReg (bookOf s ((off - 0x3000) / 0x40)) ((off - 0x3000) % 0x40)
  else 0

end Sys2Proof.Machine
end

