-- ==== Sys2Proof/Machine/Issue.lean ====
section
/-! DEFINITION. Choosing a group (R154, R274), scheduler records (R408 to R410), and fetching its instruction (R242,
R250). -/

namespace Sys2Proof.Machine

/-! The scheduler of a quadrant (R154). -/

/-- May a group issue: not BLOCKED, saved or ended. -/
def Group.issues (g : Group) : Bool := g.st == .running || g.st == .saving || g.st == .restoring

/-- Does the fetch at a PC wait for the way to its page: traffic is held while a link retrains or a drain lasts (R375,
R377). -/
def codeHeld (s : State) (b : Block) (pc : Dword) : Bool :=
  match walk s b.ctx pc.toNat with
  | some t => t.held s b.core .load
  | none => false

/-- Is a group ready at its scheduler: it may issue, its YIELD is past (R274), and its next instruction can be fetched. -/
def readyGroup (s : State) (g : Group) : Bool :=
  g.issues && (match g.yieldAt with
    | some t => t + 1 < s.clock
    | none => true)
    && (match aget s.blocks g.blk with
      | some b => b.st == .placed && (g.held.isSome || !codeHeld s b g.pc)
      | none => false)

/-- URG as the scheduler takes it: 0 for the communication group (R389). -/
def schedUrg (s : State) (g : Group) : Nat :=
  match aget s.blocks g.blk with
  | some b => if (headerOf s b.launch).comm = some g.idx then 0 else g.urg
  | none => g.urg

/-- The quadrant of a group: core × 4 + quadrant. -/
def quadOf (s : State) (g : Group) : Nat := ((aget s.blocks g.blk).map Block.core).getD 0 * 4 + g.quad

/-- Ready groups of a quadrant. -/
def readyIn (s : State) (q : Nat) : List (Nat × Group) := s.groups.filter fun e => readyGroup s e.2 && quadOf s e.2 == q

/-- Clocks since a group's last issue or entry into RUNNING. -/
def ageOf (s : State) (g : Group) : Nat := s.clock - g.lastIssue

/-- Distance of a group's slot from the quadrant's rotation pointer. -/
def slotAfter (ptr slot : Nat) : Nat := (slot + 64 - ptr % 64) % 64

/-- The one of equally placed groups whose slot is the lowest at or after the rotation pointer (R154): reason 2, or the
reason given where there is no tie. -/
def breakTie (ptr reason : Nat) : List (Nat × Group) → Option (Nat × Nat)
  | [] => none
  | [x] => some (x.1, reason)
  | x :: y =>
    let near (a b : Nat × Group) : Nat × Group := if slotAfter ptr b.2.slot < slotAfter ptr a.2.slot then b else a
    some ((y.foldl near x).1, 2)

/-- Is a group aged (R154). -/
def agedGroup (s : State) (g : Group) : Bool := 64 ≤ ageOf s g

/-- The choice among ready groups (R154), with its reason: 0 aged, 1 urgency, 2 tie. -/
def schedPick (s : State) (q : Nat) (l : List (Nat × Group)) : Option (Nat × Nat) :=
  let ptr := agetD s.rot q 0
  let aged := l.filter fun e => agedGroup s e.2
  if aged.isEmpty then
    let least := l.foldl (fun m x => min m (schedUrg s x.2)) (2 ^ 20)
    breakTie ptr 1 (l.filter fun x => schedUrg s x.2 == least)
  else
    let most := aged.foldl (fun m x => max m (ageOf s x.2)) 0
    breakTie ptr 0 (aged.filter fun x => ageOf s x.2 == most)

/-- The groups of a quadrant that its scheduler chooses from: one that waits at its instruction stands back. -/
def candidates (s : State) (q : Nat) : List (Nat × Group) := (readyIn s q).filter fun e => !e.2.stalled

/-- Quadrants that have a ready group. -/
def readyQuads (s : State) : List Nat :=
  ((s.groups.filter fun e => readyGroup s e.2).map fun e => quadOf s e.2).eraseDups

/-- The next group to issue, at turn n: quadrants in turn; a group that waits at its instruction without being BLOCKED
stands back, at every second turn, while another is ready. -/
def nextGroup (s : State) (n : Nat) : Option Nat :=
  let qs := readyQuads s
  match qs[n % max 1 qs.length]? with
  | none => none
  | some q =>
    let free := candidates s q
    let waits := (readyIn s q).filter fun e => e.2.stalled
    let l := if free.isEmpty || (n / max 1 qs.length % 2 = 1 && !waits.isEmpty) then waits else free
    (schedPick s q l).map Prod.fst

/-! Records of issues (R409, R410). -/

/-- Why a group is issued (R408), among those its scheduler chooses from. Where a prescribed turn issues a group that it
would not choose, the record says of that group whether it was aged (log 1). -/
def schedReason (s : State) (k q : Nat) (g : Group) : Nat :=
  match schedPick s q (candidates s q) with
  | some (n, r) => if n = k then r else if agedGroup s g then 0 else 1
  | none => if agedGroup s g then 0 else 1

/-- The scheduler's bookkeeping of an issue: the rotation pointer after a tie, and the quadrant's issue count. -/
def noteIssue (s : State) (k : Nat) (g : Group) (q reason : Nat) : State :=
  let s := { s with samples := aset s.samples q (agetD s.samples q 0 + 1),
                    groups := amod s.groups k fun g => { g with yieldAt := none } }
  if reason = 2 then { s with rot := aset s.rot q ((g.slot + 1) % 64) } else s

/-- Is an issue recorded (R409): SCHED = 2 every one, SCHED = 1 the first of each run of 2^SRATE in the quadrant. -/
def issueLogged (s : State) (b : Block) (g : Group) (q : Nat) : Bool :=
  let x := ctxOf s b.ctx
  !g.inh && (x.sched == 2 || (x.sched == 1 && agetD s.samples q 0 % 2 ^ x.srate == 0))

/-- Issues a group: the record of the choice, or BOOK_FULL where the book has no room for it (R410). The instruction that
BOOK_FULL forestalls is not performed and does not count toward a guard span that is open (R142; the manual does not say:
DESIGN CHOICE; log 74). -/
def issueRecord (s : State) (k : Nat) (g : Group) (b : Block) : State × Bool :=
  let q := quadOf s g
  let reason := schedReason s k q g
  let die := b.core / 40
  if issueLogged s b g q then
    if bookFull s die 1 then (raiseAt s k .bookFull (dw (2 * 16 + die)) g.pc, false)
    else
      let d2 := dw (schedUrg s g * 2 ^ 16 + reason * 2 ^ 14 + g.slot * 2 ^ 10 + g.quad * 2 ^ 8 + b.lcore)
      (noteIssue (bookPut s die 2 b.ctx d2 (dw s.clock)) k g q reason, true)
  else (noteIssue s k g q reason, true)

/-! Fetch (R242). -/

/-- What a fetch gives. -/
inductive Fetched where
  | word (s : State) (w : BitVec 32)
  | bad (s : State) (t : Trap) (v : Dword)
deriving DecidableEq, Repr

/-- The words at an address that groups of a launch may fetch beside the current one: those overwritten since the launch
started (R192). -/
def oldWords (s : State) (launch : Nat) (t : Tr) : List (BitVec 32) :=
  ((agetD s.stale (memKey t.key t.pa / 4) []).filter fun e => e.launches.contains launch).map StaleWord.word

/-- The word that a fetch finds (R192): where the code was written since the launch started, the old or the new one. -/
def codeWord (s : State) (b : Block) (t : Tr) : State × BitVec 32 :=
  let now := bytesWord (readRaw s t.key t.pa 4)
  match oldWords s b.launch t with
  | [] => (s, now)
  | w :: r =>
    let l := now :: w :: r
    ({ s with freeCtr := s.freeCtr + 1 }, (l[Config.freeFetch s.freeCtr % l.length]?).getD now)

/-- Fetches the word at a group's PC, with execute permission (R218, R227, R229, R242). -/
def fetchWord (s : State) (b : Block) (pc : Dword) : Fetched :=
  if bits pc 63 56 ≠ 0 then .bad s .protection pc
  else
    match walk s b.ctx pc.toNat with
    | none => .bad s .pageAbsent pc
    | some t =>
      if t.perm &&& permX = 0 then .bad s .protection pc
      else if !keyLoaded s t.key then .bad s .key pc
      else if t.absentFor false then .bad s .pageAbsent pc
      else
        match lateChk s b.core .load 4 pc t with
        | some (_, tr, v) => .bad (if tr == .poison then findErrors s t.pa 4 else s) tr v
        | none =>
          let x := codeWord s b t
          .word x.1 x.2

/-! What moves next. -/

/-- What a turn comes to: a meaning to run, or a state with nothing to run. -/
inductive Prep where
  | run (s : State) (i : Instr)
  | idle (s : State)
deriving DecidableEq, Repr

/-- A group's turn: a wait that is over or an instruction held is executed again; else the word at PC is fetched and
decoded, and one that does not decode is ILLEGAL_INSTRUCTION (R250). -/
def prepareIssue (s : State) (k : Nat) : Prep :=
  match aget s.groups k with
  | none => .idle s
  | some g =>
    match aget s.blocks g.blk with
    | none => .idle s
    | some b =>
      if !readyGroup s g then .idle s
      else
        let s := { s with cur := k }
        match g.wait, g.held with
        | some (i, _), _ => .run s i
        | none, some i => .run s i
        | none, none =>
          match issueRecord s k g b with
          | (s, false) => .idle s
          | (s, true) =>
            match fetchWord s b g.pc with
            | .bad s t v => .idle (raiseFault s k t v g.pc)
            | .word s w =>
              match decodeWord w with
              | .ok i => .run s i
              | .error _ => .idle (raiseFault s k .illegal (dw w.toNat) g.pc)

/-- Prepares a turn. -/
def prepare (s : State) : Turn → Prep
  | .event i => .run s i
  | .issue k => prepareIssue s k

end Sys2Proof.Machine
end

