-- ==== Sys2Proof/Machine/Settle.lean ====
section
/-! DEFINITION. What follows a step at once: event writes, records that wait for the machine, rejected and fence heads,
ends of waits, pre-emptions, saves, tables, launches and rounds (R87, R90, R100, R102, R111, R159, R384). -/

namespace Sys2Proof.Machine

/-- Finishes a command at a queue's head that waits for what it began (R84, R87, R107, R402). -/
def finishCommand (s : State) (q : QRef) : State :=
  match queueRecs s q with
  | [] => s
  | r :: _ =>
    if r.started.isNone || r.work = 0 || !isSystem s q then s
    else
      match recType r with
      | 0x22 => endSuspend s q (cmdId r)
      | 0x24 => if ahas s.ctxs (cmdId r) then s else finishHead s q 0 0
      | 0x26 => if ahas s.keys (cmdId r) then s else finishHead s q 0 0
      | 0x31 => finishAdmin s q
      | 0x32 => finishAdmin s q
      | 0x62 => if coreGone s (recCore r) then finishHead s q 0 0 else s
      | _ => s

/-- Is the wait of a BLOCKED group over (R159, R164, R172, R332, R335, R411); a wait on memory or for a time ends by an
event. -/
def waitOver (s : State) (g : Group) (b : Block) (i : Instr) : Wait → Bool
  | .bar false id => (namedBar b id).done g.idx
  | .bar true id => (clusterBar s b.clu id).done (b.rank * 32 + g.idx)
  | .batch => (match i with
    | .bwait _ a => !(g.batches.any fun x => serialLe x.num (bits (g.readS a) 31 0) && x.left != 0)
    | _ => true)
  | .queue => (match i with
    | .qpop _ q => (aget g.qregs q).all fun x => !x.done.isEmpty || x.outstanding == 0
    | .qdrain _ q => (aget g.qregs q).all fun x => x.outstanding ≤ x.collected
    | _ => true)
  | .grant => granted s b g
  | .latch | .mem _ _ | .sleep _ => false

/-- Wakes a group whose wait is over: it issues its instruction again, which completes. -/
def wakeGroup (s : State) (k : Nat) : State :=
  match aget s.groups k with
  | none => s
  | some g =>
    match aget s.blocks g.blk, g.wait with
    | some b, some (i, w) =>
      if g.st == .blocked && waitOver s g b i w then setGroup s k { g with st := g.awake, lastIssue := s.clock } else s
    | _, _ => s

/-- Takes the groups of blocks that are being pre-empted and stand where they can be taken (R90). -/
def takePending (s : State) : State :=
  if s.blocks.any fun e => e.2.pre.isSome then
    s.groups.foldl (fun s e => if preemptPending s e.2 then takeGroup s e.1 else s) s
  else s

/-- Endpoint queues with no binding and no record end (R108). -/
def dropEndpoints (s : State) : State :=
  { s with eps := s.eps.filter fun e => !(e.2.bound == 0 && e.2.recs.isEmpty) }

/-! What waited for the machine. -/

/-- Merges the buffered updates that were due while traffic to their home was held, or while they had to wait at a quarter
(R178, R204, R375, R377). -/
def flushDue (s : State) : State := if s.upd.any Upd.due then flushUpd s Upd.due else s

/-- Raises REMOTE_LOSS for updates that a lost peer did not receive, at their groups' next instruction boundary (R313,
R377); one whose group has ended has nobody to tell. -/
def raiseLost (s : State) : State :=
  s.lostUpd.foldl (fun s x =>
    match aget s.groups x.1 with
    | none => s
    | some g =>
      if g.ended then s
      else if g.issues && g.held.isNone then raiseAt s x.1 .remoteLoss (dw x.2) g.pc
      else { s with lostUpd := s.lostUpd ++ [x] }) { s with lostUpd := [] }

/-- Raises NOPRE_LIMIT in groups whose window ran out while they were saved, at the first instruction boundary after their
restore (R275). -/
def raiseLimits (s : State) : State :=
  s.groups.foldl (fun s e =>
    if e.2.limitDue && e.2.issues then
      raiseAt (modGroup s e.1 fun g => { g with limitDue := false }) e.1 .nopreLimit 0 e.2.pc
    else s) s

/-- Retires the blocks whose end waited for an update or for a book (R375, R410). -/
def retireBlocks (s : State) : State :=
  s.blocks.foldl (fun s e =>
    if e.2.st == .placed && ahas s.groups (e.1 * 32) && blockQuiet s e.1 then settleBlock s e.1 else s) s

/-- Performs the unmaps that waited for the way to a copy's target or to a page's home (R225, R235, R375). -/
def retryUnmaps (s : State) : State :=
  s.pageOps.foldl (fun s e =>
    match e.2 with
    | .deferUnmap _ _ =>
      if 2 ^ 23 ≤ e.1 then apertFree s (e.1 - 2 ^ 23)
      else if ((aget s.frames e.1).map Frame.rcnt) = some 0 then rcntZero s e.1
      else s
    | _ => s) s

/-! Code that is overwritten (R192). -/

/-- Addresses at which two memories in canonical form differ, in rising order. -/
def changedBytes : Nat → List Host.Cell → List Host.Cell → List Nat
  | 0, _, _ => []
  | _ + 1, [], m => m.map Prod.fst
  | _ + 1, l, [] => l.map Prod.fst
  | n + 1, (a, v) :: l, (b, w) :: m =>
    if a < b then a :: changedBytes n l ((b, w) :: m)
    else if b < a then b :: changedBytes n ((a, v) :: l) m
    else if v = w then changedBytes n l m
    else a :: changedBytes n l m

/-- May an address hold code: in a page with execute permission, or in the memory of the host or of another module. What has
not been executable has never been fetched. -/
def mayHoldCode (s : State) (pa : Nat) : Bool :=
  if pa < 2 ^ 39 then (aget s.frames (pa / 2 ^ 16)).any fun f => f.perm &&& permX != 0 else true

/-- The word that a memory holds at four times a key. -/
def wordOf (m : AMap Byte) (k : Nat) : BitVec 32 := bytesWord ((List.range 4).map fun i => agetD m (4 * k + i) 0)

/-- The launches whose groups may run: those whose record has started (R125). -/
def startedLaunches (s : State) : List Nat := (s.launches.filter fun e => e.2.st != .waiting).map Prod.fst

/-- Has the group that overwrote a word released it since, or ended (R183, R192). -/
def StaleWord.released (x : StaleWord) (s : State) : Bool :=
  x.by_.all fun w => (aget s.groups w.1).all fun g => g.ended || decide (w.2 < g.relAt)

/-- A word overwritten before a step, as it stands after it: the launches that start in it may fetch it still unless its
write was released first (R192). -/
def StaleWord.carry (x : StaleWord) (old new : State) : StaleWord :=
  let run := startedLaunches new
  let begun := run.filter fun k => !(startedLaunches old).contains k
  if x.released new then { x with by_ := none, launches := x.launches.filter run.contains }
  else { x with launches := (x.launches.filter run.contains) ++ begun }

/-- Notes the words of code that a step has overwritten, with the group that did so and the launches that had started; what no
launch can fetch any more is dropped (R192; log 46). -/
def noteStale (old new : State) : State :=
  let ks := ((changedBytes (old.mem.length + new.mem.length) old.mem new.mem).map (· / 4)).eraseDups
  let by_ := if (aget new.groups new.cur).any fun g => g.lastIssue == new.clock then some (new.cur, new.clock) else none
  let m := new.stale.map fun e => (e.1, e.2.map fun x => x.carry old new)
  let m := (ks.filter fun k => mayHoldCode old (4 * k % 2 ^ 52)).foldl (fun m k =>
    let w := wordOf old.mem k
    aset m k (⟨w, by_, startedLaunches new⟩ :: (agetD m k []).filter fun x => x.word != w)) m
  { new with stale := (m.map fun e => (e.1, e.2.filter fun x => x.by_.isSome || !x.launches.isEmpty)).filter fun e =>
      !e.2.isEmpty }

/-- A retired frame changes the module's health at once, whichever way it came to be retired (R238, R394, R399). -/
def settleFrames (s : State) : State := if s.retiredFrames.isEmpty then s else settleHealth s

/-- What follows every step. -/
def settle (s : State) : State :=
  let s := settleFrames (retryUnmaps (retireBlocks (raiseLimits (raiseLost (flushDue (settleEcc s))))))
  let s := deliverLate (if s.evq.isEmpty then s else retryEvents s)
  let s := (allQueues s).foldl (fun s q => rejectHead (finishCommand s q) q) s
  let s := dropEndpoints (passFences s)
  let s := settleLatches (settleRounds s)
  let s := s.groups.foldl (fun s e => if e.2.st == .blocked then wakeGroup s e.1 else s) s
  let s := takePending s
  let s := (s.ctxs.filter fun e => e.2.st == .saving).foldl (fun s e => contextSaved s e.1) s
  noteWatch (settleLaunches s)

end Sys2Proof.Machine
end

