-- ==== Sys2Proof/Machine/Agenda.lean ====
section
/-! DEFINITION. What the machine does next when no turn is prescribed: its own events that are enabled, its timers, and
the groups' instructions (log 1). Inputs from outside come as prescribed turns only. -/

namespace Sys2Proof.Machine

/-- The events that the machine raises itself, with the operands of the table's rows of the same names. Each has the
meaning that `exec` gives its row: `runAuto` calls the same definition. -/
inductive Auto where
  | blockSave (b : Nat)
  | clusterPlacement (part : Nat)
  | cohCheck (q : QRef)
  | cohLoad (q : QRef)
  | collectiveClose (q : QRef)
  | contextIdleRelease (c : Nat)
  | contextLoad (c : Nat)
  | contextLoadComplete (c : Nat)
  | contextWipeComplete (c : Nat)
  | copy (q : QRef)
  | coreRetire (q : QRef)
  | ctxDefine (q : QRef)
  | ctxDestroy (q : QRef)
  | ctxResume (q : QRef)
  | ctxSuspend (q : QRef)
  | ctxUpdate (q : QRef)
  | deadRetry (port : Nat)
  | drainRoundEnd (port : Nat)
  | ecpyRecord (q : QRef)
  | efillRecord (q : QRef)
  | egathRecord (q : QRef)
  | emigRecord (q : QRef)
  | ercpyRecord (q : QRef)
  | escatRecord (q : QRef)
  | frameRetire (q : QRef)
  | frameWipeComplete (c : Nat)
  | healthQuery (q : QRef)
  | iack (r : CohReq)
  | fack (r : CohReq)
  | keyInstall (q : QRef)
  | keyRetire (q : QRef)
  | keyRetireComplete (slot : Nat)
  | launchRecord (q : QRef)
  | leaveWaiting (l : Nat)
  | migrationComplete (frame : Nat) (res : MigEnd)
  | nopreTimeout (g : Nat)
  | pageAttr (q : QRef)
  | pageBack (q : QRef)
  | pageFillComplete (frame : Nat) (ok : Bool)
  | pageMap (q : QRef)
  | pageUnmap (q : QRef)
  | placementStarvation (l : Nat)
  | postedWriteAcknowledgement (peer : Nat)
  | preemptFallback (g : Nat)
  | queueCreate (q : QRef)
  | queueDestroy (q : QRef)
  | queueReset (q : QRef)
  | rehearsalCfg (q : QRef)
  | rehearsalSkip (core : Nat)
  | rehearsalStart (core : Nat)
  | rehearse (q : QRef)
  | retrainTimeout (port : Nat)
  | rmapSet (q : QRef)
  | roundTimeout (c e : Nat)
  | selfTestComplete (core : Nat) (pass : Bool)
  | signal (q : QRef)
  | sleepExpiry (g : Nat)
  | slotRelease (c e loc : Nat)
  | systemFenceTimeout (g : Nat)
  | trainingTimeout (port : Nat)
  | wait (q : QRef)
  | waitMet (q : QRef)
  | waitTimeout (q : QRef)
  | waitmMet (g : Nat)
  | waitmTimeout (g : Nat)
deriving DecidableEq, Repr

/-- Runs an event. -/
def runAuto (a : Auto) (s : State) : Host.Outcome State Fault Refusal :=
  match a with
  | .blockSave b => execBlockSave b s
  | .clusterPlacement part => execClusterPlacement part s
  | .cohCheck q => execCohCheck q s
  | .cohLoad q => execCohLoad q s
  | .collectiveClose q => execCollectiveClose q s
  | .contextIdleRelease c => execContextIdleRelease c s
  | .contextLoad c => execContextLoad c s
  | .contextLoadComplete c => execContextLoadComplete c s
  | .contextWipeComplete c => execContextWipeComplete c s
  | .copy q => execCopy q s
  | .coreRetire q => execCoreRetire q s
  | .ctxDefine q => execCtxDefine q s
  | .ctxDestroy q => execCtxDestroy q s
  | .ctxResume q => execCtxResume q s
  | .ctxSuspend q => execCtxSuspend q s
  | .ctxUpdate q => execCtxUpdate q s
  | .deadRetry port => execDeadRetry port s
  | .drainRoundEnd port => execDrainRoundEnd port s
  | .ecpyRecord q => execEcpyRecord q s
  | .efillRecord q => execEfillRecord q s
  | .egathRecord q => execEgathRecord q s
  | .emigRecord q => execEmigRecord q s
  | .ercpyRecord q => execErcpyRecord q s
  | .escatRecord q => execEscatRecord q s
  | .frameRetire q => execFrameRetire q s
  | .frameWipeComplete c => execFrameWipeComplete c s
  | .healthQuery q => execHealthQuery q s
  | .iack r => execIack r s
  | .fack r => execFack r s
  | .keyInstall q => execKeyInstall q s
  | .keyRetire q => execKeyRetire q s
  | .keyRetireComplete slot => execKeyRetireComplete slot s
  | .launchRecord q => execLaunchRecord q s
  | .leaveWaiting l => execLeaveWaiting l s
  | .migrationComplete frame res => execMigrationComplete frame res s
  | .nopreTimeout g => execNopreTimeout g s
  | .pageAttr q => execPageAttr q s
  | .pageBack q => execPageBack q s
  | .pageFillComplete frame ok => execPageFillComplete frame ok s
  | .pageMap q => execPageMap q s
  | .pageUnmap q => execPageUnmap q s
  | .placementStarvation l => execPlacementStarvation l s
  | .postedWriteAcknowledgement peer => execPostedWriteAcknowledgement peer s
  | .preemptFallback g => execPreemptFallback g s
  | .queueCreate q => execQueueCreate q s
  | .queueDestroy q => execQueueDestroy q s
  | .queueReset q => execQueueReset q s
  | .rehearsalCfg q => execRehearsalCfg q s
  | .rehearsalSkip core => execRehearsalSkip core s
  | .rehearsalStart core => execRehearsalStart core s
  | .rehearse q => execRehearse q s
  | .retrainTimeout port => execRetrainTimeout port s
  | .rmapSet q => execRmapSet q s
  | .roundTimeout c e => execRoundTimeout c e s
  | .selfTestComplete core pass => execSelfTestComplete core pass s
  | .signal q => execSignal q s
  | .sleepExpiry g => execSleepExpiry g s
  | .slotRelease c e loc => execSlotRelease c e loc s
  | .systemFenceTimeout g => execSystemFenceTimeout g s
  | .trainingTimeout port => execTrainingTimeout port s
  | .wait q => execWait q s
  | .waitMet q => execWaitMet q s
  | .waitTimeout q => execWaitTimeout q s
  | .waitmMet g => execWaitmMet g s
  | .waitmTimeout g => execWaitmTimeout g s

/-! Heads of queues. -/

/-- The event that performs the record at the head of a queue. -/
def headEvent (s : State) (q : QRef) : Option Auto :=
  match queueRecs s q with
  | [] => none
  | r :: _ =>
    if !startable s q then none
    else
      match recType r with
      | 0x01 => if r.started.isNone then some (.launchRecord q) else none
      | 0x02 => some (if r.started.isNone then .wait q else .waitMet q)
      | 0x03 => (match closeOf s q r with
        | some _ => if r.work = 0 then some (.collectiveClose q) else none
        | none => some (.signal q))
      | 0x04 => some (.copy q)
      | 0x10 => some (.ecpyRecord q)
      | 0x11 => some (.egathRecord q)
      | 0x12 => some (.escatRecord q)
      | 0x13 => some (.ercpyRecord q)
      | 0x14 => some (.efillRecord q)
      | 0x15 => some (.emigRecord q)
      | 0x20 => some (.ctxDefine q)
      | 0x21 => some (.ctxUpdate q)
      | 0x22 => some (.ctxSuspend q)
      | 0x23 => some (.ctxResume q)
      | 0x24 => some (.ctxDestroy q)
      | 0x25 => some (.keyInstall q)
      | 0x26 => some (.keyRetire q)
      | 0x30 => some (.queueCreate q)
      | 0x31 => some (.queueReset q)
      | 0x32 => some (.queueDestroy q)
      | 0x40 => some (.cohCheck q)
      | 0x41 => some (.cohLoad q)
      | 0x42 => some (.rmapSet q)
      | 0x50 => some (.pageMap q)
      | 0x51 => some (.pageUnmap q)
      | 0x52 => some (.pageAttr q)
      | 0x53 => some (.pageBack q)
      | 0x54 => some (.frameRetire q)
      | 0x60 => some (.healthQuery q)
      | 0x61 => some (.rehearse q)
      | 0x62 => some (.coreRetire q)
      | 0x63 => some (.rehearsalCfg q)
      | _ => none

/-- Is the head of a queue a record that waits for its engine: one that has not started and that nothing else holds up (a
close while a round is in progress, a launch behind another of its queue). -/
def headWaits (s : State) (q : QRef) (r : QRec) : Bool :=
  r.started.isNone && (recType r != 1 || launchesDone s q)
    && !(recType r == 3 && (closeOf s q r).any fun e => closeWaits s r e.1 e.2.1)

/-- The engine that serves the head of a queue (R105, R110, R336): an engine of a die by its kind, the host's copies among
those of the ferries, or the command engine of a port. -/
def headEngine (s : State) (q : QRef) (r : QRec) : Nat × Nat :=
  match q with
  | .ep c slot => (1 + ((aget s.eps (c * 64 + slot)).map EpQ.kind).getD 0, queueDie s q)
  | .host p _ =>
    if recType r = 4 then
      (1, ferryDie s q (queueCtx s q) (dwd r.dw 1).toNat (dwd r.dw 2).toNat)
    else (0, p)

/-- A queue as a number. -/
def queueNum : QRef → Nat
  | .host p n => p * 8192 + n
  | .ep c slot => 2 ^ 20 + c * 64 + slot

/-- An engine as a number. -/
def engineCode (e : Nat × Nat) : Nat := e.1 * 2 ^ 20 + e.2

/-- Of queues of one class that wait for an engine, the one that it serves next: the first after the one it served last
(R113). -/
def nextServed (s : State) (e : Nat × Nat) (l : List QRef) : Option QRef :=
  let l := sortBy (fun x y => queueNum x ≤ queueNum y) l
  (l.find? fun q => decide (agetD s.served (engineCode e) 0 < queueNum q + 1)).or l.head?

/-- Heads of queues that may be performed, with their records. -/
def openHeads (s : State) : List (QRef × QRec) :=
  (allQueues s).filterMap fun q =>
    match queueRecs s q with
    | r :: _ => if startable s q then some (q, r) else none
    | [] => none

/-- The heads of queues that are performed next: every engine serves waiting records in class order, with rotation among the
queues of one class (R113). -/
def servedHeads (s : State) : List QRef :=
  let waiting := ((openHeads s).filter fun x => headWaits s x.1 x.2).map fun x => (headEngine s x.1 x.2, recClass s x.1 x.2, x.1)
  ((openHeads s).filter fun x => !headWaits s x.1 x.2
    || (let mine := waiting.filter fun y => y.1 == headEngine s x.1 x.2
        !(mine.any fun y => y.2.1 < recClass s x.1 x.2)
          && nextServed s (headEngine s x.1 x.2) ((mine.filter fun y => y.2.1 == recClass s x.1 x.2).map fun y => y.2.2)
            == some x.1)).map Prod.fst

/-- Notes that an engine has served the queue whose head an event performs (R113). -/
def noteServed (s : State) (a : Auto) : State :=
  match (openHeads s).find? fun x => headWaits s x.1 x.2 && headEvent s x.1 == some a with
  | some (q, r) => { s with served := aset s.served (engineCode (headEngine s q r)) (queueNum q + 1) }
  | none => s

/-! Events without a time. -/

/-- Events of launches and contexts that are enabled. -/
def lifeEvents (s : State) : List Auto :=
  (s.launches.filterMap fun e => if e.2.st == .waiting then some (.leaveWaiting e.1) else none)
    ++ ((List.range 2).filter fun p => (p = 0 || s.part == .split) && !(placeOrder s p).isEmpty).map Auto.clusterPlacement
    ++ (s.ctxs.flatMap fun e => match e.2.st with
      | .defined => if !e.2.held && hasWork s e.1 && !evicting s e.1 then [.contextLoad e.1] else []
      | .loading => [.contextLoadComplete e.1]
      | .wiping => [.contextWipeComplete e.1]
      | .resident | .saving => [])
    ++ (s.keys.filterMap fun e => if e.2.retiring then some (.keyRetireComplete e.1) else none)
    ++ (s.blocks.filterMap fun e =>
      if maySave s e.1 e.2 then some (.blockSave e.1) else none)

/-- Events of pages, groups, links, coherence engines and cores that are enabled. -/
def workEvents (s : State) : List Auto :=
  (s.pageOps.filterMap fun e => match e.2 with
    | .fill _ => some (.pageFillComplete e.1 true)
    | .migrate _ _ _ _ | .unmapAfter _ _ _ _ _ _ => some (.migrationComplete e.1 .ok)
    | _ => none)
    ++ (s.groups.filterMap fun e => match e.2.wait with
      | some (_, .mem _ _) => some (.waitmMet e.1)
      | _ => none)
    ++ ((s.posted.map Posted.peer).eraseDups.map Auto.postedWriteAcknowledgement)
    ++ (s.dir.flatMap fun e =>
      let r := ackReq (e.1 * 32 / 2 ^ 52) (e.1 * 32 % 2 ^ 52)
      (if e.2.iack then [Auto.iack r] else []) ++ (if e.2.fack then [Auto.fack r] else []))
    ++ (s.rehearsing.filterMap fun e => if coreBusy s e.1 then none else some (.selfTestComplete e.1 true))
    ++ ((s.wiping.map Prod.snd).eraseDups.map Auto.frameWipeComplete)

/-- The events that are enabled. -/
def agenda (s : State) : List Auto := (servedHeads s).filterMap (headEvent s) ++ lifeEvents s ++ workEvents s

/-! Timers. -/

/-- Timers of groups, with the clock at which each is due. -/
def groupTimers (s : State) : List (Nat × Auto) :=
  s.groups.flatMap fun e =>
    let g := e.2
    (match g.wait with
      | some (_, .sleep t) => [(t, .sleepExpiry e.1)]
      | some (_, .mem (some t) _) => [(t, .waitmTimeout e.1)]
      | _ => [])
    ++ (match g.nopre with
      | some t => [(t + nsClocks nopreNs, .nopreTimeout e.1)]
      | none => [])
    ++ (match g.fenceAt with
      | some t => [(t + nsClocks fenceNs, .systemFenceTimeout e.1)]
      | none => [])
    ++ (match (aget s.blocks g.blk).bind Block.pre with
      | some t =>
        if g.st == .running && g.nopre.isNone && g.fenceAt.isNone && !g.inRoutine then
          [(t + nsClocks fallbackNs, .preemptFallback e.1)]
        else []
      | none => [])

/-- Timers of queues, launches, contexts and rounds. -/
def workTimers (s : State) : List (Nat × Auto) :=
  ((allQueues s).filterMap fun q => match queueRecs s q with
    | r :: _ =>
      let us := bits (dwd r.dw 4) 31 0
      (match r.started with
      | some t => if recType r = 2 && us != 0 then some (t + nsClocks (us * 1000), .waitTimeout q) else none
      | none => none)
    | [] => none)
    ++ (s.launches.filterMap fun e =>
      if mayPlace s e.1 e.2 && !e.2.starved && !floorRefused s e.1 e.2 then
        some (e.2.waitSince + nsClocks msNs, .placementStarvation e.1) else none)
    ++ (s.ctxs.filterMap fun e =>
      if e.1 != 0 && e.2.st == .resident && ctxIdle s e.1 then
        some (e.2.idleSince + nsClocks msNs, .contextIdleRelease e.1)
      else none)
    ++ (s.rounds.filterMap fun e => e.2.due.map fun t => (t, .roundTimeout (e.1 / 512) (e.1 % 512)))
    ++ (s.rounds.flatMap fun e => if e.2.suspended.isEmpty && !e.2.selfSuspended then []
      else e.2.slots.map fun l => (e.2.suspAt + nsClocks msNs, Auto.slotRelease (e.1 / 512) (e.1 % 512) l))

/-- Timers of ports and rehearsals. -/
def machineTimers (s : State) : List (Nat × Auto) :=
  ((List.range 18).filterMap fun n => match s.uports[n]? with
    | some p => (match p.st with
      | .training => some (p.since + nsClocks (100 * msNs), .trainingTimeout n)
      | .retraining => some (p.since + nsClocks msNs, .retrainTimeout n)
      | .dead => some (if 16 ≤ p.fails then p.since else p.since + nsClocks secNs, .deadRetry n)
      | _ => none)
    | none => none)
    ++ (s.drains.map fun d => (d.since + nsClocks 100000, Auto.drainRoundEnd d.plane))
    ++ (s.rehearsing.filterMap fun e =>
      if coreBusy s e.1 then some (e.2.since + nsClocks freeNs, .rehearsalSkip e.1) else none)
    ++ (if !s.rehearseOn then [] else (List.range 4).filterMap fun d =>
      if s.rehearsing.any fun e => e.1 / 40 == d then none
      else
        let cores := ((List.range 40).map (40 * d + ·)).filter fun c => !coreGone s c
        let due (c : Nat) : Nat := agetD s.rehearseDue c 0
        match cores with
        | [] => none
        | c :: r =>
          let c := r.foldl (fun b x => if due x < due b then x else b) c
          some (max (due c) (match aget s.rehearseLast d with
            | some t => t + nsClocks spacingNs
            | none => 0), .rehearsalStart c))

/-- Every timer that runs. -/
def timers (s : State) : List (Nat × Auto) := groupTimers s ++ workTimers s ++ machineTimers s

/-- The timer due first. -/
def firstTimer (s : State) : Option (Nat × Auto) :=
  match timers s with
  | [] => none
  | t :: r => some (r.foldl (fun b x => if x.1 < b.1 then x else b) t)

/-! Choice. -/

/-- What a step runs. -/
inductive Move where
  | turn (t : Turn)
  | auto (a : Auto)
deriving DecidableEq, Repr

/-- Chooses what moves next: a prescribed turn; a timer that is due, which at every fourth turn lets the rest go on; enabled
events and groups by turns; a timer that is not yet due when nothing else can move (log 1). -/
def chooseTurn (s : State) : State × Option Move :=
  match s.turns with
  | t :: r => ({ s with turns := r }, some (.turn t))
  | [] =>
    if s.shut then (s, none)
    else if s.clock < s.resetUntil then (s.upTo s.resetUntil, none)
    else
      let s1 := { s with rr := s.rr + 1, flip := !s.flip }
      let due := (timers s).filter fun t => t.1 ≤ s.clock
      let n := s.rr / 2
      match (if n % 4 = 3 then none else due[(n - n / 4) % max 1 due.length]?) with
      | some t => (s1, some (.auto t.2))
      | none =>
        let n := if due.isEmpty then n else n / 4
        let evs := agenda s
        let ev := (evs[n % max 1 evs.length]?).map Move.auto
        let g := (nextGroup s n).map fun k => Move.turn (.issue k)
        match (if s.flip then ev.or g else g.or ev) with
        | some (.auto a) => (noteServed s1 a, some (.auto a))
        | some t => (s1, some t)
        | none => (s1, (firstTimer s).map fun t => Move.auto t.2)

/-- The clock after a step: one clock and a free delay (log 1). -/
def tick (s : State) : State :=
  { s with clock := s.clock + 1 + (Config.freeDelay s.freeCtr).toNat, freeCtr := s.freeCtr + 1 }

/-- The end of a step that began in a state: what follows at once, the code it has overwritten, and the clock. -/
def finishStep (old s : State) : State := tick (noteStale old (settle s))

/-- Finishes what a meaning answers. -/
def finishOutcome (old : State) : Host.Outcome State Fault Refusal → Host.Outcome State Fault Refusal
  | .next s => .next (finishStep old s)
  | .fault f => .fault f
  | .refused r => .refused r

end Sys2Proof.Machine
end

