-- ==== Sys2Proof/Machine/Dispatch.lean ====
section
/-! DEFINITION. One arm per constructor of `Instr`: the meaning of every row of the opcode table. -/

namespace Sys2Proof.Machine

/-- Runs an instruction or an event. -/
def exec (i : Instr) (s : State) : Host.Outcome State Fault Refusal :=
  match i with
  | .nop => Sys2Proof.Machine.execNop s
  | .exit => Sys2Proof.Machine.execExit s
  | .trap code a => Sys2Proof.Machine.execTrap code a s
  | .rtt => Sys2Proof.Machine.execRtt s
  | .yield => Sys2Proof.Machine.execYield s
  | .sleep a => Sys2Proof.Machine.execSleep a s
  | .nopre => Sys2Proof.Machine.execNopre s
  | .okpre => Sys2Proof.Machine.execOkpre s
  | .mfs d sel => Sys2Proof.Machine.execMfs d sel s
  | .mts sel d => Sys2Proof.Machine.execMts sel d s
  | .win a => Sys2Proof.Machine.execWin a s
  | .awin a => Sys2Proof.Machine.execAwin a s
  | .fmtset a b => Sys2Proof.Machine.execFmtset a b s
  | .fmtget d => Sys2Proof.Machine.execFmtget d s
  | .clock d => Sys2Proof.Machine.execClock d s
  | .launch a b => Sys2Proof.Machine.execLaunch a b s
  | .record a => Sys2Proof.Machine.execRecord a s
  | .sigrst => Sys2Proof.Machine.execSigrst s
  | .bkpt => Sys2Proof.Machine.execBkpt s
  | .cue id => Sys2Proof.Machine.execCue id s
  | .sigck imm => Sys2Proof.Machine.execSigck imm s
  | .stage base mask => Sys2Proof.Machine.execStage base mask s
  | .bra p n off => Sys2Proof.Machine.execBra p n off s
  | .brl p n off => Sys2Proof.Machine.execBrl p n off s
  | .brd p n off => Sys2Proof.Machine.execBrd p n off s
  | .join off => Sys2Proof.Machine.execJoin off s
  | .call off => Sys2Proof.Machine.execCall off s
  | .jmpr a => Sys2Proof.Machine.execJmpr a s
  | .callr a => Sys2Proof.Machine.execCallr a s
  | .ret => Sys2Proof.Machine.execRet s
  | .endj => Sys2Proof.Machine.execEndj s
  | .loop lc len1 cnt => Sys2Proof.Machine.execLoop lc len1 cnt s
  | .loopi lc len1 cnt => Sys2Proof.Machine.execLoopi lc len1 cnt s
  | .gspan p n cnt1 => Sys2Proof.Machine.execGspan p n cnt1 s
  | .fenceAcq pd sc => Sys2Proof.Machine.execFenceAcq pd sc s
  | .fenceRel pd sc => Sys2Proof.Machine.execFenceRel pd sc s
  | .fenceAr pd sc => Sys2Proof.Machine.execFenceAr pd sc s
  | .barInit id a => Sys2Proof.Machine.execBarInit id a s
  | .barArr id => Sys2Proof.Machine.execBarArr id s
  | .barWait pd id => Sys2Proof.Machine.execBarWait pd id s
  | .barSync pd id => Sys2Proof.Machine.execBarSync pd id s
  | .cbarArr id => Sys2Proof.Machine.execCbarArr id s
  | .cbarWait pd id => Sys2Proof.Machine.execCbarWait pd id s
  | .cbarSync pd id => Sys2Proof.Machine.execCbarSync pd id s
  | .batch => Sys2Proof.Machine.execBatch s
  | .bwait pd a => Sys2Proof.Machine.execBwait pd a s
  | .waitm pd sc a b => Sys2Proof.Machine.execWaitm pd sc a b s
  | .qfence a => Sys2Proof.Machine.execQfence a s
  | .pgreq d a f la => Sys2Proof.Machine.execPgreq d a f la s
  | .pgqry d a f la => Sys2Proof.Machine.execPgqry d a f la s
  | .pref a f la => Sys2Proof.Machine.execPref a f la s
  | .spl d a f la => Sys2Proof.Machine.execSpl d a f la s
  | .fil d a f la => Sys2Proof.Machine.execFil d a f la s
  | .mapr d a f la => Sys2Proof.Machine.execMapr d a f la s
  | .syncr d f la => Sys2Proof.Machine.execSyncr d f la s
  | .unmapr d f la => Sys2Proof.Machine.execUnmapr d f la s
  | .pgpin d a f la => Sys2Proof.Machine.execPgpin d a f la s
  | .pgunpin d a f la => Sys2Proof.Machine.execPgunpin d a f la s
  | .ldu d a w32 f la => Sys2Proof.Machine.execLdu d a w32 f la s
  | .iadd w d a b => Sys2Proof.Machine.execIadd w d a b s
  | .isub w d a b => Sys2Proof.Machine.execIsub w d a b s
  | .iaddc w d a b => Sys2Proof.Machine.execIaddc w d a b s
  | .isubb w d a b => Sys2Proof.Machine.execIsubb w d a b s
  | .imul w d a b => Sys2Proof.Machine.execImul w d a b s
  | .imulhs w d a b => Sys2Proof.Machine.execImulhs w d a b s
  | .imulhn w d a b => Sys2Proof.Machine.execImulhn w d a b s
  | .imad w d a b => Sys2Proof.Machine.execImad w d a b s
  | .imins w d a b => Sys2Proof.Machine.execImins w d a b s
  | .imaxs w d a b => Sys2Proof.Machine.execImaxs w d a b s
  | .iminn w d a b => Sys2Proof.Machine.execIminn w d a b s
  | .imaxn w d a b => Sys2Proof.Machine.execImaxn w d a b s
  | .iabs w d a => Sys2Proof.Machine.execIabs w d a s
  | .imadw d a b => Sys2Proof.Machine.execImadw d a b s
  | .popc w d a => Sys2Proof.Machine.execPopc w d a s
  | .clz w d a => Sys2Proof.Machine.execClz w d a s
  | .andR w d a b => Sys2Proof.Machine.execAndR w d a b s
  | .orR w d a b => Sys2Proof.Machine.execOrR w d a b s
  | .xorR w d a b => Sys2Proof.Machine.execXorR w d a b s
  | .andnR w d a b => Sys2Proof.Machine.execAndnR w d a b s
  | .shl w d a b => Sys2Proof.Machine.execShl w d a b s
  | .shr w d a b => Sys2Proof.Machine.execShr w d a b s
  | .sar w d a b => Sys2Proof.Machine.execSar w d a b s
  | .rot w d a b => Sys2Proof.Machine.execRot w d a b s
  | .brev w d a => Sys2Proof.Machine.execBrev w d a s
  | .bfxs w d a b => Sys2Proof.Machine.execBfxs w d a b s
  | .bfxn w d a b => Sys2Proof.Machine.execBfxn w d a b s
  | .bfi w d a b => Sys2Proof.Machine.execBfi w d a b s
  | .mov w d a => Sys2Proof.Machine.execMov w d a s
  | .prmb d a b => Sys2Proof.Machine.execPrmb d a b s
  | .iadds w d a b => Sys2Proof.Machine.execIadds w d a b s
  | .iaddn w d a b => Sys2Proof.Machine.execIaddn w d a b s
  | .iset c cb w pd a b => Sys2Proof.Machine.execIset c cb w pd a b s
  | .pand d a b => Sys2Proof.Machine.execPand d a b s
  | .por d a b => Sys2Proof.Machine.execPor d a b s
  | .pxor d a b => Sys2Proof.Machine.execPxor d a b s
  | .pandn d a b => Sys2Proof.Machine.execPandn d a b s
  | .pnot d a => Sys2Proof.Machine.execPnot d a s
  | .pmov d a => Sys2Proof.Machine.execPmov d a s
  | .addi d a imm => Sys2Proof.Machine.execAddi d a imm s
  | .andi d a imm => Sys2Proof.Machine.execAndi d a imm s
  | .ori d a imm => Sys2Proof.Machine.execOri d a imm s
  | .xori d a imm => Sys2Proof.Machine.execXori d a imm s
  | .shli d a imm => Sys2Proof.Machine.execShli d a imm s
  | .shri d a imm => Sys2Proof.Machine.execShri d a imm s
  | .sari d a imm => Sys2Proof.Machine.execSari d a imm s
  | .movw d slot imm => Sys2Proof.Machine.execMovw d slot imm s
  | .movk d slot imm => Sys2Proof.Machine.execMovk d slot imm s
  | .lea d a b sh => Sys2Proof.Machine.execLea d a b sh s
  | .fadd fm q d a b => Sys2Proof.Machine.execFadd fm q d a b s
  | .fsub fm q d a b => Sys2Proof.Machine.execFsub fm q d a b s
  | .fmul fm q d a b => Sys2Proof.Machine.execFmul fm q d a b s
  | .ffma fm q d a b => Sys2Proof.Machine.execFfma fm q d a b s
  | .ffms fm q d a b => Sys2Proof.Machine.execFfms fm q d a b s
  | .fnma fm q d a b => Sys2Proof.Machine.execFnma fm q d a b s
  | .fmin fm q d a b => Sys2Proof.Machine.execFmin fm q d a b s
  | .fmax fm q d a b => Sys2Proof.Machine.execFmax fm q d a b s
  | .fabs fm q d a => Sys2Proof.Machine.execFabs fm q d a s
  | .fneg fm q d a => Sys2Proof.Machine.execFneg fm q d a s
  | .fcsgn fm q d a b => Sys2Proof.Machine.execFcsgn fm q d a b s
  | .frndn fm q d a => Sys2Proof.Machine.execFrndn fm q d a s
  | .frndz fm q d a => Sys2Proof.Machine.execFrndz fm q d a s
  | .frndp fm q d a => Sys2Proof.Machine.execFrndp fm q d a s
  | .frndm fm q d a => Sys2Proof.Machine.execFrndm fm q d a s
  | .fclass fm q d a => Sys2Proof.Machine.execFclass fm q d a s
  | .frcp fm q d a => Sys2Proof.Machine.execFrcp fm q d a s
  | .frsq fm q d a => Sys2Proof.Machine.execFrsq fm q d a s
  | .fsqrt fm q d a => Sys2Proof.Machine.execFsqrt fm q d a s
  | .fdiv fm q d a b => Sys2Proof.Machine.execFdiv fm q d a b s
  | .fexp2 fm q d a => Sys2Proof.Machine.execFexp2 fm q d a s
  | .flog2 fm q d a => Sys2Proof.Machine.execFlog2 fm q d a s
  | .fscl fm q d a b => Sys2Proof.Machine.execFscl fm q d a b s
  | .fset c cb fm pd a b => Sys2Proof.Machine.execFset c cb fm pd a b s
  | .fsets c cb fm pd a b => Sys2Proof.Machine.execFsets c cb fm pd a b s
  | .cvt dst src rm sat d a => Sys2Proof.Machine.execCvt dst src rm sat d a s
  | .qpush q a n1 => Sys2Proof.Machine.execQpush q a n1 s
  | .qpop d q => Sys2Proof.Machine.execQpop d q s
  | .qtry d q => Sys2Proof.Machine.execQtry d q s
  | .qbind q a => Sys2Proof.Machine.execQbind q a s
  | .qstat d q => Sys2Proof.Machine.execQstat d q s
  | .qdrain d q => Sys2Proof.Machine.execQdrain d q s
  | .ecpy q a n1 => Sys2Proof.Machine.execEcpy q a n1 s
  | .egath q a n1 => Sys2Proof.Machine.execEgath q a n1 s
  | .escat q a n1 => Sys2Proof.Machine.execEscat q a n1 s
  | .ercpy q a n1 => Sys2Proof.Machine.execErcpy q a n1 s
  | .efill q a n1 => Sys2Proof.Machine.execEfill q a n1 s
  | .emig q a n1 => Sys2Proof.Machine.execEmig q a n1 s
  | .laclr d n1 => Sys2Proof.Machine.execLaclr d n1 s
  | .laadd d a => Sys2Proof.Machine.execLaadd d a s
  | .laadds d a => Sys2Proof.Machine.execLaadds d a s
  | .lasub d a => Sys2Proof.Machine.execLasub d a s
  | .lamad d a b => Sys2Proof.Machine.execLamad d a b s
  | .lamsb d a b => Sys2Proof.Machine.execLamsb d a b s
  | .ladot d a b => Sys2Proof.Machine.execLadot d a b s
  | .lamrg d a => Sys2Proof.Machine.execLamrg d a s
  | .lamov d a => Sys2Proof.Machine.execLamov d a s
  | .laxl d a b => Sys2Proof.Machine.execLaxl d a b s
  | .laxb d a k => Sys2Proof.Machine.execLaxb d a k s
  | .lacrs d n1 => Sys2Proof.Machine.execLacrs d n1 s
  | .laflg d a => Sys2Proof.Machine.execLaflg d a s
  | .laput d a k => Sys2Proof.Machine.execLaput d a k s
  | .laneg d a => Sys2Proof.Machine.execLaneg d a s
  | .larnd d a fo rm la => Sys2Proof.Machine.execLarnd d a fo rm la s
  | .laseg d a k la => Sys2Proof.Machine.execLaseg d a k la s
  | .mma d a b clr la => Sys2Proof.Machine.execMma d a b clr la s
  | .xln keep w d a b => Sys2Proof.Machine.execXln keep w d a b s
  | .xliBfly w d a lane sub => Sys2Proof.Machine.execXliBfly w d a lane sub s
  | .xliBcast w d a lane sub => Sys2Proof.Machine.execXliBcast w d a lane sub s
  | .xliRotup w d a lane sub => Sys2Proof.Machine.execXliRotup w d a lane sub s
  | .xliRotdn w d a lane sub => Sys2Proof.Machine.execXliRotdn w d a lane sub s
  | .qxh d a => Sys2Proof.Machine.execQxh d a s
  | .qxv d a => Sys2Proof.Machine.execQxv d a s
  | .qxd d a => Sys2Proof.Machine.execQxd d a s
  | .qbc0 d a => Sys2Proof.Machine.execQbc0 d a s
  | .qbc1 d a => Sys2Proof.Machine.execQbc1 d a s
  | .qbc2 d a => Sys2Proof.Machine.execQbc2 d a s
  | .qbc3 d a => Sys2Proof.Machine.execQbc3 d a s
  | .vany d a => Sys2Proof.Machine.execVany d a s
  | .vall d a => Sys2Proof.Machine.execVall d a s
  | .vbal d a => Sys2Proof.Machine.execVbal d a s
  | .mbcnt d a => Sys2Proof.Machine.execMbcnt d a s
  | .vfirst d a => Sys2Proof.Machine.execVfirst d a s
  | .mmas d a b clr la => Sys2Proof.Machine.execMmas d a b clr la s
  | .last d a f la => Sys2Proof.Machine.execLast d a f la s
  | .lald d a f la => Sys2Proof.Machine.execLald d a f la s
  | .ld sz pol d a f la => Sys2Proof.Machine.execLd sz pol d a f la s
  | .ldx sz pol d a f la => Sys2Proof.Machine.execLdx sz pol d a f la s
  | .st sz pol d a f la => Sys2Proof.Machine.execSt sz pol d a f la s
  | .stx sz pol d a f la => Sys2Proof.Machine.execStx sz pol d a f la s
  | .lds w d a f la => Sys2Proof.Machine.execLds w d a f la s
  | .ldsc w d a f la => Sys2Proof.Machine.execLdsc w d a f la s
  | .sts w d a f la => Sys2Proof.Machine.execSts w d a f la s
  | .stsc w d a f la => Sys2Proof.Machine.execStsc w d a f la s
  | .atomAdd d a f la => Sys2Proof.Machine.execAtomAdd d a f la s
  | .atomMins d a f la => Sys2Proof.Machine.execAtomMins d a f la s
  | .atomMaxs d a f la => Sys2Proof.Machine.execAtomMaxs d a f la s
  | .atomMinn d a f la => Sys2Proof.Machine.execAtomMinn d a f la s
  | .atomMaxn d a f la => Sys2Proof.Machine.execAtomMaxn d a f la s
  | .atomAnd d a f la => Sys2Proof.Machine.execAtomAnd d a f la s
  | .atomOr d a f la => Sys2Proof.Machine.execAtomOr d a f la s
  | .atomXor d a f la => Sys2Proof.Machine.execAtomXor d a f la s
  | .atomXchg d a f la => Sys2Proof.Machine.execAtomXchg d a f la s
  | .atomCas d a f la => Sys2Proof.Machine.execAtomCas d a f la s
  | .atomIncw d a f la => Sys2Proof.Machine.execAtomIncw d a f la s
  | .atomwAdd d a f la => Sys2Proof.Machine.execAtomwAdd d a f la s
  | .atomwMins d a f la => Sys2Proof.Machine.execAtomwMins d a f la s
  | .atomwMaxs d a f la => Sys2Proof.Machine.execAtomwMaxs d a f la s
  | .atomwMinn d a f la => Sys2Proof.Machine.execAtomwMinn d a f la s
  | .atomwMaxn d a f la => Sys2Proof.Machine.execAtomwMaxn d a f la s
  | .atomwAnd d a f la => Sys2Proof.Machine.execAtomwAnd d a f la s
  | .atomwOr d a f la => Sys2Proof.Machine.execAtomwOr d a f la s
  | .atomwXor d a f la => Sys2Proof.Machine.execAtomwXor d a f la s
  | .atomwXchg d a f la => Sys2Proof.Machine.execAtomwXchg d a f la s
  | .atomwCas d a f la => Sys2Proof.Machine.execAtomwCas d a f la s
  | .atomwIncw d a f la => Sys2Proof.Machine.execAtomwIncw d a f la s
  | .ataccAddv d a f la => Sys2Proof.Machine.execAtaccAddv d a f la s
  | .ataccAddp d a f la => Sys2Proof.Machine.execAtaccAddp d a f la s
  | .ataccClr d a f la => Sys2Proof.Machine.execAtaccClr d a f la s
  | .sleepExpiry g => Sys2Proof.Machine.execSleepExpiry g s
  | .nopreTimeout g => Sys2Proof.Machine.execNopreTimeout g s
  | .waitmMet g => Sys2Proof.Machine.execWaitmMet g s
  | .waitmTimeout g => Sys2Proof.Machine.execWaitmTimeout g s
  | .carrySweep blk la k => Sys2Proof.Machine.execCarrySweep blk la k s
  | .updateLineEviction key line => Sys2Proof.Machine.execUpdateLineEviction key line s
  | .landingWrite port off data => Sys2Proof.Machine.execLandingWrite port off data s
  | .launchRecord q => Sys2Proof.Machine.execLaunchRecord q s
  | .leaveWaiting l => Sys2Proof.Machine.execLeaveWaiting l s
  | .clusterPlacement part => Sys2Proof.Machine.execClusterPlacement part s
  | .placementStarvation l => Sys2Proof.Machine.execPlacementStarvation l s
  | .wait q => Sys2Proof.Machine.execWait q s
  | .waitMet q => Sys2Proof.Machine.execWaitMet q s
  | .waitTimeout q => Sys2Proof.Machine.execWaitTimeout q s
  | .signal q => Sys2Proof.Machine.execSignal q s
  | .copy q => Sys2Proof.Machine.execCopy q s
  | .queueCreate q => Sys2Proof.Machine.execQueueCreate q s
  | .queueReset q => Sys2Proof.Machine.execQueueReset q s
  | .queueDestroy q => Sys2Proof.Machine.execQueueDestroy q s
  | .ctxDefine q => Sys2Proof.Machine.execCtxDefine q s
  | .ctxUpdate q => Sys2Proof.Machine.execCtxUpdate q s
  | .ctxSuspend q => Sys2Proof.Machine.execCtxSuspend q s
  | .ctxResume q => Sys2Proof.Machine.execCtxResume q s
  | .ctxDestroy q => Sys2Proof.Machine.execCtxDestroy q s
  | .keyInstall q => Sys2Proof.Machine.execKeyInstall q s
  | .keyRetire q => Sys2Proof.Machine.execKeyRetire q s
  | .keyRetireComplete slot => Sys2Proof.Machine.execKeyRetireComplete slot s
  | .contextLoad c => Sys2Proof.Machine.execContextLoad c s
  | .contextLoadComplete c => Sys2Proof.Machine.execContextLoadComplete c s
  | .contextIdleRelease c => Sys2Proof.Machine.execContextIdleRelease c s
  | .preemptFallback g => Sys2Proof.Machine.execPreemptFallback g s
  | .blockSave b => Sys2Proof.Machine.execBlockSave b s
  | .contextWipeComplete c => Sys2Proof.Machine.execContextWipeComplete c s
  | .ecpyRecord q => Sys2Proof.Machine.execEcpyRecord q s
  | .efillRecord q => Sys2Proof.Machine.execEfillRecord q s
  | .egathRecord q => Sys2Proof.Machine.execEgathRecord q s
  | .escatRecord q => Sys2Proof.Machine.execEscatRecord q s
  | .ercpyRecord q => Sys2Proof.Machine.execErcpyRecord q s
  | .emigRecord q => Sys2Proof.Machine.execEmigRecord q s
  | .cohCheck q => Sys2Proof.Machine.execCohCheck q s
  | .cohLoad q => Sys2Proof.Machine.execCohLoad q s
  | .rmapSet q => Sys2Proof.Machine.execRmapSet q s
  | .gets r => Sys2Proof.Machine.execGets r s
  | .getx r => Sys2Proof.Machine.execGetx r s
  | .upgr r => Sys2Proof.Machine.execUpgr r s
  | .puts r => Sys2Proof.Machine.execPuts r s
  | .putl r => Sys2Proof.Machine.execPutl r s
  | .putx r => Sys2Proof.Machine.execPutx r s
  | .wthr r => Sys2Proof.Machine.execWthr r s
  | .atomRequest r => Sys2Proof.Machine.execAtomRequest r s
  | .getm r => Sys2Proof.Machine.execGetm r s
  | .putm r => Sys2Proof.Machine.execPutm r s
  | .iack r => Sys2Proof.Machine.execIack r s
  | .fack r => Sys2Proof.Machine.execFack r s
  | .recl r => Sys2Proof.Machine.execRecl r s
  | .flsh r => Sys2Proof.Machine.execFlsh r s
  | .ncrd r => Sys2Proof.Machine.execNcrd r s
  | .ncwr r => Sys2Proof.Machine.execNcwr r s
  | .pageMap q => Sys2Proof.Machine.execPageMap q s
  | .pageUnmap q => Sys2Proof.Machine.execPageUnmap q s
  | .pageAttr q => Sys2Proof.Machine.execPageAttr q s
  | .pageBack q => Sys2Proof.Machine.execPageBack q s
  | .frameRetire q => Sys2Proof.Machine.execFrameRetire q s
  | .pageFillComplete frame ok => Sys2Proof.Machine.execPageFillComplete frame ok s
  | .migrationComplete frame res => Sys2Proof.Machine.execMigrationComplete frame res s
  | .shootdownComplete frame => Sys2Proof.Machine.execShootdownComplete frame s
  | .linkTrained port width => Sys2Proof.Machine.execLinkTrained port width s
  | .trainingTimeout port => Sys2Proof.Machine.execTrainingTimeout port s
  | .linkRetrain port => Sys2Proof.Machine.execLinkRetrain port s
  | .retrainComplete port width => Sys2Proof.Machine.execRetrainComplete port width s
  | .retrainTimeout port => Sys2Proof.Machine.execRetrainTimeout port s
  | .deadRetry port => Sys2Proof.Machine.execDeadRetry port s
  | .linkDisable port => Sys2Proof.Machine.execLinkDisable port s
  | .linkEnable port => Sys2Proof.Machine.execLinkEnable port s
  | .lsuReceived origin plane st seq => Sys2Proof.Machine.execLsuReceived origin plane st seq s
  | .drainRoundEnd port => Sys2Proof.Machine.execDrainRoundEnd port s
  | .pcieLinkChange port st width => Sys2Proof.Machine.execPcieLinkChange port st width s
  | .ualinkRequest port src pa op => Sys2Proof.Machine.execUalinkRequest port src pa op s
  | .collectiveClose q => Sys2Proof.Machine.execCollectiveClose q s
  | .partialReceived c e round loc rank mask image => Sys2Proof.Machine.execPartialReceived c e round loc rank mask image s
  | .mergedImageReceived c e round loc image => Sys2Proof.Machine.execMergedImageReceived c e round loc image s
  | .deliveryAck c e round rank => Sys2Proof.Machine.execDeliveryAck c e round rank s
  | .roundTimeout c e => Sys2Proof.Machine.execRoundTimeout c e s
  | .suspendReceived c e rank => Sys2Proof.Machine.execSuspendReceived c e rank s
  | .resumeReceived c e rank => Sys2Proof.Machine.execResumeReceived c e rank s
  | .abortReceived c e rank => Sys2Proof.Machine.execAbortReceived c e rank s
  | .slotRelease c e loc => Sys2Proof.Machine.execSlotRelease c e loc s
  | .healthQuery q => Sys2Proof.Machine.execHealthQuery q s
  | .rehearse q => Sys2Proof.Machine.execRehearse q s
  | .coreRetire q => Sys2Proof.Machine.execCoreRetire q s
  | .rehearsalCfg q => Sys2Proof.Machine.execRehearsalCfg q s
  | .rehearsalStart core => Sys2Proof.Machine.execRehearsalStart core s
  | .rehearsalSkip core => Sys2Proof.Machine.execRehearsalSkip core s
  | .selfTestComplete core pass => Sys2Proof.Machine.execSelfTestComplete core pass s
  | .coreWithdrawal core => Sys2Proof.Machine.execCoreWithdrawal core s
  | .coldReset => Sys2Proof.Machine.execColdReset s
  | .warmReset dies => Sys2Proof.Machine.execWarmReset dies s
  | .thermalShutdown die => Sys2Proof.Machine.execThermalShutdown die s
  | .junctionWarning die => Sys2Proof.Machine.execJunctionWarning die s
  | .lifeCycleCommand target valid => Sys2Proof.Machine.execLifeCycleCommand target valid s
  | .firmwareUpdate image version valid => Sys2Proof.Machine.execFirmwareUpdate image version valid s
  | .partitionModeSet m => Sys2Proof.Machine.execPartitionModeSet m s
  | .pldmMonitoring sensor => Sys2Proof.Machine.execPldmMonitoring sensor s
  | .spdmMeasurements index => Sys2Proof.Machine.execSpdmMeasurements index s
  | .bookArm die => Sys2Proof.Machine.execBookArm die s
  | .bookDisarm die => Sys2Proof.Machine.execBookDisarm die s
  | .bookSeal die => Sys2Proof.Machine.execBookSeal die s
  | .bookTailWrite die v => Sys2Proof.Machine.execBookTailWrite die v s
  | .registerWrite port off v => Sys2Proof.Machine.execRegisterWrite port off v s
  | .pendingResultComplete g idx => Sys2Proof.Machine.execPendingResultComplete g idx s
  | .postedWriteAcknowledgement peer => Sys2Proof.Machine.execPostedWriteAcknowledgement peer s
  | .systemFenceTimeout g => Sys2Proof.Machine.execSystemFenceTimeout g s
  | .frameWipeComplete c => Sys2Proof.Machine.execFrameWipeComplete c s

end Sys2Proof.Machine
end

