-- ==== Sys2Proof/Machine/Boot.lean ====
section
/-! DEFINITION. A program in place: the smallest machine state in which a given word is the next instruction of a group
(log 32). It stands for what a host does from reset: pages and a context defined through queue 0, a queue created, and a
launch record that lands and is placed. -/

namespace Sys2Proof.Machine

/-- The code address of the placed word. -/
abbrev bootVa : Nat := 0x10000

/-- The header of the placed kernel: one group, all vector registers and LAs a group can have. -/
def bootHeader : Header :=
  { code := dw bootVa, pinned := false, sigen := false, csize := 1, bars := 16, spadKB := 16, lapl := 128, vregs := 3,
    groups := 1, comm := none, safeTab := 0, safeN := 0, idemTab := 0, idemN := 0, privBase := 0, privLane := 0 }

/-- The launch of the placed kernel. -/
def bootLaunch (s : State) (c : Nat) : Launch :=
  { ctx := c, queue := .host 0 0, seq := 0, event := 0, st := .running, cls := 0, early := false, floor := 0, hdrAt := 0,
    args := 0, gx := 1, gy := 1, gz := 1, deps := [], producers := [], detached := true, hdr := some bootHeader,
    order := s.nextId, nextClu := 1 }

/-- Its block, on logical core 0. -/
def bootBlock (s : State) (c : Nat) : Block :=
  { ctx := c, launch := s.nextId, clu := s.nextId + 1, rank := 0, id := 0, x := 0, y := 0, z := 0,
    core := (coreOfLog s 0).getD 0, lcore := 0, slot := 0, groups := 1, vregs := 3, lapl := 128, spadKB := 16, barsN := 16 }

/-- Places a word as the next instruction of a fresh group of a fresh privileged context, whose turn comes next. -/
def placeWord (s : State) (w : BitVec 32) : State :=
  let n := s.nextId
  let c := freshFrom s.ctxs 4096 1
  let b := bootBlock s c
  let id := (stackFrame s false (2 * (b.core / 40))).getD 0
  let page : Frame :=
    { vpn := bootVa / 65536, ctx := c, key := 0, next := endLink, st := .resident, gran := 1, perm := 7, reduce := false,
      accum := false, observed := false, large := false, pincnt := 0, rcnt := 0 }
  let g : Group := { blk := n + 2, idx := 0, quad := 0, slot := 0, pc := dw bootVa, lastIssue := s.clock }
  let s := { s with
    nextId := n + 3, turns := .issue ((n + 2) * 32) :: s.turns, ctxs := aset s.ctxs c { st := .resident, priv := true },
    launches := aset s.launches n (bootLaunch s c),
    clusters := aset s.clusters (n + 1) { launch := n, num := 0, die := b.core / 40, bay := b.core % 40 / 4, size := 1 },
    blocks := aset s.blocks (n + 2) b, groups := aset s.groups ((n + 2) * 32) g }
  writeRaw (enterPage s id page) 0 (id * 65536) (wordBytes w)

end Sys2Proof.Machine
end

