-- ==== Sys2Proof/Machine/Step.lean ====
section
/-! DEFINITION. One step: what moves next is chosen and runs, what follows from it is settled, and the clock advances. -/

namespace Sys2Proof.Machine

/-- One step of the machine. -/
def step (s : State) : Host.Outcome State Fault Refusal :=
  match chooseTurn s with
  | (s0, none) => .next (finishStep s s0)
  | (s0, some (.auto a)) => finishOutcome s (runAuto a s0)
  | (s0, some (.turn t)) =>
    match prepare s0 t with
    | .run s1 i => finishOutcome s (exec i s1)
    | .idle s1 => .next (finishStep s s1)

/-- The state with an instruction word placed where the next step fetches. -/
def State.withFetchWord (s : State) (nbits w : Nat) : State := placeWord s (BitVec.ofNat 32 (w % 2 ^ min nbits 32))

end Sys2Proof.Machine
end

