-- ==== Sys2Proof/Safety.lean ====
section
/-! DEFINITION. The terms the statements use: forms that every step keeps, when an instruction issues, what it leaves as
it was. -/

namespace Sys2Proof.Machine

/-- Memory in canonical form: addresses strictly rising, and no listed byte equal to what an unlisted one reads as. -/
abbrev Memory.wf (m : List Host.Cell) : Prop := aCanon (0 : Byte) m = true

/-- A step ends neither in a fault nor in a refusal. -/
def Runs (s : State) : Prop := ∃ t, step s = .next t

/-! Issuing. -/

/-- Instruction i issues in the current group: s1 is the state with the group's due results landed, g the group and b
its block in it; none of the faults that come before an instruction's own description arises (R142, R145, R150, R252),
no register it reads holds an uncorrectable error (R397), and, where it is a release, no update of the group is held on
its way while a link retrains or a drain lasts (R183, R375, R377). -/
structure Issues (i : Instr) (sync : Bool) (s s1 : State) (g : Group) (b : Block) : Prop where
  cur : atIssue i sync s = some (s1, g, b)
  clear : preFault i g b = none
  sound : readsBad g i = false
  free : releasesNow i g = true → heldUpd s1 s1.cur = false

/-- The instruction completes sequentially: new is the group after its effect, and nothing but the group has changed. -/
def Completes (i : Instr) (s s1 : State) (g : Group) (b : Block) (new : Group) : Prop :=
  exec i s = .next (complete i g b s1.cur (setGroup s1 s1.cur new) .seq [])

/-- The instruction completes sequentially in a state s2 that its effect has made. -/
def CompletesIn (i : Instr) (s s1 s2 : State) (g : Group) (b : Block) : Prop :=
  exec i s = .next (complete i g b s1.cur s2 .seq [])

/-- The instruction completes sequentially in s2, with writes of long accumulators that a lookahead may hold back. -/
def CompletesLas (i : Instr) (s s1 s2 : State) (g : Group) (b : Block) (lw : AMap (Bool × LA)) : Prop :=
  exec i s = .next (complete i g b s1.cur s2 .seq lw)

/-- The instruction completes with a transfer to pc. -/
def Transfers (i : Instr) (s s1 : State) (g : Group) (b : Block) (new : Group) (pc : Dword) : Prop :=
  exec i s = .next (complete i g b s1.cur (setGroup s1 s1.cur new) (.goto pc none) [])

/-- The instruction raises a fault in state s1. -/
def Faults (i : Instr) (s s1 : State) (g : Group) (t : Trap) (v : Dword) : Prop :=
  exec i s = .next (raiseFault s1 s1.cur t v g.pc)

/-! What a group keeps. -/

/-- A group without its registers and predicates. -/
def Group.shell (g : Group) : Group := { g with sregs := [], vregs := [], preds := [] }

/-- A group without its registers, predicates and sticky flags. -/
def Group.core (g : Group) : Group :=
  { g.shell with fpxNV := 0, fpxDZ := 0, fpxOF := 0, fpxUF := 0, fpxNX := 0 }

/-- A group without what the completion of an instruction moves on: program counter, loop counters, signature, guard span,
pending results, register errors mended, region, waits, staging and the scheduler's counts. -/
def Group.kept (g : Group) : Group :=
  { g with pc := 0, lc0 := {}, lc1 := {}, lc2 := {}, sig := 0, gmask := 0, grem := 0, pend := [], regBad := [],
           wingBad := [], region := none, wait := none, synced := [], staging := false, urg := 0, acqAt := 0, relAt := 0,
           lastIssue := 0 }

/-- The lanes of a destination: none of z. -/
def Group.written (g : Group) (d : GReg) : List Nat :=
  match d with
  | .z => []
  | d => g.evalLanes d

/-- new is g with destination d written: each lane it is evaluated in holds a value that val accepts, and every other
register, in every lane and outside the window too, reads as before. -/
structure WroteReg (g new : Group) (d : GReg) (val : Nat → Dword → Prop) : Prop where
  value : ∀ l ∈ g.written d, val l (new.readR d l)
  vregs : ∀ k, (∀ n : VReg, d = .v n → ∀ l ∈ g.written d, k ≠ vKey (g.wbase + n.val) l) →
    agetD new.vregs k 0 = agetD g.vregs k 0
  sregs : ∀ n : Nat, (∀ m : Fin 16, d = .s m → g.written d ≠ [] → n ≠ m.val) → new.readSn n = g.readSn n

/-- new is g with predicate p written in the active lanes: pt keeps reading ones, every other bit reads as before. -/
structure WrotePred (g new : Group) (p : PReg) (val : Nat → BitVec 8 → Prop) : Prop where
  value : p ≠ 15 → ∀ l ∈ g.lanesOn, val l (new.readP p l)
  top : ∀ l, new.readP 15 l = 255
  others : ∀ k, (p ≠ 15 → ∀ l ∈ g.lanesOn, k ≠ 32 * p.val + l) → agetD new.preds k 0 = agetD g.preds k 0

/-- new is g with destination d written and nothing else changed. -/
def OnlyReg (g new : Group) (d : GReg) (val : Nat → Dword → Prop) : Prop :=
  WroteReg g new d val ∧ new.preds = g.preds ∧ new.shell = g.shell

/-- new is g with predicate p written and nothing else changed. -/
def OnlyPred (g new : Group) (p : PReg) (val : Nat → BitVec 8 → Prop) : Prop :=
  WrotePred g new p val ∧ new.vregs = g.vregs ∧ new.sregs = g.sregs ∧ new.shell = g.shell

/-- Is bit l of new what it was in old, or set because f holds in member lane l. -/
def Raised (g : Group) (old new : Mask) (f : Nat → Bool) : Prop :=
  ∀ l, new.getLsbD l = (old.getLsbD l || (g.isMember l && f l))

/-- The sticky flags of new are those of g with the flags that fl gives in the lanes of ls raised, in member lanes only
(R41, R42, R136). -/
structure RaisedFlags (g new : Group) (ls : List Nat) (fl : Nat → Flg) : Prop where
  nv : Raised g g.fpxNV new.fpxNV fun l => ls.contains l && (fl l).nv
  dz : Raised g g.fpxDZ new.fpxDZ fun l => ls.contains l && (fl l).dz
  ov : Raised g g.fpxOF new.fpxOF fun l => ls.contains l && (fl l).ov
  uf : Raised g g.fpxUF new.fpxUF fun l => ls.contains l && (fl l).uf
  nx : Raised g g.fpxNX new.fpxNX fun l => ls.contains l && (fl l).nx

end Sys2Proof.Machine
end

