-- ==== Sys2Proof/Certificates/Slice0/Obligations.lean ====
section
/-! DEFINITION. What the provers are to prove of the model: statements from the rules of spec/, with the tables of rules
they are made of (namespace Sys2Proof.Rules). -/

namespace Sys2Proof.Rules

open Sys2Proof.Machine

/-! Integer instructions (R286 to R296). -/

/-- What R286, R288 and R290 say of a result sub-element r of width n of an arithmetic instruction: x and y are the
sub-elements of a and b (z where there is no b), c the old one of d. -/
def arith : Instr → Option (Width × GReg × GReg × GReg × (Nat → Nat → Nat → Nat → Nat → Prop))
  | .iadd w d a b => some (w, d, a, b, fun n x y _ r => r = (x + y) % 2 ^ n)
  | .isub w d a b => some (w, d, a, b, fun n x y _ r => r = (x + (2 ^ n - y)) % 2 ^ n)
  | .imul w d a b => some (w, d, a, b, fun n x y _ r => r = x * y % 2 ^ n)
  | .imulhs w d a b => some (w, d, a, b, fun n x y _ r => sext n r = sext n x * sext n y / (2 ^ n : Nat))
  | .imulhn w d a b => some (w, d, a, b, fun n x y _ r => r = x * y / 2 ^ n)
  | .imad w d a b => some (w, d, a, b, fun n x y c r => r = (x * y + c) % 2 ^ n)
  | .imins w d a b => some (w, d, a, b, fun n x y _ r => (r = x ∨ r = y) ∧ sext n r ≤ sext n x ∧ sext n r ≤ sext n y)
  | .imaxs w d a b => some (w, d, a, b, fun n x y _ r => (r = x ∨ r = y) ∧ sext n x ≤ sext n r ∧ sext n y ≤ sext n r)
  | .iminn w d a b => some (w, d, a, b, fun _ x y _ r => (r = x ∨ r = y) ∧ r ≤ x ∧ r ≤ y)
  | .imaxn w d a b => some (w, d, a, b, fun _ x y _ r => (r = x ∨ r = y) ∧ x ≤ r ∧ y ≤ r)
  | .iabs w d a => some (w, d, a, .z, fun n x _ _ r => r = (sext n x).natAbs)
  | .popc w d a => some (w, d, a, .z, fun n x _ _ r => r = ((List.range n).filter x.testBit).length)
  | .clz w d a => some (w, d, a, .z, fun n x _ _ r => r ≤ n ∧ (∀ i < n, n - r ≤ i → x.testBit i = false)
      ∧ (r < n → x.testBit (n - 1 - r) = true))
  | .iadds w d a b => some (w, d, a, b, fun n x y _ r =>
      sext n r = max (-((2 ^ (n - 1) : Nat) : Int)) (min (((2 ^ (n - 1) : Nat) : Int) - 1) (sext n x + sext n y)))
  | .iaddn w d a b => some (w, d, a, b, fun n x y _ r => r = min (x + y) (2 ^ n - 1))
  | _ => none

/-- What R289 says of bit i of a result sub-element, and R290 of BREV and the bit fields: k is the shift count y[7:0]; p
and q are the field's position and its length cut off at the top. -/
def bitwise : Instr → Option (Width × GReg × GReg × GReg × (Nat → Nat → Nat → Nat → Nat → Bool))
  | .andR w d a b => some (w, d, a, b, fun _ x y _ i => x.testBit i && y.testBit i)
  | .orR w d a b => some (w, d, a, b, fun _ x y _ i => x.testBit i || y.testBit i)
  | .xorR w d a b => some (w, d, a, b, fun _ x y _ i => x.testBit i != y.testBit i)
  | .andnR w d a b => some (w, d, a, b, fun _ x y _ i => x.testBit i && !y.testBit i)
  | .shl w d a b => some (w, d, a, b, fun _ x y _ i => decide (y % 256 ≤ i) && x.testBit (i - y % 256))
  | .shr w d a b => some (w, d, a, b, fun n x y _ i => decide (i + y % 256 < n) && x.testBit (i + y % 256))
  | .sar w d a b => some (w, d, a, b, fun n x y _ i => x.testBit (min (i + y % 256) (n - 1)))
  | .rot w d a b => some (w, d, a, b, fun n x y _ i => x.testBit ((i + n - y % 256 % n) % n))
  | .brev w d a => some (w, d, a, .z, fun n x _ _ i => x.testBit (n - 1 - i))
  | .bfxs w d a b => some (w, d, a, b, fun n x y _ i =>
      let p := y % n
      let q := min (p + (y / n % n + 1)) n - p
      x.testBit (p + min i (q - 1)))
  | .bfxn w d a b => some (w, d, a, b, fun n x y _ i =>
      let p := y % n
      let q := min (p + (y / n % n + 1)) n - p
      decide (i < q) && x.testBit (p + i))
  | .bfi w d a b => some (w, d, a, b, fun n x y c i =>
      let p := y % n
      let q := min (p + (y / n % n + 1)) n - p
      if p ≤ i ∧ i < p + q then x.testBit (i - p) else c.testBit i)
  | _ => none

/-- What R287 and R288 say of IADDC, ISUBB and IMADW in a lane: the exact value t of sub-element i, its width, how many
there are, and when the carry or borrow is 1. -/
def carrying : Instr → Option (Nat × Nat × GReg × GReg × GReg × (Nat → Nat → Nat → Nat → Int) × (Nat → Int → Bool))
  | .iaddc w d a b => some (Width.bits w, 64 / Width.bits w, d, a, b, fun x y _ c => x + y + c,
      fun n t => decide ((2 ^ n : Nat) ≤ t))
  | .isubb w d a b => some (Width.bits w, 64 / Width.bits w, d, a, b, fun x y _ c => x - y - c, fun _ t => decide (t < 0))
  | .imadw d a b => some (64, 1, d, a, b, fun x y old c => (x % 2 ^ 32 : Nat) * (y % 2 ^ 32 : Nat) + old + c,
      fun n t => decide ((2 ^ n : Nat) ≤ t))
  | _ => none

/-- What R290, R291, R294, R295 and R296 say of a whole 64-bit result: x and y are a and b, old is d before. -/
def dwords : Instr → Option (GReg × GReg × GReg × (Dword → Dword → Dword → Dword → Prop))
  | .mov _ d a => some (d, a, .z, fun x _ _ r => r = x)
  | .prmb d a b => some (d, a, b, fun x y old r => ∀ j < 8,
      let s := sub y 8 j
      sub r 8 j = if s.testBit 7 then 0 else if s.testBit 3 then sub old 8 (s % 8) else sub x 8 (s % 8))
  | .addi d a k => some (d, a, .z, fun x _ _ r => r.toNat = (x.toNat + (k.signExtend 64).toNat) % 2 ^ 64)
  | .andi d a k => some (d, a, .z, fun x _ _ r => r = x &&& k.signExtend 64)
  | .ori d a k => some (d, a, .z, fun x _ _ r => r = x ||| k.signExtend 64)
  | .xori d a k => some (d, a, .z, fun x _ _ r => r = x ^^^ k.signExtend 64)
  | .shli d a k => some (d, a, .z, fun x _ _ r => ∀ i < 64, bit r i = (decide (k.toNat ≤ i) && bit x (i - k.toNat)))
  | .shri d a k => some (d, a, .z, fun x _ _ r => ∀ i < 64, bit r i = bit x (i + k.toNat))
  | .sari d a k => some (d, a, .z, fun x _ _ r => ∀ i < 64, bit r i = bit x (min (i + k.toNat) 63))
  | .movw d slot k => some (d, .z, .z, fun _ _ _ r => ∀ j < 4, sub r 16 j = if j = slot.val then k.toNat else 0)
  | .movk d slot k => some (d, .z, .z, fun _ _ old r => ∀ j < 4, sub r 16 j = if j = slot.val then k.toNat else sub old 16 j)
  | .lea d a b s => some (d, a, b, fun x y _ r => r.toNat = (x.toNat + y.toNat * 2 ^ s.val) % 2 ^ 64)
  | _ => none

/-- What R293 says of the eight bits of a predicate in a lane. -/
def plog : Instr → Option (PReg × PReg × PReg × (Bool → Bool → Bool))
  | .pand d a b => some (d, a, b, fun x y => x && y)
  | .por d a b => some (d, a, b, fun x y => x || y)
  | .pxor d a b => some (d, a, b, fun x y => x != y)
  | .pandn d a b => some (d, a, b, fun x y => x && !y)
  | .pnot d a => some (d, a, a, fun x _ => !x)
  | .pmov d a => some (d, a, a, fun x _ => x)
  | _ => none

/-- A compare of R292. -/
def compares (c : ICond) (n x y : Nat) : Prop :=
  match c with
  | .eq => x = y
  | .ne => x ≠ y
  | .lts => sext n x < sext n y
  | .les => sext n x ≤ sext n y
  | .gts => sext n x > sext n y
  | .ltn => x < y
  | .len => x ≤ y
  | .gtn => x > y

/-- How the result of a compare joins the old bit (R292, R304). -/
def joins (cb : Combine) (old res : Prop) : Prop :=
  match cb with
  | .set => res
  | .and => old ∧ res
  | .or => old ∨ res
  | .xor => ¬(old ↔ res)

/-- Sub-element j of register r of group g in a lane. -/
def el (g : Group) (r : GReg) (n l j : Nat) : Nat := sub (g.readR r l) n j

/-! Floating point (R297 to R305). -/

/-- What R298 to R303 make of the sub-elements x, y of a and b and c of d before, under a rounding mode and FTZ: the
value and the flags. -/
abbrev FpFun := Round → Bool → Nat → Nat → Nat → Nat × Flg

/-- Which operands a computing instruction reads, in the order of R44. -/
abbrev FpReads := Nat → Nat → Nat → List Nat

/-- The functions of R298, R301 and R303 on every format, which compute (R44): format, Q form, d, a, b, function,
operands. -/
def computing : Instr → Option (FpFmt × Bool × GReg × GReg × GReg × FpFun × FpReads)
  | .fadd f q d a b => some (f, q, d, a, b, fun m z x y _ => fpAdd f m z x y, fun x y _ => [x, y])
  | .fsub f q d a b => some (f, q, d, a, b, fun m z x y _ => fpSub f m z x y, fun x y _ => [x, y])
  | .fmul f q d a b => some (f, q, d, a, b, fun m z x y _ => fpMul f m z x y, fun x y _ => [x, y])
  | .fdiv f q d a b => some (f, q, d, a, b, fun m z x y _ => fpDiv f m z x y, fun x y _ => [x, y])
  | .ffma f q d a b => some (f, q, d, a, b, fun m z x y c => fpFused f m z false false x y c, fun x y c => [x, y, c])
  | .ffms f q d a b => some (f, q, d, a, b, fun m z x y c => fpFused f m z false true x y c, fun x y c => [x, y, c])
  | .fnma f q d a b => some (f, q, d, a, b, fun m z x y c => fpFused f m z true false x y c, fun x y c => [x, y, c])
  | .fscl f q d a b => some (f, q, d, a, b, fun m z x y _ => fpScale f m z x y, fun x _ _ => [x])
  | .frndn f q d a => some (f, q, d, a, .z, fun _ z x _ _ => fpRnd f .rn z x, fun x _ _ => [x])
  | .frndz f q d a => some (f, q, d, a, .z, fun _ z x _ _ => fpRnd f .rz z x, fun x _ _ => [x])
  | .frndp f q d a => some (f, q, d, a, .z, fun _ z x _ _ => fpRnd f .ru z x, fun x _ _ => [x])
  | .frndm f q d a => some (f, q, d, a, .z, fun _ z x _ _ => fpRnd f .rd z x, fun x _ _ => [x])
  | .frcp f q d a => some (f, q, d, a, .z, fun _ z x _ _ => fpRcp f z x, fun x _ _ => [x])
  | .frsq f q d a => some (f, q, d, a, .z, fun _ z x _ _ => fpRsq f z x, fun x _ _ => [x])
  | .fsqrt f q d a => some (f, q, d, a, .z, fun _ z x _ _ => fpSqrt f z x, fun x _ _ => [x])
  | .fexp2 f q d a => some (f, q, d, a, .z, fun m z x _ _ => fpExp2 f m z x, fun x _ _ => [x])
  | .flog2 f q d a => some (f, q, d, a, .z, fun _ z x _ _ => fpLog2 f z x, fun x _ _ => [x])
  | _ => none

/-- Bit n − 1 of a number of n bits. -/
def signBit (f : FpFmt) (x : Nat) : Bool := x.testBit (fpBits f - 1)

/-- The class of R302 of an encoding, told by its fields. -/
def classOf (f : FpFmt) (x : Nat) : Nat :=
  let e := x / 2 ^ fpFrac f % 2 ^ fpExp f
  let m := x % 2 ^ fpFrac f
  let neg := signBit f x
  if e = 2 ^ fpExp f - 1 ∧ m ≠ 0 then (if m.testBit (fpFrac f - 1) then 512 else 256)
  else if e = 2 ^ fpExp f - 1 then (if neg then 1 else 128)
  else if e = 0 ∧ m = 0 then (if neg then 8 else 16)
  else if e = 0 then (if neg then 4 else 32)
  else if neg then 2 else 64

/-! Rounding (R31 to R54, R68, R301). -/

/-- A magnitude x rounded to the integer n in a mode (R37): of a value with a sign. -/
def RoundsTo (mode : Round) (neg : Bool) (x : Rat) (n : Nat) : Prop :=
  let down := (n : Rat) ≤ x ∧ x < n + 1
  let up := (n : Rat) < x + 1 ∧ x ≤ n
  match mode with
  | .rn => x - n ≤ 1 / 2 ∧ n - x ≤ 1 / 2 ∧ (x - n = 1 / 2 ∨ n - x = 1 / 2 → n % 2 = 0)
  | .rz => down
  | .ru => if neg then down else up
  | .rd => if neg then up else down

/-- The magnitude of a finite encoding (R31). -/
def magOf (f : FpFmt) (x : Nat) : Rat :=
  let e := x / 2 ^ fpFrac f % 2 ^ fpExp f
  let m := x % 2 ^ fpFrac f
  let at_ (k : Nat) : Rat := 2 ^ ((k : Int) - fpBias f - fpFrac f)
  if e = 0 then (m : Rat) * at_ 1 else ((2 ^ fpFrac f + m : Nat) : Rat) * at_ e

/-- The encoding of a magnitude code with a sign. -/
def signed (f : FpFmt) (neg : Bool) (mag : Nat) : Nat := (if neg then 2 ^ (fpBits f - 1) else 0) + mag

/-- The codes of infinity and of the largest finite value, and the default NaN (R31, R32). -/
def infCode (f : FpFmt) : Nat := (2 ^ fpExp f - 1) * 2 ^ fpFrac f
/-- The default NaN. -/
def nanCode (f : FpFmt) : Nat := infCode f + 2 ^ (fpFrac f - 1)

/-- r is the encoding and the flags that a finite exact value of sign neg and magnitude a > 0 rounds to (R37 to R39): an
overflow takes the table of R38 in mode ovm, and a tiny result is flushed where ftz holds (R46). -/
def Rounded (f : FpFmt) (mode ovm : Round) (ftz neg : Bool) (a : Rat) (r : Nat × Flg) : Prop :=
  let p := fpFrac f
  let bias := fpBias f
  let largest := magOf f (infCode f - 1)
  let least : Rat := 2 ^ (1 - (bias : Int))
  ∃ (k : Int) (n0 : Nat), (2 : Rat) ^ k ≤ a ∧ a < 2 ^ (k + 1) ∧ RoundsTo mode neg (a / 2 ^ (k - p)) n0 ∧
    let top := (n0 : Rat) * 2 ^ (k - p)
    let inf := ovm = .rn ∨ (ovm = .ru ∧ neg = false) ∨ (ovm = .rd ∧ neg = true)
    (largest < top → r.2 = { ov := true, nx := true } ∧ (inf → r.1 = signed f neg (infCode f))
      ∧ (¬inf → r.1 = signed f neg (infCode f - 1)))
    ∧ (top < least → ftz = true → r = (signed f neg 0, { uf := true, nx := true }))
    ∧ (top ≤ largest → ftz = false ∨ least ≤ top → ∃ (n m : Nat),
      let q := max (k - p) (1 - bias - p)
      let v := (n : Rat) * 2 ^ q
      RoundsTo mode neg (a / 2 ^ q) n ∧ m < infCode f ∧ magOf f m = v
        ∧ r = (signed f neg m, { uf := decide (top < least ∧ v ≠ a), nx := decide (v ≠ a) }))

/-- A number that is no NaN: an infinity, or a finite value with a sign that zeros have as well. -/
structure FpTerm where
  inf : Bool
  neg : Bool
  val : Rat

/-- The number of an encoding (R31, R32), flushed first where ftz holds (R46). -/
def termOf (f : FpFmt) (ftz : Bool) (x : Nat) : FpTerm :=
  let sub := x / 2 ^ fpFrac f % 2 ^ fpExp f = 0
  let neg := signBit f x
  let mag := if ftz = true ∧ sub then 0 else magOf f x
  { inf := x % 2 ^ (fpBits f - 1) = infCode f, neg := neg, val := if neg then -mag else mag }

/-- With the other sign where asked. -/
def FpTerm.flip (t : FpTerm) (b : Bool) : FpTerm := if b then { t with neg := !t.neg, val := -t.val } else t

/-- The product of two numbers, none for zero times infinity (R45). -/
def FpTerm.times (t u : FpTerm) : Option FpTerm :=
  if (t.inf = true ∧ u.inf = false ∧ u.val = 0) ∨ (u.inf = true ∧ t.inf = false ∧ t.val = 0) then none
  else some { inf := t.inf || u.inf, neg := t.neg != u.neg, val := t.val * u.val }

/-- A number delivered in a format: an infinity and a zero as they are, another value rounded. -/
def Delivered (f : FpFmt) (mode : Round) (ftz : Bool) (t : FpTerm) (r : Nat × Flg) : Prop :=
  if t.inf then r = (signed f t.neg (infCode f), {})
  else if t.val = 0 then r = (signed f t.neg 0, {})
  else Rounded f mode mode ftz t.neg t.val.abs r

/-- The sum of two numbers (R37, R40, R45): infinities of unlike sign are invalid; an exact zero takes the sign of R40. -/
def Summed (f : FpFmt) (mode : Round) (ftz : Bool) (t u : FpTerm) (r : Nat × Flg) : Prop :=
  if t.inf && u.inf then
    r = if t.neg = u.neg then (signed f t.neg (infCode f), {}) else (nanCode f, { nv := true })
  else if t.inf || u.inf then r = (signed f (if t.inf then t.neg else u.neg) (infCode f), {})
  else
    let v := t.val + u.val
    let zeros := t.val = 0 ∧ u.val = 0 ∧ t.neg = u.neg
    Delivered f mode ftz
      { inf := false, neg := if v = 0 then (if zeros then t.neg else mode = .rd) else v < 0, val := v } r

/-- With the sat bit a finite value that overflows is the largest of the format (R48, R259). -/
def Clamped (f : FpFmt) (sat neg : Bool) (r0 r : Nat × Flg) : Prop :=
  r = if sat = true ∧ r0.2.ov = true then (signed f neg (infCode f - 1), r0.2) else r0

/-- The unscaled magnitude of a D8 code below 128 (R34). -/
def d8Value (m : Nat) : Rat :=
  let lin (w : Nat) (e : Nat) : Rat := ((w : Rat) + 9 * ((m % w : Nat) : Rat)) / w * 10 ^ e
  if 64 ≤ m then lin 16 (3 + m / 16 % 4)
  else if 32 ≤ m then lin 16 (if m < 48 then 2 else 7)
  else if 16 ≤ m then lin 8 (if m < 24 then 1 else 8)
  else if 8 ≤ m then lin 4 (if m < 12 then 0 else 9)
  else if 4 ≤ m then lin 4 10
  else if m = 3 then 1 / 2
  else if m = 2 then 1 / 4
  else if m = 1 then 1 / 8
  else 0

/-- A value into D8 at a scale (R53): beyond the largest code it saturates, else the nearest code, of two the even one. -/
def IntoD8 (scale : Int) (v : Rat) (r : Nat × Flg) : Prop :=
  let size (c : Nat) : Rat := d8Value c * 2 ^ scale
  let off (c : Nat) : Rat := (v.abs - size c).abs
  if v = 0 then r = (0, {})
  else if size 7 < v.abs then r = (if v < 0 then 0x87 else 0x07, { ov := true, nx := true })
  else ∃ c < 128, (∀ d < 128, d ≠ c → off c < off d ∨ (off c = off d ∧ c % 2 = 0))
    ∧ r = if c = 0 then (0, { uf := true, nx := true })
      else ((if v < 0 then 128 + c else c), { nx := decide (off c ≠ 0) })

/-- The least integer of a format, and the largest (R30). -/
def least (f : NumFmt) : Int :=
  match f with
  | .int8 | .int16 | .int32 | .int64 => -(2 ^ (numBits f - 1) : Nat)
  | _ => 0
/-- The largest. -/
def largest (f : NumFmt) : Int :=
  match f with
  | .int8 | .int16 | .int32 | .int64 => (2 ^ (numBits f - 1) : Nat) - 1
  | _ => (2 ^ numBits f : Nat) - 1

/-- An integer format. -/
def IntFmt (f : NumFmt) : Prop := numFp f = none ∧ f ≠ .d8

/-- A value into an integer format (R50): rounded, and saturated where it does not fit. -/
def IntoInt (f : NumFmt) (mode : Round) (v : Rat) (r : Nat × Flg) : Prop :=
  ∃ n : Nat, RoundsTo mode (v < 0) v.abs n ∧
    let z : Int := if v < 0 then -n else n
    r = if z < least f then (imod (numBits f) (least f), { nv := true })
      else if largest f < z then (imod (numBits f) (largest f), { nv := true })
      else (imod (numBits f) z, { nx := decide ((n : Rat) ≠ v.abs) })

/-- What a source encoding of a conversion stands for (R30, R32, R35): not a value, an infinity or a number. -/
inductive CvtSrc where
  | nan
  | num (t : FpTerm)

/-- The integer of an encoding of an integer format. -/
def intOf (f : NumFmt) (x : Nat) : Int :=
  match f with
  | .int8 | .int16 | .int32 | .int64 => sext (numBits f) x
  | _ => x

/-- Reads an encoding x of a format; D8 at a scale. -/
def cvtSrc (f : NumFmt) (scale : Int) (x : Nat) : CvtSrc :=
  match numFp f with
  | some fp => if fpIsNaN fp x then .nan else .num (termOf fp false x)
  | none =>
    if f = .d8 then
      (if x = 0x80 then .nan
       else .num { inf := false, neg := 128 ≤ x, val := (if 128 ≤ x then -1 else 1) * (d8Value (x % 128) * 2 ^ scale) })
    else .num { inf := false, neg := intOf f x < 0, val := (intOf f x : Rat) }

/-- What a source becomes in a format other than its own (R48 to R51, R53, R54). -/
def Becomes (dst : NumFmt) (mode : Round) (sat : Bool) (scale : Int) (t : FpTerm) (r : Nat × Flg) : Prop :=
  match numFp dst with
  | some fp => ∃ r0, Delivered fp mode false t r0 ∧ Clamped fp sat t.neg r0 r
  | none =>
    if dst = .d8 then
      (if t.inf then r = (if t.neg then 0x87 else 0x07, { ov := true, nx := true }) else IntoD8 scale t.val r)
    else if t.inf then r = (imod (numBits dst) (if t.neg then least dst else largest dst), { nv := true })
    else IntoInt dst mode t.val r

/-- What R299, R300 and R302 say of FMIN, FMAX and the instructions that move bits: the value r and NV for sub-elements x
and y of width n. -/
def moving : Instr → Option (FpFmt × Bool × GReg × GReg × GReg × (Bool → Nat → Nat → Nat → Bool → Prop))
  | .fabs f q d a => some (f, q, d, a, .z, fun _ x _ r nv => r = x % 2 ^ (fpBits f - 1) ∧ nv = false)
  | .fneg f q d a => some (f, q, d, a, .z, fun _ x _ r nv =>
      r % 2 ^ (fpBits f - 1) = x % 2 ^ (fpBits f - 1) ∧ signBit f r = !signBit f x ∧ nv = false)
  | .fcsgn f q d a b => some (f, q, d, a, b, fun _ x y r nv =>
      r % 2 ^ (fpBits f - 1) = x % 2 ^ (fpBits f - 1) ∧ signBit f r = signBit f y ∧ nv = false)
  | .fclass f q d a => some (f, q, d, a, .z, fun _ x _ r nv => r = classOf f x ∧ nv = false)
  | .fmin f q d a b => some (f, q, d, a, b, fun z x y r nv =>
      let x := ftzIn f z x
      let y := ftzIn f z y
      nv = (fpIsSNaN f x || fpIsSNaN f y)
        ∧ r = if fpIsNaN f x then (if fpIsNaN f y then fpQuieten f x else y) else if fpIsNaN f y then x
          else if ltVals (fpRead f x) (fpRead f y) then x else if ltVals (fpRead f y) (fpRead f x) then y
          else if signBit f x then x else y)
  | .fmax f q d a b => some (f, q, d, a, b, fun z x y r nv =>
      let x := ftzIn f z x
      let y := ftzIn f z y
      nv = (fpIsSNaN f x || fpIsSNaN f y)
        ∧ r = if fpIsNaN f x then (if fpIsNaN f y then fpQuieten f x else y) else if fpIsNaN f y then x
          else if ltVals (fpRead f x) (fpRead f y) then y else if ltVals (fpRead f y) (fpRead f x) then x
          else if signBit f x then y else x)
  | _ => none

/-- Does any of n sub-elements have a flag. -/
def anySub (n : Nat) (p : Nat → Bool) : Bool := (List.range n).any p

/-- The flags of n sub-elements together, none in a Q form (R41, R297). -/
def laneFlags (q : Bool) (n : Nat) (fl : Nat → Flg) : Flg :=
  { nv := !q && anySub n fun j => (fl j).nv, dz := !q && anySub n fun j => (fl j).dz,
    ov := !q && anySub n fun j => (fl j).ov, uf := !q && anySub n fun j => (fl j).uf,
    nx := !q && anySub n fun j => (fl j).nx }

/-- The condition of FSET and FSETS on two data (R304). -/
def relates (c : FCond) (f : FpFmt) (x y : Nat) : Prop :=
  let nan := fpIsNaN f x = true ∨ fpIsNaN f y = true
  let lt := ltVals (fpRead f x) (fpRead f y) = true
  let gt := ltVals (fpRead f y) (fpRead f x) = true
  match c with
  | .eq => ¬nan ∧ ¬lt ∧ ¬gt
  | .ne => nan ∨ lt ∨ gt
  | .lt => ¬nan ∧ lt
  | .le => ¬nan ∧ ¬gt
  | .gt => ¬nan ∧ gt
  | .ge => ¬nan ∧ ¬lt
  | .un => nan
  | .ord => ¬nan

/-- Does a compare raise NV: FSETS for any NaN, FSET for a signalling one (R304). -/
def trips (loud : Bool) (f : FpFmt) (x y : Nat) : Bool :=
  if loud then fpIsNaN f x || fpIsNaN f y else fpIsSNaN f x || fpIsSNaN f y

/-! Between lanes (R306 to R310). -/

/-- The lane and sub-element that XLI reads for sub-element i of lane l, with m sub-elements a lane (R308). -/
def xli : Instr → Option (Width × GReg × GReg × (Nat → Nat → Nat → Nat × Nat))
  | .xliBfly w d a k sb => some (w, d, a, fun _ l i => (l ^^^ k.val, i ^^^ sb.val))
  | .xliBcast w d a k sb => some (w, d, a, fun _ _ _ => (k.val, sb.val))
  | .xliRotup w d a k sb => some (w, d, a, fun m l i =>
      let p := (l * m + i + 32 * m - (k.val * m + sb.val) % (32 * m)) % (32 * m)
      (p / m, p % m))
  | .xliRotdn w d a k sb => some (w, d, a, fun m l i =>
      let p := (l * m + i + k.val * m + sb.val) % (32 * m)
      (p / m, p % m))
  | _ => none

/-- The lane of its quad that a lane reads (R309). -/
def quads : Instr → Option (GReg × GReg × (Nat → Nat))
  | .qxh d a => some (d, a, fun r => r ^^^ 1)
  | .qxv d a => some (d, a, fun r => r ^^^ 2)
  | .qxd d a => some (d, a, fun r => r ^^^ 3)
  | .qbc0 d a => some (d, a, fun _ => 0)
  | .qbc1 d a => some (d, a, fun _ => 1)
  | .qbc2 d a => some (d, a, fun _ => 2)
  | .qbc3 d a => some (d, a, fun _ => 3)
  | _ => none

/-- What is read of register a in lane k: an inactive lane's vector register is not read (R306). -/
abbrev lends (g : Group) (a : GReg) (k : Nat) : Prop := (∀ n, a ≠ .v n) ∨ g.active.getLsbD k = true

/-- Lane l is an active member whose predicate p has bit 0 set (R310). -/
abbrev votes (g : Group) (p : PReg) (l : Nat) : Prop := g.isMember l = true ∧ (g.readP p l).getLsbD 0 = true

/-! Special registers (R257 to R259, R363). -/

/-- What FMT may hold (R259). -/
abbrev fmtFits (v : Dword) : Prop :=
  bits v 63 36 = 0 ∧ bits v 31 30 = 0 ∧ bits v 3 0 ≤ 12 ∧ bits v 7 4 ≤ 12 ∧ bits v 35 32 ≤ 12

/-- What GANG may hold (R363): MODE 0 with the other fields 0; 1 and 2 with two or four members; 3 with four. -/
abbrev gangFits (v : Dword) : Prop :=
  (bits v 1 0 = 0 ∧ bits v 3 2 = 0 ∧ bits v 5 4 = 0 ∧ bits v 12 8 = 0)
  ∨ ((bits v 1 0 = 1 ∨ bits v 1 0 = 2) ∧ (bits v 3 2 = 1 ∨ bits v 3 2 = 2) ∧ bits v 5 4 < 2 ^ bits v 3 2)
  ∨ (bits v 1 0 = 3 ∧ bits v 3 2 = 2)

/-- HARVEST of a die, as a core of another reads it (R18, R21): every core is unusable in the other partition. -/
def harvestWord (s : State) (reader die : Nat) : Dword :=
  if partOfDie s die = partOfDie s reader then
    dw ((List.range 40).map fun i => if (agetD s.fuse die 0).getLsbD i || decide (die * 40 + i ∈ s.retired) then 2 ^ i else 0).sum
  else dw (2 ^ 40 - 1)

/-- Eight logical cores of the table of R19, as a core of a die reads them: those of the other partition are 0xFF (R21). -/
def ltpWord (s : State) (reader j : Nat) : Dword :=
  dw ((List.range 8).map fun i =>
    let n := 8 * j + i
    (if partOfDie s (n / 36) = partOfDie s reader then ((s.ltp[n]?).getD 255).toNat else 255) * 256 ^ i).sum

/-- LC0 to LC2 as MFS reads them (R153): ACTIVE and COUNT. -/
def lcWord (c : LoopCtr) : Dword := dw ((if c.active then 2 ^ 63 else 0) + c.count.toNat)

/-- The value of the special registers (R258), in a lane of a group of a block. -/
def sysReads (s : State) (g : Group) (b : Block) (lane : Nat) : Nat → Option Dword
  | 0x001 => some (g.exec.zeroExtend 64)
  | 0x002 => some (g.lmem.zeroExtend 64)
  | 0x003 => some g.fmt
  | 0x010 => some (g.fpxNV.zeroExtend 64)
  | 0x011 => some (g.fpxDZ.zeroExtend 64)
  | 0x012 => some (g.fpxOF.zeroExtend 64)
  | 0x013 => some (g.fpxUF.zeroExtend 64)
  | 0x014 => some (g.fpxNX.zeroExtend 64)
  | 0x020 => some (dw lane)
  | 0x021 => some (dw g.idx)
  | 0x022 => some (dw b.x)
  | 0x023 => some (dw b.y)
  | 0x024 => some (dw b.z)
  | 0x025 => some (dw (b.id / (headerOf s b.launch).csize))
  | 0x026 => some (dw b.rank)
  | 0x027 => (aget s.launches b.launch).map fun l => dw l.gx
  | 0x028 => (aget s.launches b.launch).map fun l => dw l.gy
  | 0x029 => (aget s.launches b.launch).map fun l => dw l.gz
  | 0x030 => some (dw b.lcore)
  | 0x031 => some (dw (b.core / 40))
  | 0x040 => some (lcWord g.lc0)
  | 0x041 => some (lcWord g.lc1)
  | 0x042 => some (lcWord g.lc2)
  | 0x050 => some (if (headerOf s b.launch).sigen then g.sig.zeroExtend 64 else 0)
  | 0x060 => some g.gang
  | 0x061 => some (dw g.wbase)
  | 0x062 => some (dw g.awbase)
  | 0x063 => some (dw (g.gmask.toNat * 2 ^ 32 + g.gheld * 2 ^ 22 + g.grem * 2 ^ 17 + (if g.inh then 64 else 0) + g.stack.length))
  | 0x064 => some g.mdata
  | 0x065 => some b.accin
  | 0x066 => some (g.ghold.zeroExtend 64)
  | 0x070 => some (dw (s.clock * 2 / 5))
  | 0x080 => some (g.trapCause.zeroExtend 64)
  | 0x081 => some g.trapPc
  | 0x082 => some g.trapVal
  | n =>
    if 0x100 ≤ n ∧ n ≤ 0x103 then some (harvestWord s (b.core / 40) (n - 0x100))
    else if 0x140 ≤ n ∧ n ≤ 0x151 then some (ltpWord s (b.core / 40) (n - 0x140))
    else if 0x152 ≤ n ∧ n ≤ 0x18F then some (BitVec.allOnes 64)
    else none

/-- The group after a write of v to a special register that takes it and holds it in the group (R258): the read-only bits
of each are left out. -/
def sysWrites (g : Group) (v : Dword) : Nat → Option Group
  | 0x001 => some { g with exec := v.truncate 32 }
  | 0x002 => some { g with lmem := v.truncate 32 }
  | 0x010 => some { g with fpxNV := v.truncate 32 }
  | 0x011 => some { g with fpxDZ := v.truncate 32 }
  | 0x012 => some { g with fpxOF := v.truncate 32 }
  | 0x013 => some { g with fpxUF := v.truncate 32 }
  | 0x014 => some { g with fpxNX := v.truncate 32 }
  | 0x040 => some { g with lc0 := { g.lc0 with count := v.truncate 32 } }
  | 0x041 => some { g with lc1 := { g.lc1 with count := v.truncate 32 } }
  | 0x042 => some { g with lc2 := { g.lc2 with count := v.truncate 32 } }
  | 0x064 => some { g with mdata := v }
  | 0x080 => some { g with trapCause := v.truncate 8 }
  | 0x081 => some { g with trapPc := (v &&& 0x00FFFFFFFFFFFFFC) }
  | 0x082 => some { g with trapVal := v }
  | _ => none

/-- The selectors that only read, in the group's own block and launch: a write leaves everything as it was (R258). -/
def sysReadOnly : List Nat :=
  [0x020, 0x021, 0x022, 0x023, 0x024, 0x025, 0x026, 0x027, 0x028, 0x029, 0x030, 0x031, 0x061, 0x062, 0x063, 0x066, 0x070,
    0x100, 0x101, 0x102, 0x103, 0x140, 0x163]

/-! Control (R281 to R285). -/

/-- Bit 0 of a predicate in a lane. -/
abbrev votes0 (g : Group) (p : PReg) (l : Nat) : Prop := (g.readP p l).getLsbD 0 = true

/-- What BRA and BRL decide (R281): taken or not. -/
def decides (g : Group) : Instr → Option (Prop × BitVec 21)
  | .bra p n off => some ((∃ l ∈ g.lanesOn, votes0 g p l) ↔ n = false, off)
  | .brl p n off => some ((∀ l ∈ g.lanesOn, votes0 g p l) ↔ n = false, off)
  | _ => none

/-- The target of a B-format branch (R245): the next instruction plus four times the offset. -/
def target (pc : Dword) (off : BitVec 21) : Dword := pc + 4 + off.signExtend 64 * 4

/-- The body of a loop at the next instruction, of len instructions, lies within that of an active loop (R152). -/
abbrev within (g : Group) (len : Nat) (c : LoopCtr) : Prop :=
  c.active = true → c.start.toNat ≤ (g.pc + 4).toNat ∧ (g.pc + 4).toNat + 4 * len ≤ c.start.toNat + 4 * c.len

/-- Counter, length and count of LOOP and LOOPI (R152, R283). -/
def loops (g : Group) : Instr → Option (Nat × Nat × Nat)
  | .loop lc len1 a => some (lc.val, len1.toNat + 1, bits (g.readS a) 31 0)
  | .loopi lc len1 n => some (lc.val, len1.toNat + 1, if n = 0 then 65536 else n.toNat)
  | _ => none

/-! Traps (R392 to R394). -/

/-- The code, value and return address that an instruction that traps for its own sake hands over (R273). -/
def traps (g : Group) : Instr → Option (BitVec 8 × Dword × Dword)
  | .trap code a => some (BitVec.ofNat 8 code.val, (g.readOne a).getD 0, g.pc + 4)
  | .bkpt => some (0x21, 0, g.pc)
  | _ => none

/-- A group that has entered its handler (R393, R144): the trap registers written, the span held, INH set, the program
counter at the handler, every pending result landed and its promise counted on (R150), the hash 0 (R157), and everything
else of the group, EXEC, LMEM, FMT, the stack, the loops, the windows and the flags among it, as it stood. -/
structure Entered (sigen : Bool) (g h : Group) (code : BitVec 8) (v pc handler : Dword) : Prop where
  cause : h.trapCause = code
  value : h.trapVal = v
  back : h.trapPc = pc &&& 0x00FFFFFFFFFFFFFC
  held : h.gheld = g.grem - 1 ∧ h.ghold = (if g.grem ≤ 1 then (if g.grem = 0 then g.gmask else 0) else g.gmask)
  open_ : h.grem = 0 ∧ h.gmask = 0
  inhibited : h.inh = true ∧ h.routine = .handler
  at_ : h.pc = handler
  landed : (h.vregs, h.sregs, h.preds) = ((drain (g, [])).1.vregs, (drain (g, [])).1.sregs, (drain (g, [])).1.preds)
  promises : h.pend = (g.pend.map fun p => { p with left := p.left - 1, landed := true, vw := [], sw := [], pw := [], lw := [] }).filter
    fun p => p.left != 0
  hash : (sigen = false → h.sig = g.sig) ∧ (sigen = true → h.sig.truncate 16 = 0#16 ∧ h.sig.getLsbD 16 = g.sig.getLsbD 16)
  goes : h.st = .running ∧ h.wings = [] ∧ h.staging = false ∧ h.wait = none ∧ h.fenceAt = none ∧ h.stalled = false
    ∧ h.held = none ∧ h.region = none
  arrived : g.wait = none → h.synced = g.synced
  rest : { h with
    trapCause := g.trapCause, trapVal := g.trapVal, trapPc := g.trapPc, gheld := g.gheld, ghold := g.ghold, grem := g.grem
    gmask := g.gmask, inh := g.inh, routine := g.routine, pc := g.pc, vregs := g.vregs, sregs := g.sregs, preds := g.preds
    pend := g.pend, sig := g.sig, st := g.st, wings := g.wings, staging := g.staging, wait := g.wait, fenceAt := g.fenceAt
    stalled := g.stalled, held := g.held, region := g.region, synced := g.synced, lost := g.lost
    lastIssue := g.lastIssue } = g


/-! Memory (R312 to R322, R178, R232). -/

/-- Nothing is on its way to memory: no update buffered, no write posted, no request staged or held at a quarter, and each
quarter is in a state that its table has (R203, R207). -/
structure Calm (s : State) : Prop where
  upd : s.upd = []
  posted : s.posted = []
  still : ∀ e ∈ s.dir, e.2.staged = none ∧ e.2.held = []
  known : ∀ e ∈ s.dir, e.2.st < min 16 (protoTable s (e.1 * 32 % 2 ^ 52)).ns

/-- An access of n bytes of kind k at va reaches its memory through translation t: its checks pass (R313), the page is in
HBM or in host memory that the block's partition reaches, it is neither OBSERVED nor REDUCE, holds no error, and is no part
of the page tables. -/
structure Reaches (s : State) (b : Block) (k : AccKind) (n : Nat) (va : Dword) (t : Tr) : Prop where
  chk : laneChk s b.ctx k n va = .ok t
  home : (paKind t.pa = .hbm ∨ paKind t.pa = .host) ∧ wayTo s (partOfDie s (b.core / 40)) t.pa = .free
  plain : t.observed = false ∧ t.reduce = false
  sound : inError s t.pa n = false
  data : inTables t.pa = false

/-- Acknowledgements that come in from state st on lead into a stable state, and present nothing again (R204). -/
def Settles (t : CohTable) : Nat → List Nat → Prop
  | st, [] => t.isStable st = true
  | st, a :: l => (t.at st a).has 24 = false ∧ Settles t (t.at st a).next l

/-- The protocol in force at an address has no ERR for an event, in any state (R208, R211); a loaded one has no WAIT for it
either, and leaves no quarter unsettled by it (R204), which a standard one never does (R213). -/
def Answers (s : State) (pa ev : Nat) : Prop :=
  let t := protoTable s pa
  (∀ st, (CohTable.at t st ev).has 25 = false)
    ∧ (paKind pa = .hbm → 5 ≤ protoId s pa → ∀ st < 16,
      (CohTable.at t st ev).has 22 = false ∧ Settles t (CohTable.at t st ev).next (CohTable.at t st ev).acks)

/-- The protocol in force at an address of HBM answers an event, and one that brings data performs it: a standard table does
(R213), another where its entries for the event move data (R208). -/
def Takes (s : State) (pa ev : Nat) : Prop :=
  Answers s pa ev ∧ (paKind pa = .hbm → ev ∈ [evWthr, evAtom, evPutm, evNcwr] →
    protoId s pa < 5 ∨ ∀ st < 16, (CohTable.at (protoTable s pa) st ev).moves = true)

/-- The event as which an integer update comes home: ATOM under ACCUM (R210). -/
def updEv (s : State) (pa : Nat) : Nat := if protoId s pa = 4 then evAtom else evPutm

/-- A lane's access reaches its memory, where the protocol takes the events that its kind raises there (R210), or
finds its page absent and has a residency predicate to say so (R229). -/
def Passes (s : State) (b : Block) (k : AccKind) (n : Nat) (evs : List Nat) (f : PReg) (va : Dword) : Prop :=
  (laneChk s b.ctx k n va = .absent ∧ f ≠ 15) ∨ ∃ t, Reaches s b k n va t ∧ ∀ ev ∈ evs, Takes s t.pa ev

/-- The events a store may raise (R210). -/
def storeEvs : List Nat := [evGetx, evUpgr, evWthr]

/-- t is s with directory entries and counts of refused requests moved on, its bytes given by read, and group k as it
stands in t. -/
structure MemNext (s t : State) (k : Nat) (new : Group) (read : Nat → Nat → Byte) : Prop where
  rest : t = { s with mem := t.mem, dir := t.dir, cohErrs := t.cohErrs, freeCtr := t.freeCtr, upd := t.upd,
                      groups := aset s.groups k new }
  bytes : ∀ key pa, readByte t key pa = read key pa

/-- A group watches a dword, which has not changed yet (R170). -/
def watches (x : Group) : Prop := ∃ i d, x.wait = some (i, .mem d false)

/-- y is group x, but that a dword it watches may have been tested: the wait over, and the test counted where the page is
OBSERVED (R170, R408, R409). -/
def MayWake (x y : Group) : Prop :=
  y = x ∨ (watches x ∧ { y with wait := x.wait, observed := x.observed } = x)

/-- The same of a group that there may be. -/
def Woken (x y : Option Group) : Prop :=
  (x = none → y = none) ∧ ∀ g, x = some g → ∃ h, y = some h ∧ MayWake g h

/-- Byte i of a location of translation t is the byte at an address. -/
def hits (t : Tr) (n key pa : Nat) : Prop := ∃ i < n, memKey t.key (t.pa + i) = memKey key pa

/-- The lane whose residency flag lane l receives: its own, or that of the lane that acts for the group (R247, R248). -/
def flagLane (g : Group) (d : GReg) (l : Nat) : Nat :=
  match d with
  | .s _ => (g.lanesOn.head?).getD 0
  | _ => l

/-- A flag is 0xFF where an active member lane found its page absent, else 0x00 (R229, R136). -/
def flagIs (g : Group) (d : GReg) (chk : Nat → LaneChk) (l : Nat) (v : BitVec 8) : Prop :=
  let m := flagLane g d l
  (g.isMember m = true ∧ chk m = .absent → v = 255) ∧ (¬(g.isMember m = true ∧ chk m = .absent) → v = 0)

/-- new is g with d written with values and f with flags, and nothing else changed. -/
def RegAndFlags (g new : Group) (d : GReg) (f : PReg) (val : Nat → Dword → Prop) (flag : Nat → BitVec 8 → Prop) : Prop :=
  WroteReg g new d val ∧ WrotePred g new f flag ∧ new.shell = g.shell

/-- Loads (R315): bytes, whether the sign is extended, d, a, f. -/
def loads : Instr → Option (Nat × Bool × GReg × GReg × PReg)
  | .ld .b64 _ d a f _ => some (8, false, d, a, f)
  | .ld .n32 _ d a f _ => some (4, false, d, a, f)
  | .ld .s32 _ d a f _ => some (4, true, d, a, f)
  | .ldx .n8 _ d a f _ => some (1, false, d, a, f)
  | .ldx .s8 _ d a f _ => some (1, true, d, a, f)
  | .ldx .n16 _ d a f _ => some (2, false, d, a, f)
  | .ldx .s16 _ d a f _ => some (2, true, d, a, f)
  | _ => none

/-- v holds n bytes, the first lowest, and above them zeros or copies of their top bit (R3, R315). -/
def holdsBytes (n : Nat) (signed : Bool) (byte : Nat → Byte) (v : Dword) : Prop :=
  (∀ i < n, sub v 8 i = (byte i).toNat) ∧ ∀ i < 64, 8 * n ≤ i → bit v i = (signed && bit v (8 * n - 1))

/-- Stores (R315): bytes, d, a, f. -/
def stores : Instr → Option (Nat × GReg × GReg × PReg)
  | .st .b64 _ d a f _ => some (8, d, a, f)
  | .st .b32 _ d a f _ => some (4, d, a, f)
  | .stx .b8 _ d a f _ => some (1, d, a, f)
  | .stx .b16 _ d a f _ => some (2, d, a, f)
  | _ => none

/-- What memory reads once the lanes ls have stored n bytes each through their translations: the highest lane that names a
byte stays (R180). -/
structure Stored (s : State) (ls : List Nat) (n : Nat) (chk : Nat → LaneChk) (data : Nat → Nat → Byte)
    (read : Nat → Nat → Byte) : Prop where
  written : ∀ l ∈ ls, ∀ t, chk l = .ok t → ∀ i < n,
    (∀ m ∈ ls, l < m → ∀ u, chk m = .ok u → ¬hits u n t.key (t.pa + i)) → read t.key (t.pa + i) = data l i
  kept : ∀ key pa, (∀ l ∈ ls, ∀ t, chk l = .ok t → ¬hits t n key pa) → read key pa = readByte s key pa

/-- Byte i of a dword. -/
def byteOf (v : Dword) (i : Nat) : Byte := BitVec.ofNat 8 (sub v 8 i)

/-- Atomics (R319, R320): operation, bytes, d, operand block, f. -/
def atoms : Instr → Option (AtomOp × Nat × GReg × BReg × PReg)
  | .atomAdd d a f _ => some (.add, 8, d, a, f)
  | .atomMins d a f _ => some (.mins, 8, d, a, f)
  | .atomMaxs d a f _ => some (.maxs, 8, d, a, f)
  | .atomMinn d a f _ => some (.minn, 8, d, a, f)
  | .atomMaxn d a f _ => some (.maxn, 8, d, a, f)
  | .atomAnd d a f _ => some (.and, 8, d, a, f)
  | .atomOr d a f _ => some (.or, 8, d, a, f)
  | .atomXor d a f _ => some (.xor, 8, d, a, f)
  | .atomXchg d a f _ => some (.xchg, 8, d, a, f)
  | .atomCas d a f _ => some (.cas, 8, d, a, f)
  | .atomIncw d a f _ => some (.incw, 8, d, a, f)
  | .atomwAdd d a f _ => some (.add, 4, d, a, f)
  | .atomwMins d a f _ => some (.mins, 4, d, a, f)
  | .atomwMaxs d a f _ => some (.maxs, 4, d, a, f)
  | .atomwMinn d a f _ => some (.minn, 4, d, a, f)
  | .atomwMaxn d a f _ => some (.maxn, 4, d, a, f)
  | .atomwAnd d a f _ => some (.and, 4, d, a, f)
  | .atomwOr d a f _ => some (.or, 4, d, a, f)
  | .atomwXor d a f _ => some (.xor, 4, d, a, f)
  | .atomwXchg d a f _ => some (.xchg, 4, d, a, f)
  | .atomwCas d a f _ => some (.cas, 4, d, a, f)
  | .atomwIncw d a f _ => some (.incw, 4, d, a, f)
  | _ => none

/-- What R320 makes of an old value of w bits with the operands v and c. -/
def atomic (op : AtomOp) (w old v c r : Nat) : Prop :=
  match op with
  | .add => r = (old + v) % 2 ^ w
  | .mins => (r = old ∨ r = v) ∧ sext w r ≤ sext w old ∧ sext w r ≤ sext w v
  | .maxs => (r = old ∨ r = v) ∧ sext w old ≤ sext w r ∧ sext w v ≤ sext w r
  | .minn => (r = old ∨ r = v) ∧ r ≤ old ∧ r ≤ v
  | .maxn => (r = old ∨ r = v) ∧ old ≤ r ∧ v ≤ r
  | .and => ∀ i, r.testBit i = (old.testBit i && v.testBit i)
  | .or => ∀ i, r.testBit i = (old.testBit i || v.testBit i)
  | .xor => ∀ i, r.testBit i = (old.testBit i != v.testBit i)
  | .xchg => r = v
  | .cas => r = if old = c then v else old
  | .incw => r = if v ≤ old then 0 else old + 1

/-- With d = z, ADD to XOR return nothing, and are commutative updates (R178, R320). -/
def commutes (op : AtomOp) (d : GReg) : Prop := d = .z ∧ op ≠ .xchg ∧ op ≠ .cas ∧ op ≠ .incw

/-- n bytes of memory as a number, the first lowest (R3). -/
def numAt (s : State) (key pa : Nat) : Nat → Nat
  | 0 => 0
  | n + 1 => (readByte s key pa).toNat + 256 * numAt s key (pa + 1) n

/-- No two lanes that act name one line of memory. -/
def apart (ls : List Nat) (chk : Nat → LaneChk) : Prop :=
  ∀ l ∈ ls, ∀ m ∈ ls, l ≠ m → ∀ t u, chk l = .ok t → chk m = .ok u → t.pa / 128 ≠ u.pa / 128

/-! Scratchpad (R317, R318). -/

/-- LDS, LDSC, STS and STSC: whether the cluster is addressed, whether it stores, width, d, a, f. -/
def spads : Instr → Option (Bool × Bool × Width × GReg × GReg × PReg)
  | .lds w d a f _ => some (false, false, w, d, a, f)
  | .ldsc w d a f _ => some (true, false, w, d, a, f)
  | .sts w d a f _ => some (false, true, w, d, a, f)
  | .stsc w d a f _ => some (true, true, w, d, a, f)
  | _ => none

/-- A byte of a block's scratchpad. -/
def spadByte (s : State) (key o : Nat) : Byte := ((aget s.blocks key).map fun b => agetD b.spad o 0).getD 0

/-- A scratchpad access goes to offset o of the block at key: inside it, aligned, in no open region, no word of it in error,
the block placed. -/
structure InSpad (s : State) (g : Group) (b : Block) (remote : Bool) (n : Nat) (va : Dword) (key o : Nat) : Prop where
  zero : bits va 63 (if remote then 21 else 19) = 0
  off : o = bits va 18 0 ∧ o % n = 0 ∧ o + n ≤ b.spadKB * 1024
  rank : (if remote then bits va 20 19 else b.rank) < (headerOf s b.launch).csize
  found : ∃ to_ : Block, aget s.blocks key = some to_ ∧ to_.st = .placed ∧ regionAt to_ o = none ∧ spadInError to_ o n = false
    ∧ rankBlock s g.blk b (if remote then bits va 20 19 else b.rank) = some (key, to_)

/-! Long accumulators (R57 to R73, R343 to R352). -/

/-- The count of 2^−298 that a term adds (R63). -/
def addend : Option FVal → Int
  | some (.fin s m e) => termN s m e
  | _ => 0

/-- What terms add together. -/
def total (ts : List (Option FVal)) : Int := (ts.map addend).sum

/-- GUARD can hold its part of a value (R63). -/
abbrev fitsGuard (v : Int) : Prop := -128 ≤ guardOf v ∧ guardOf v ≤ 127

/-- Is a term a NaN. -/
def isNan : Option FVal → Bool
  | some (.nan _) => true
  | _ => false
/-- Is a term an infinity of a sign. -/
def isInf (neg : Bool) : Option FVal → Bool
  | some (.inf s) => s == neg
  | _ => false

/-- y is x with terms added one after the other (R63, R64): N exact while GUARD holds it, its low 640 bits exact always, the
status bits an OR over the terms. -/
structure Added (x y : LA) (ts : List (Option FVal)) : Prop where
  value : (∀ k ≤ ts.length, fitsGuard (x.n + total (ts.take k))) → y.n = x.n + total ts ∧ y.ovf = x.ovf
  low : low640 y.n = low640 (x.n + total ts)
  nan : y.nan = (x.nan || ts.any isNan)
  pinf : y.pinf = (x.pinf || ts.any (isInf false))
  ninf : y.ninf = (x.ninf || ts.any (isInf true))
  invalid : y.invalid = (x.invalid || ts.any Option.isNone)
  marks : ts ≠ [] → y.inUse = true ∧ y.dirty = true
  poison : y.bad = x.bad

/-- The value formats of LA additions for AF and BF (R345). -/
def laFormat (code : Nat) : Option NumFmt := if code = 0 ∨ code = 11 ∨ code = 12 then none else numOfCode code

/-- Sub-element j of x, a value of a format at a scale, exactly (R345). -/
def valueAt (f : NumFmt) (scale : Int) (x : Dword) (j : Nat) : FVal := exactOf f scale (sub x (numBits f) j)

/-- The terms of a lane: the values of a in AF, or their products with those of b in BF (R345, R347, R62). -/
def laTerm (fmt : Dword) (af : NumFmt) (x : Dword) (second : Option (NumFmt × Dword)) (neg : Bool) (j : Nat) : Option FVal :=
  let t := match second with
    | none => some (valueAt af (fmtAsc fmt) x j)
    | some (bf, y) => mulVals (valueAt af (fmtAsc fmt) x j) (valueAt bf (fmtBsc fmt) y j)
  if neg then t.map FVal.neg else t

/-- LA instructions that add (R347): a run of accumulators or one, negated, d, a, b. -/
def laAdds : Instr → Option (Bool × Bool × CReg × GReg × Option GReg)
  | .laadd d a => some (false, false, d, a, none)
  | .laadds d a => some (true, false, d, a, none)
  | .lasub d a => some (false, true, d, a, none)
  | .lamad d a b => some (true, false, d, a, some b)
  | .lamsb d a b => some (true, true, d, a, some b)
  | .ladot d a b => some (false, false, d, a, some b)
  | _ => none

/-- Are the formats of an adding instruction accepted (R345): with b, of one width. -/
abbrev laFits (fmt : Dword) (pair : Bool) (af bf : NumFmt) : Prop :=
  laFormat (bits fmt 3 0) = some af ∧ (pair = true → laFormat (bits fmt 7 4) = some bf ∧ numBits bf = numBits af)

/-- Index n lies in the window and the allotment (R343, R344). -/
abbrev allotted (g : Group) (b : Block) (n : Nat) : Prop := n ≤ 127 ∧ g.awbase + n < b.lapl

/-- An accumulator of a block in a lane, by window index. -/
def laOf (g : Group) (las : AMap LA) (n l : Nat) : LA := agetD las (32 * (g.awbase + n) + l) LA.zero

/-- Accumulators other than those of indices ns in the active lanes read as before. -/
def lasKept (g : Group) (old new : AMap LA) (ns : Nat → Prop) : Prop :=
  ∀ k, (∀ n, ns n → ∀ l ∈ g.lanesOn, k ≠ 32 * (g.awbase + n) + l) → agetD new k LA.zero = agetD old k LA.zero

/-- y holds x's value, resolved (R59, R65), with x's status. -/
def Resolved (x y : LA) : Prop :=
  y.n = x.n ∧ (∀ c ∈ y.car, c = 0) ∧ y.ovf = x.ovf ∧ y.nan = x.nan ∧ y.pinf = x.pinf ∧ y.ninf = x.ninf
    ∧ y.invalid = x.invalid

/-- s with the accumulators of group g's block as given. -/
def withLas (s : State) (g : Group) (las : AMap LA) : State :=
  { s with blocks := amod s.blocks g.blk fun b => { b with las := las } }

/-- The accumulators that an instruction reads are resolved where they stand (R65), the others are as they were. -/
structure ReadLas (g : Group) (old new : AMap LA) (reads : Nat → Nat → Prop) : Prop where
  read : ∀ n l, reads n l → Resolved (laOf g old n l) (laOf g new n l)
  kept : ∀ k, (∀ n l, reads n l → k ≠ 32 * (g.awbase + n) + l) → agetD new k LA.zero = agetD old k LA.zero

/-- y is x with the value and status of z merged in (R72). -/
structure Merged (x z y : LA) : Prop where
  value : fitsGuard (x.n + z.n) → y.n = x.n + z.n ∧ y.ovf = (x.ovf || z.ovf)
  beyond : ¬fitsGuard (x.n + z.n) → y.ovf = true
  low : low640 y.n = low640 (x.n + z.n)
  status : y.nan = (x.nan || z.nan) ∧ y.pinf = (x.pinf || z.pinf) ∧ y.ninf = (x.ninf || z.ninf)
    ∧ y.invalid = (x.invalid || z.invalid)
  marks : y.inUse = true ∧ y.dirty = true

/-- LA instructions that replace (R348, R349): the index written, the indices read, in which lanes, and what holds of lane
l's new accumulator y, old the accumulators before. -/
def laMoves (g : Group) (old : Nat → Nat → LA) : Instr → Option (Nat × List Nat × (Nat → Prop) × (Nat → LA → Prop))
  | .lamrg d a => some (d.val, [d.val, a.val], (· ∈ g.lanesOn), fun l y => Merged (old d l) (old a l) y)
  | .lamov d a => some (d.val, [a.val], (· ∈ g.lanesOn), fun l y =>
      Resolved (old a l) y ∧ y.inUse = true ∧ y.dirty = true)
  | .laneg d a => some (d.val, [a.val], (· ∈ g.lanesOn), fun l y =>
      (fitsGuard (-(old a l).n) → y.n = -(old a l).n ∧ y.ovf = (old a l).ovf) ∧ low640 y.n = low640 (-(old a l).n)
        ∧ y.pinf = (old a l).ninf ∧ y.ninf = (old a l).pinf ∧ y.nan = (old a l).nan ∧ y.invalid = (old a l).invalid
        ∧ y.inUse = true ∧ y.dirty = true)
  | .laxl d a b => some (d.val, [a.val],
      (fun k => g.active.getLsbD k = true ∧ ∃ l ∈ g.lanesOn, k = bits (g.readR b l) 4 0), fun l y =>
      let k := bits (g.readR b l) 4 0
      (g.active.getLsbD k = true → Resolved (old a k) y) ∧ (g.active.getLsbD k = false → y.n = 0 ∧ y.nan = false
        ∧ y.invalid = false ∧ y.pinf = false ∧ y.ninf = false ∧ y.ovf = false) ∧ y.inUse = true ∧ y.dirty = true)
  | .laxb d a k => some (d.val, [a.val], (· ∈ g.lanesOn), fun l y =>
      (g.active.getLsbD (l ^^^ k.val) = true → Merged (old a l) (old a (l ^^^ k.val)) y)
        ∧ (g.active.getLsbD (l ^^^ k.val) = false → Resolved (old a l) y) ∧ y.inUse = true ∧ y.dirty = true)
  | _ => none

/-- 128 bytes of memory. -/
def imageAt (s : State) (key pa : Nat) : List Byte := (List.range 128).map fun j => readByte s key (pa + j)

/-! Matrix passes (R356 to R362). -/

/-- Element (m, k) of an operand whose registers start at base, in a format of n bits (R358, R359): which register, lane
and sub-element holds it. -/
def elemAt (n : Nat) (transposed : Bool) (m k : Nat) : Nat × Nat × Nat :=
  let per := 64 / n
  if transposed then ((16 / per * k + m / per) / 32, (16 / per * k + m / per) % 32, m % per)
  else (k / per / 2, m + 16 * (k / per % 2), k % per)

/-- Its value: +0 in an inactive lane (R360). -/
def elemVal (g : Group) (base : VReg) (f : NumFmt) (scale : Int) (transposed : Bool) (m k : Nat) : FVal :=
  let at_ := elemAt (numBits f) transposed m k
  if g.active.getLsbD at_.2.1 then exactOf f scale (sub (g.readV (base.val + at_.1) at_.2.1) (numBits f) at_.2.2)
  else .fin false 0 0

/-- K and the width of a pass for the formats of A and B (R356, R357). -/
def passOf (af bf : NumFmt) : Option (Nat × Nat) :=
  if af = .fp32 ∧ bf = .fp32 then some (32, 16)
  else if (af = .fp16 ∨ af = .bf16) ∧ (bf = .fp16 ∨ bf = .bf16) then some (16, 32)
  else if (af = .d8 ∨ af = .int8 ∨ af = .nat8) ∧ (bf = .d8 ∨ bf = .int8 ∨ bf = .nat8) then some (8, 64)
  else none

/-- y is the element of C before, x, or a cleared one, with the sum c of a pass merged in or put in its place (R360). -/
def PassLeaves (clr : Bool) (x y : LA) (ts : List (Option FVal)) : Prop :=
  let start : Int := if clr then 0 else x.n
  ((∀ k ≤ ts.length, fitsGuard (total (ts.take k))) → fitsGuard (start + total ts) → y.n = start + total ts)
    ∧ y.nan = ((!clr && x.nan) || ts.any isNan) ∧ y.pinf = ((!clr && x.pinf) || ts.any (isInf false))
    ∧ y.ninf = ((!clr && x.ninf) || ts.any (isInf true)) ∧ y.invalid = ((!clr && x.invalid) || ts.any Option.isNone)
    ∧ y.inUse = true ∧ y.dirty = true ∧ y.bad = (!clr && x.bad)

/-! Synchronisation (R162 to R173). -/

/-- The barrier of an id, in the block or in the cluster (R162, R168). -/
def barOf (s : State) (b : Block) (blk : Nat) (clu : Bool) (id : Nat) : Bar :=
  if clu then clusterBar s b.clu id else namedBar (agetD s.blocks blk b) id

/-- A group's member number there: its index, or RANK × 32 + index. -/
def memberNum (g : Group) (b : Block) (clu : Bool) : Nat := if clu then b.rank * 32 + g.idx else g.idx

/-- The live members there (R167). -/
def liveOf (s : State) (g : Group) (b : Block) (clu : Bool) : BitVec 128 :=
  if clu then liveCluster s b.clu else liveBlock s g.blk

/-- How many barriers there are (R162, R168). -/
def barCount (b : Block) (clu : Bool) : Nat := if clu then 8 else b.barsN

/-- May a group arrive: the id exists, it is a member, and has not arrived in this phase (R164). -/
abbrev mayArrive (g : Group) (b : Block) (clu : Bool) (id : Nat) (x : Bar) : Prop :=
  id < barCount b clu ∧ x.mask.getLsbD (memberNum g b clu) = true ∧ x.arr.getLsbD (memberNum g b clu) = false

/-- With member m, have all live members of a barrier arrived (R164). -/
abbrev fillsPhase (x : Bar) (live : BitVec 128) (m : Nat) : Prop :=
  ∀ k < 128, x.mask.getLsbD k = true → live.getLsbD k = true → x.arr.getLsbD k = true ∨ k = m

/-- y is barrier x after the arrival of member m: the phase completes where it was the last, and gives its status to every
group counted in it (R164, R167). -/
structure ArrivedAt (x y : Bar) (live : BitVec 128) (m : Nat) : Prop where
  same : y.mask = x.mask ∧ y.seen = x.seen ||| (1#128 <<< m) ∧ agetD y.lph m 0 = x.phase
  others : ∀ k, k ≠ m → agetD y.lph k 0 = agetD x.lph k 0
  last : fillsPhase x live m → y.phase = x.phase + 1 ∧ y.arr = 0 ∧ y.abnd = false
    ∧ ∀ k < 128, y.lst.getLsbD k = if x.arr.getLsbD k = true ∨ k = m then !x.abnd else x.lst.getLsbD k
  more : ¬fillsPhase x live m → y.phase = x.phase ∧ y.arr = x.arr ||| (1#128 <<< m) ∧ y.abnd = x.abnd ∧ y.lst = x.lst

/-- An integer update of one naturally aligned location of HBM that can merge at home: its way is free, the location holds
no error and is no part of the page tables, and the protocol there takes it. -/
structure Mergeable (s : State) (u : Upd) : Prop where
  plain : u.cell = none ∧ u.note = none ∧ u.bad = false
  size : (u.size = 4 ∨ u.size = 8) ∧ u.pa % u.size = 0
  home : paKind u.pa = .hbm ∧ wayTo s (partOfDie s (u.core / 40)) u.pa = .free
  sound : inError s u.pa u.size = false ∧ inTables u.pa = false
  takes : Takes s u.pa (updEv s u.pa)
  calm : Calm { s with upd := [], posted := [] }

/-- Two updates lie in one line. -/
def sameLine (u v : Upd) : Prop := u.key = v.key ∧ u.pa / 128 = v.pa / 128

/-- Each of some updates has merged into the value that its location held, and no other byte has changed (R178, R320). -/
def MergedAtHome (s t : State) (us : List Upd) : Prop :=
  (∀ u ∈ us, ∃ x, atomic u.op (8 * u.size) (numAt s u.key u.pa u.size) (u.v.toNat % 2 ^ (8 * u.size)) 0 x
    ∧ ∀ i < u.size, readByte t u.key (u.pa + i) = BitVec.ofNat 8 (x / 256 ^ i))
  ∧ ∀ key pa, (∀ u ∈ us, ∀ i < u.size, memKey key pa ≠ memKey u.key (u.pa + i)) → readByte t key pa = readByte s key pa

/-- m is s once the updates buffered for group k have merged at their homes (R178): none is left; nothing of blocks,
clusters, contexts or queues changes, and of other groups only what a watch may (R170); where each can merge, and their
lines are apart, each has. -/
structure Releases (s m : State) (k : Nat) : Prop where
  nothing : (∀ u ∈ s.upd, u.grp ≠ k) → m = s
  gone : ∀ u ∈ m.upd, u.grp ≠ k
  rest : m = { s with
    mem := m.mem, bad := m.bad, latent := m.latent, frames := m.frames, dir := m.dir, upd := m.upd, lostUpd := m.lostUpd
    lostPeers := m.lostPeers, posted := m.posted, groups := m.groups, cohErrs := m.cohErrs, books := m.books, log := m.log
    ncOut := m.ncOut }
  woken : aRising s.groups = true → ∀ j, Woken (aget s.groups j) (aget m.groups j)
  merged : let mine := s.upd.filter fun u => u.grp == k
    (∀ u ∈ mine, Mergeable s u) → mine.Pairwise (fun u v => ¬sameLine u v) →
    (∀ u ∈ mine, ∀ v ∈ s.upd, v.grp ≠ k → ¬sameLine u v) →
    m = { s with mem := m.mem, dir := m.dir, groups := m.groups, upd := s.upd.filter fun u => u.grp != k }
      ∧ MergedAtHome s m mine

/-- Does a group share a barrier of group g: it is of g's block, or of its cluster (R162, R168). -/
def sharesBar (s : State) (g : Group) (b : Block) (clu : Bool) (h : Group) : Bool :=
  if clu then (aget s.blocks h.blk).map Block.clu == some b.clu else h.blk == g.blk

/-- t is m with barrier id as y; where its phase has completed, the urgency of the groups that share it is reset (R154,
R164, R168). -/
structure BarSet (m t : State) (g : Group) (b : Block) (clu : Bool) (id : Nat) (y : Bar) (filled : Prop) : Prop where
  rest : t = { m with
    blocks := if clu then m.blocks else amod m.blocks g.blk fun b => { b with bars := aset b.bars id y }
    clusters := if clu then amod m.clusters b.clu fun c => { c with bars := aset c.bars id y } else m.clusters
    groups := t.groups }
  open_ : ¬filled → t.groups = m.groups
  done : filled → ∀ k, aget t.groups k
    = (aget m.groups k).map fun h => if sharesBar m g b clu h then { h with urg := 0 } else h

/-- Arrivals at barriers. -/
def arrivals : Instr → Option (Bool × Fin 64)
  | .barArr id => some (false, id)
  | .cbarArr id => some (true, id)
  | _ => none

/-- Waits at barriers. -/
def barWaits : Instr → Option (Bool × PReg × Fin 64)
  | .barWait pd id => some (false, pd, id)
  | .cbarWait pd id => some (true, pd, id)
  | _ => none

/-- Arrivals that wait for the phase. -/
def barSyncs : Instr → Option (Bool × PReg × Fin 64)
  | .barSync pd id => some (false, pd, id)
  | .cbarSync pd id => some (true, pd, id)
  | _ => none

/-- The group stays at its instruction, BLOCKED (R159). -/
def Blocks (i : Instr) (s : State) (k : Nat) (g : Group) (w : Wait) : Prop :=
  ∃ t h, exec i s = .next t ∧ aget t.groups k = some h ∧ h.st = .blocked ∧ h.wait = some (i, w) ∧ h.pc = g.pc

/-- The group stays at its instruction, and issues it again. -/
def Stalls (i : Instr) (s : State) (k : Nat) (g : Group) : Prop :=
  ∃ t h, exec i s = .next t ∧ aget t.groups k = some h ∧ h.stalled = true ∧ h.held = some i ∧ h.pc = g.pc

/-! Queues of groups (R109, R331 to R335). -/

/-- Pushes (R331): queue register, first scalar register, registers less 1, and the TYPE that ECMD puts in. -/
def pushes : Instr → Option (QReg × Fin 16 × Fin 4 × Option Nat)
  | .qpush q a n1 => some (q, a, n1, none)
  | .ecpy q a n1 => some (q, a, n1, some 0x10)
  | .egath q a n1 => some (q, a, n1, some 0x11)
  | .escat q a n1 => some (q, a, n1, some 0x12)
  | .ercpy q a n1 => some (q, a, n1, some 0x13)
  | .efill q a n1 => some (q, a, n1, some 0x14)
  | .emig q a n1 => some (q, a, n1, some 0x15)
  | _ => none

/-- The dwords of a pushed record: registers from a on, then zeros, TYPE in the place of the lowest byte. -/
def isPushed (g : Group) (a n1 : Nat) (ty : Option Nat) (l : List Dword) : Prop :=
  l.length = 8 ∧ (∀ j, 1 ≤ j → j < 8 → dwd l j = if j ≤ n1 then g.readSn (a + j) else 0)
    ∧ bits (dwd l 0) 63 8 = bits (g.readSn a) 63 8 ∧ bits (dwd l 0) 7 0 = ty.getD (bits (g.readSn a) 7 0)

/-- new is g with a destination of the group written: a scalar whatever EXEC holds (R330). -/
def WroteOnce (g new : Group) (d : GReg) (v : Dword) : Prop :=
  match d with
  | .s n => new.readSn n = v ∧ (∀ m ≠ n.val, new.readSn m = g.readSn m) ∧ new.vregs = g.vregs
  | d => WroteReg g new d fun _ x => x = v

/-- new is g with the two dwords of a completion in d and the register after it (R332). -/
def WrotePair (g new : Group) (d : SReg) (x y : Dword) : Prop :=
  match d with
  | .z => new.sregs = g.sregs
  | .s n => new.readSn (n + 1) = y ∧ new.readSn n = x ∧ ∀ m, m ≠ n.val → m ≠ n.val + 1 → new.readSn m = g.readSn m

/-! Completion of an instruction (R142, R150, R152, R157). -/

/-- The body of loop n is active and ends at the group's instruction (R152). -/
abbrev loopEnds (g : Group) (n : Nat) : Prop :=
  (g.lc n).active = true ∧ (g.lc n).start.toNat + 4 * (g.lc n).len = g.pc.toNat + 4

/-- Loop n, which ends at the instruction, loops back: the loops started after it that end there too are over. -/
structure LoopsBack (g : Group) (n : Nat) : Prop where
  ends_ : loopEnds g n
  more : 1 < (g.lc n).count.toNat
  inner : ∀ m < 3, m ≠ n → loopEnds g m →
    (g.lc m).order < (g.lc n).order ∨ ((g.lc n).order < (g.lc m).order ∧ (g.lc m).count.toNat ≤ 1)

/-- A loop that is over. -/
abbrev isOver (c : LoopCtr) : Prop := c.active = false ∧ c.count = 0

/-- Sequential advance (R152): back to the start of the loop that is tested last, or to the next instruction; loops that
are over end. -/
structure Advanced (g h : Group) : Prop where
  back : ∀ n < 3, LoopsBack g n → h.pc = (g.lc n).start ∧ (h.lc n).active = true
    ∧ (h.lc n).count = (g.lc n).count - 1
    ∧ ∀ m < 3, m ≠ n → (loopEnds g m ∧ (g.lc n).order < (g.lc m).order → isOver (h.lc m))
      ∧ (¬(loopEnds g m ∧ (g.lc n).order < (g.lc m).order) → h.lc m = g.lc m)
  on_ : (∀ n < 3, loopEnds g n → (g.lc n).count.toNat ≤ 1) → h.pc = g.pc + 4
    ∧ ∀ n < 3, (loopEnds g n → isOver (h.lc n)) ∧ (¬loopEnds g n → h.lc n = g.lc n)

/-- An address in the body of active loop n. -/
abbrev inBody (g : Group) (n : Nat) (pc : Dword) : Prop :=
  (g.lc n).active = true ∧ (g.lc n).start.toNat ≤ pc.toNat ∧ pc.toNat < (g.lc n).start.toNat + 4 * (g.lc n).len

/-- A transfer to pc (R152): with one of the transfers that R152 names, the loops it leaves end. -/
structure Moved (i : Instr) (g h : Group) (pc : Dword) : Prop where
  at_ : h.pc = pc
  loops : ∀ n < 3, (endsLoops i = true ∧ inBody g n g.pc ∧ ¬inBody g n pc → isOver (h.lc n))
    ∧ (¬(endsLoops i = true ∧ inBody g n g.pc ∧ ¬inBody g n pc) → h.lc n = g.lc n)

/-- The hash of R157 after word w, over 16 bits. -/
def hashed (h : BitVec 16) (w : BitVec 32) : BitVec 16 :=
  h.rotateLeft 1 ^^^ (w >>> 16).truncate 16 ^^^ w.truncate 16

/-- Is register r of physical number or predicate number n among the results of an instruction with a lookahead. -/
def promisedV (i : Instr) (g : Group) (n : Nat) : Prop := ∃ m, m ∈ runNums (promised i).1.v ∧ n = g.wbase + m

/-- A group that has entered its handler or halted has an instruction's fault in its trap registers (R392). -/
def TrapSet (h : Group) (t : Trap) (v pc : Dword) : Prop :=
  h.trapCause = BitVec.ofNat 8 t.code ∧ h.trapVal = v ∧ h.trapPc = pc &&& 0x00FFFFFFFFFFFFFC

/-! Fetch (R242). -/

/-- The word at pc can be fetched through t (R218, R242): 56 bits of address, execute permission, key loaded, page there,
no error found, in memory that can be reached. -/
structure Fetches (s : State) (b : Block) (pc : Dword) (t : Tr) : Prop where
  high : bits pc 63 56 = 0
  page : walk s b.ctx pc.toNat = some t
  perm : t.perm &&& permX ≠ 0
  key : keyLoaded s t.key = true
  there : t.absentFor false = false
  sound : lateChk s b.core .load 4 pc t = none

/-- A group that issues the instruction at its pc when its turn comes: ready, waiting for nothing, the issue recorded where
its context logs it. s1 is the state after the scheduler's record. -/
structure Ready (s0 : State) (k : Nat) (s1 : State) (g : Group) (b : Block) : Prop where
  group : aget s0.groups k = some g
  block : aget s0.blocks g.blk = some b
  ready : readyGroup s0 g = true
  free : g.wait = none ∧ g.held = none
  noted : issueRecord { s0 with cur := k } k g b = (s1, true)

/-- What a step that begins in s adds around a meaning: what follows at once is settled, the code overwritten is noted
(R192), and the clock moves on. -/
def settled (s : State) : Host.Outcome State Fault Refusal → Host.Outcome State Fault Refusal
  | .next t => .next (tick (noteStale s (settle t)))
  | .fault f => .fault f
  | .refused r => .refused r

/-- A few words of the encoding, field by field from the tables of R243 to R255, with the instructions they stand for. -/
def words : List (BitVec 32 × Instr) :=
  [ -- SYS: NOP; TRAP 0x45 with s1; MTS of selector 0x001 from v3
    (0b000000_0000000_0000000_0000000_00000, .nop),
    (0b000000_0000000_1110001_1000101_00010, .trap 0x45 (.s 1)),
    (0b000000_0000011_0000000_0000001_01001, .mts 1 (.v 3)),
    -- BRA on p2, n = 1, offset -1; CALL +1; LOOPI LC1, 4 instructions, 7 times; RET
    (0b000100_0010_1_111111111111111111111, .bra 2 true (-1)),
    (0b001000_00000000000000000000000001, .call 1),
    (0b001011_01_00000011_0000000000000111, .loopi 1 3 7),
    (0b001001_0000000_0000000_0000000_00010, .ret),
    -- IADD.16 v1, v2, s0; ADDI v1, z, -2; MOVW v4, slot 3, 0xBEEF; PAND p1, p2, pt
    (0b010000_0000001_0000010_1110000_10_000, .iadd .w16 (.v 1) (.v 2) (.s 0)),
    (0b010110_0000001_0000000_111111111110, .addi (.v 1) .z (-2)),
    (0b011101_0000100_11_0_1011111011101111, .movw (.v 4) 3 0xBEEF),
    (0b010101_0000001_0000010_0001111_00000, .pand 1 2 15) ]

/-- More words: floating point, accumulators, the matrix unit, votes, memory. -/
def moreWords : List (BitVec 32 × Instr) :=
  [ -- FADD.64 quiet v1, v2, v3; ISET.LTS.AND p5, v1, v2 of 8 bits
    (0b100011_0000001_0000010_0000011_00000, .fadd .fp64 true (.v 1) (.v 2) (.v 3)),
    (0b010100_0101_010_0000001_0000010_11_001, .iset .lts .and .w8 5 (.v 1) (.v 2)),
    -- LAADD a127, v111; MMA a8, v16, v20 with t and lookahead 3; VANY p3, p4
    (0b101101_1111111_1101111_0000000_00001, .laadd 127 (.v 111)),
    (0b101111_0001000_0010000_0010100_1_0011, .mma 8 16 20 true 3),
    (0b110011_0000011_0000100_0000000_00000, .vany 3 4),
    -- LD of 32 bits signed, STREAM, v5 at v6, flags p7, lookahead 2; ST of 32 bits s1 at v6; LDS of 16 bits; ATOM.ADD on z
    (0b111000_0000101_0000110_0111_10_01_0010, .ld .s32 .stream (.v 5) (.v 6) 7 2),
    (0b111010_1110001_0000110_1111_01_00_0000, .st .b32 .dflt (.s 1) (.v 6) 15 0),
    (0b111100_0000101_0000110_0000_00_10_0000, .lds .w16 (.v 5) (.v 6) 0 0),
    (0b111101_0000000_0000110_1110_0000_1111, .atomAdd .z (.v 6) 14 15) ]

/-! Records of queues (R96 to R112, R336 to R341). -/

/-- Record r stands at the head of queue q, may be performed there (R110), has a TYPE that the queue accepts, and is
well-formed by ok; l are the records behind it. -/
structure Head (s : State) (q : QRef) (ty : Nat) (ok : QRec → Bool) (r : QRec) (l : List QRec) : Prop where
  recs : queueRecs s q = r :: l
  may : startable s q = true
  type_ : recType r = ty
  takes : queueAccepts s q ty = true
  event : eventOk r = true
  form : ok r = true

/-- An access of n bytes by the agent of queue q at va in context c reaches its memory through t: mapped, permitted, key
loaded, page there, in HBM or in host memory that the queue's partition reaches, not OBSERVED, not REDUCE where it is
written, without errors, its frame taking writes, no part of the page tables, and the protocol there takes it. -/
structure AgentReaches (s : State) (q : QRef) (c va n : Nat) (write : Bool) (t : Tr) : Prop where
  space : va < 2 ^ 56
  page : walk s c va = some t
  perm : t.perm &&& (if write then permW else permR) = (if write then permW else permR)
  key : keyLoaded s t.key = true
  there : t.absentFor write = false
  plain : t.observed = false ∧ (write = true → t.reduce = false)
  home : (paKind t.pa = .hbm ∨ paKind t.pa = .host) ∧ wayTo s (queuePart s q) t.pa = .free
  sound : inError s t.pa n = false ∧ (write = true → destFails s t = false)
  data : inTables t.pa = false
  answers : Takes s t.pa (if write then evNcwr else evNcrd)

/-- t is s with directory entries and counts moved on, its bytes given by read. -/
structure Served (s t : State) (read : Nat → Nat → Byte) : Prop where
  rest : t = { s with mem := t.mem, dir := t.dir, cohErrs := t.cohErrs, freeCtr := t.freeCtr, upd := t.upd }
  bytes : ∀ key pa, readByte t key pa = read key pa

/-- read is what memory holds once n bytes have been written through t. -/
def Written (s : State) (t : Tr) (n : Nat) (data : Nat → Byte) (read : Nat → Nat → Byte) : Prop :=
  (∀ i < n, read t.key (t.pa + i) = data i) ∧ ∀ key pa, ¬hits t n key pa → read key pa = readByte s key pa

/-- Every piece of n bytes at the addresses `at_` that is consecutive and lies in one page can be accessed. -/
def spanOpen (s : State) (q : QRef) (c n : Nat) (at_ : Nat → Nat) (write : Bool) : Prop :=
  ∀ i m, 0 < m → i + m ≤ n → (∀ k < m, at_ (i + k) = at_ i + k) → at_ i % 65536 + m ≤ 65536 →
    ∃ t, AgentReaches s q c (at_ i) m write t

/-- Where the byte at a virtual address lies. -/
def keyOf (s : State) (c va : Nat) : Nat := ((walk s c va).map fun t => memKey t.key t.pa).getD 0

/-- The byte at a virtual address. -/
def vByte (s : State) (c va : Nat) : Byte := ((walk s c va).map fun t => readByte s t.key t.pa).getD 0

/-- No byte copied to is copied from, and none is copied to twice. -/
def apartKeys (s : State) (c n : Nat) (src dst : Nat → Nat) : Prop :=
  ∀ i < n, ∀ j < n, keyOf s c (src i) ≠ keyOf s c (dst j) ∧ (i ≠ j → keyOf s c (dst i) ≠ keyOf s c (dst j))

/-- read is what memory holds once byte i, for each i below n, has been put at dst i. -/
structure Placed (s : State) (c n : Nat) (dst : Nat → Nat) (data : Nat → Byte) (read : Nat → Nat → Byte) : Prop where
  put : ∀ i < n, ∀ t, walk s c (dst i) = some t → read t.key t.pa = data i
  kept : ∀ key pa, (∀ i < n, memKey key pa ≠ keyOf s c (dst i)) → read key pa = readByte s key pa

/-- Is the condition of a WAIT met by a value (R103). -/
def waitMeets (r : QRec) (v : Nat) : Prop :=
  let x := v &&& (dwd r.dw 3).toNat
  match bits (dwd r.dw 0) 15 12 with
  | 0 => (dwd r.dw 2).toNat ≤ x
  | 1 => x = (dwd r.dw 2).toNat
  | 2 => x ≠ (dwd r.dw 2).toNat
  | _ => v.testBit 63 = true

/-- Records that copy (R105, R337, R339): queue, TYPE, form; and of a record, its bytes, the addresses of byte i in source
and destination, and the count it completes with (R341). -/
def copies : Instr → Option (QRef × Nat × (QRec → Bool) × (QRec → Nat) × (QRec → Nat → Nat) × (QRec → Nat → Nat) × (QRec → Nat))
  | .copy q => some (q, 0x04, copyOk, fun r => bits (dwd r.dw 3) 39 0, fun r i => (dwd r.dw 1).toNat + i,
      fun r i => (dwd r.dw 2).toNat + i, fun r => bits (dwd r.dw 3) 39 0)
  | .ecpyRecord q => some (q, 0x10, ecpyOk, fun r => bits (dwd r.dw 0) 63 24, fun r i => (dwd r.dw 1).toNat + i,
      fun r i => (dwd r.dw 2).toNat + i, fun r => bits (dwd r.dw 0) 63 24)
  | .ercpyRecord q => some (q, 0x13, ercpyOk,
      fun r => bits (dwd r.dw 0) 63 40 * bits (dwd r.dw 0) 39 24,
      fun r i => (dwd r.dw 1).toNat + i / bits (dwd r.dw 0) 63 40 * bits (dwd r.dw 3) 31 0 + i % bits (dwd r.dw 0) 63 40,
      fun r i => (dwd r.dw 2).toNat + i / bits (dwd r.dw 0) 63 40 * bits (dwd r.dw 3) 63 32 + i % bits (dwd r.dw 0) 63 40,
      fun r => if bits (dwd r.dw 0) 63 40 = 0 then 0 else bits (dwd r.dw 0) 39 24)
  | _ => none

/-- EGATH and ESCAT (R338): the record's fields, and whether it scatters. -/
def gathers : Instr → Option (QRef × Nat × Bool)
  | .egathRecord q => some (q, 0x11, false)
  | .escatRecord q => some (q, 0x12, true)
  | _ => none

/-- The 56-bit address and form of a record whose TYPE the constructor names, by the table of R100: queue, TYPE and what
its own description asks of its fields. -/
def records : Instr → Option (QRef × Nat × (State → QRec → Bool))
  | .wait q => some (q, 0x02, fun _ r => waitOk r)
  | .waitMet q => some (q, 0x02, fun _ r => waitOk r)
  | .waitTimeout q => some (q, 0x02, fun _ r => waitOk r)
  | .launchRecord q => some (q, 0x01, fun _ r => launchOk r)
  | .copy q => some (q, 0x04, fun _ r => copyOk r)
  | .ecpyRecord q => some (q, 0x10, fun _ r => ecpyOk r)
  | .egathRecord q => some (q, 0x11, fun _ r => elemsOk r)
  | .escatRecord q => some (q, 0x12, fun _ r => elemsOk r)
  | .ercpyRecord q => some (q, 0x13, fun _ r => ercpyOk r)
  | .queueCreate q => some (q, 0x30, fun _ r => adminOk true r)
  | .queueReset q => some (q, 0x31, fun _ r => adminOk false r)
  | .queueDestroy q => some (q, 0x32, fun _ r => adminOk false r)
  | .pageMap q => some (q, 0x50, fun _ r => pageOk r false true false)
  | .pageUnmap q => some (q, 0x51, fun _ r => pageOk r false false false)
  | .pageAttr q => some (q, 0x52, fun _ r => pageOk r false false false)
  | .pageBack q => some (q, 0x53, fun _ r => pageOk r true false true)
  | .rehearse q => some (q, 0x61, fun s r => coreRecOk s q r)
  | .coreRetire q => some (q, 0x62, fun s r => coreRecOk s q r)
  | _ => none

/-- Commands (R82): queue, TYPE, alignment of ADDR (0 where there is none), and whether there is a MASK. -/
def commands : Instr → Option (QRef × Nat × Nat × Bool)
  | .ctxDefine q => some (q, 0x20, 128, false)
  | .ctxUpdate q => some (q, 0x21, 128, true)
  | .ctxSuspend q => some (q, 0x22, 0, false)
  | .ctxResume q => some (q, 0x23, 0, false)
  | .ctxDestroy q => some (q, 0x24, 0, false)
  | .keyInstall q => some (q, 0x25, 64, false)
  | .keyRetire q => some (q, 0x26, 0, false)
  | _ => none

/-- A well-formed command that starts. -/
def Command (s : State) (q : QRef) (ty align : Nat) (mask : Bool) (r : QRec) (l : List QRec) : Prop :=
  Head s q ty (fun r => cmdOk r align mask) r l ∧ r.started = none ∧ r.buf = []

/-- The n bytes that stand at an address. -/
def bytesAt (s : State) (t : Tr) (n : Nat) : List Byte := (List.range n).map fun i => readByte s t.key (t.pa + i)

/-- t is s when the command at the head of q has started and read its n bytes at an address, once (R428). -/
def HasRead (s : State) (q : QRef) (a : Tr) (n : Nat) (t : State) : Prop :=
  ∃ s1, Served (startHead s q) s1 (readByte s) ∧ t = setBuf s1 q (bytesAt s a n)

/-! Contexts (R79 to R93). -/

/-- The 16 dwords that stand at an address. -/
def dwordsAt (s : State) (t : Tr) (n : Nat) : List Dword := (List.range n).map fun i => dw (numAt s t.key (t.pa + 8 * i) 8)

/-- The fields of a context that CTX_UPDATE replaces under its MASK, the collective table apart (R82, R87). -/
structure Updated (x new y : Ctx) (mask : Nat) : Prop where
  handler : y.handler = if mask.testBit 0 then new.handler else x.handler
  book : (y.srate, y.det, y.obs, y.sched, y.place) =
    if mask.testBit 2 then (new.srate, new.det, new.obs, new.sched, new.place) else (x.srate, x.det, x.obs, x.sched, x.place)
  rest : { y with handler := x.handler, srate := x.srate, det := x.det, obs := x.obs, sched := x.sched, place := x.place,
                  collTab := x.collTab, collN := x.collN, collsNew := x.collsNew } = x

/-- A context of which nothing is left on cores or under way: no launch, no block, no round, no page. -/
structure Idle (s : State) (c : Nat) : Prop where
  launches : ∀ e ∈ s.launches, e.2.ctx ≠ c
  blocks : ∀ e ∈ s.blocks, e.2.ctx ≠ c
  rounds : ∀ e ∈ (ctxOf s c).colls, (roundsOf s c e.1).busy = false
  frames : ∀ e ∈ s.frames, e.2.ctx ≠ c
  aperts : ∀ e ∈ s.aperts, e.2.ctx ≠ c
  cores : s.draining = []

/-- The queue of an administration record. -/
def adminKey (q : QRef) (r : QRec) : Nat := portOf q * 8192 + bits (dwd r.dw 0) 44 32

/-! Coherence requests (R202 to R216). -/

/-- The sixteen requests (R209): the event, and the request. -/
def requests : Instr → Option (Nat × CohReq)
  | .gets r => some (0, r)
  | .getx r => some (1, r)
  | .upgr r => some (2, r)
  | .puts r => some (3, r)
  | .putl r => some (4, r)
  | .putx r => some (5, r)
  | .wthr r => some (6, r)
  | .atomRequest r => some (7, r)
  | .getm r => some (8, r)
  | .putm r => some (9, r)
  | .iack r => some (10, r)
  | .fack r => some (11, r)
  | .recl r => some (12, r)
  | .flsh r => some (13, r)
  | .ncrd r => some (14, r)
  | .ncwr r => some (15, r)
  | _ => none

/-- y is entry x of a quarter after the actions of e for a requester (R203, R208): the next state, the requester added or
removed as a holder, every other holder kept unless CLRS, or FWD with a write grant, ends it. -/
structure Turned (x y : DirE) (e : CohEntry) (who : Nat) : Prop where
  state : y.st = e.next
  cleared : e.has 21 = true → y.holders = 0 ∧ y.owner = none
  self : e.has 21 = false → who < 43 → y.holders.getLsbD who =
    (!e.has 20 && (e.has 19 || (e.has 16 && e.grant == 2) || x.holders.getLsbD who))
  others : e.has 21 = false → ∀ w, w ≠ who → y.holders.getLsbD w = (x.holders.getLsbD w && !(e.has 16 && e.grant == 2))

/-- A request that names words of one quarter of a line of HBM (R202): the quarter. -/
structure OneQuarter (r : CohReq) (q : Nat) : Prop where
  form : r.line % 128 = 0 ∧ 1 ≤ r.len ∧ r.word + r.len ≤ 32
  home : paKind (r.line + 4 * r.word) = .hbm
  quarter : q = (r.line + 4 * r.word) / 32 * 32 ∧ r.line + 4 * (r.word + r.len) ≤ q + 32

/-- The event as which the directory takes a request (R209, R210): an eviction is PUTL of the only holder, PUTX of a dirty
owner and else PUTS; an integer update under ACCUM is ATOM. -/
structure Classified (s : State) (r : CohReq) (q ev0 ev : Nat) : Prop where
  only : ev0 ∈ [3, 4, 5] → (∀ w < 43, w ≠ r.who → (dirAt s r.key q).holders.getLsbD w = false) → ev = 4
  owner : ev0 ∈ [3, 4, 5] → (∃ w < 43, w ≠ r.who ∧ (dirAt s r.key q).holders.getLsbD w = true) →
    ev = if (dirAt s r.key q).owner = some r.who ∧ r.load ≠ .none then 5 else 3
  integer : ev0 ∈ [8, 9] → ev = if protoId s q = 4 ∧ reqInteger r = true then 7 else ev0
  other : ev0 ∉ [3, 4, 5, 8, 9] → ev = ev0

/-- What becomes of a request that meets ERR (R211): a host's is aborted, a group's store or update counted. -/
def turnedAway (s : State) (q ev : Nat) : State :=
  if ev = 14 ∨ ev = 15 then { s with ncOut := s.ncOut ++ [none] }
  else if ev ∈ [1, 2, 6, 8, 9] then countErr s (homeDie q) else s

/-- y is entry x after acknowledgements, each with the actions of its own entry. -/
def Acked (t : CohTable) (who : Nat) : List Nat → DirE → DirE → Prop
  | [], x, y => (y.st, y.holders) = (x.st, x.holders)
  | a :: l, x, y => ∃ z, Turned x z (CohTable.at t x.st a) who ∧ Acked t who l z y

/-- Nothing waits at a quarter. -/
abbrev Unwaited (d : DirE) : Prop := (d.staged, d.held, d.iack, d.fack) = (none, [], false, false)

/-- A host's access to a module that has power, neither kept waiting nor logged, that reads no poison and nothing for which
an update is buffered or a write posted. -/
structure HostQuiet (s : State) (r : CohReq) (ev : Nat) : Prop where
  powered : s.shut = false
  merged : ev = 14 → let pa := r.line + 4 * r.word
    (∀ u ∈ s.upd, u.touches r.key pa (4 * r.len) = false)
      ∧ ∀ w ∈ s.posted, ¬(w.pa < pa + 4 * r.len ∧ pa < w.pa + w.data.length)
  still : ∀ e ∈ s.dir, e.2.ncwrWaits = false
  plain : pageLogged s (r.line + 4 * r.word) = none
  sound : ev = 14 → inError s (r.line + 4 * r.word) (4 * r.len) = false

/-- HWR, MRG and WB: the entry moves what the request carries into memory. -/
def movesData (e : CohEntry) : Bool := e.has 23 || e.has 14 || e.has 13

/-! Pages (R218 to R241). -/

/-- A record about one page of 64 KiB of a context, no aperture page: context, first VPN and PERM, ATTR and GRAN. -/
abbrev onePage (r : QRec) : Prop := pgCount r = 1 ∧ pgLarge r = false ∧ pgAper r = false

/-- A frame that lies in HBM and is not one of those reserved for the page tables. -/
abbrev plainFrame (id : Nat) : Prop := id < 2 ^ 23 ∧ reservedFrame id = false

/-- FRAME_RETIRE is well-formed (R234): frames of the queue's own partition. -/
def retireOk (s : State) (q : QRef) (r : QRec) : Bool :=
  let pa := (dwd r.dw 1).toNat
  let n := pgCount r * (if pgLarge r then 256 else 1) * 65536
  pgCount r != 0 && pgGran r != 3 && zeroBits (dwd r.dw 1) [(63, 52), (15, 0)] && dwd r.dw 3 == 0 && zeroDwords r 4 6
    && (!pgLarge r || pa % 2 ^ 24 == 0) && decide (pa + n ≤ 2 ^ 39)
    && partOfDie s (homeDie pa) == queuePart s q && partOfDie s (homeDie (pa + n - 1)) == queuePart s q

/-- No health transition is due. -/
abbrev steadyHealth (s : State) : Prop := Health.code (healthNow s) ≤ Health.code s.health

/-- A frame entry without its place in a chain. -/
def unlinked (f : Frame) : Frame := { f with next := 0 }

/-- Every byte of a frame reads as zero, under every key. -/
def zeroFrame (s : State) (id : Nat) : Prop := ∀ key o, o < 65536 → readByte s key (id * 65536 + o) = 0

/-! Links and collectives (R370 to R390). -/

/-- s with a UALink port as p. -/
def withPort (s : State) (n : Nat) (p : Port) : State := { s with uports := s.uports.set n p }

/-- The ports a link-state update about port n is flooded on (R372, R376): those that are UP or DEGRADED, port n apart, of
its partition in SPLIT mode. -/
def floods (s : State) (n : Nat) (on : List Nat) : Prop :=
  ∀ m, m ∈ on ↔ m < 18 ∧ m ≠ n ∧ (s.part = .split → m / 9 = n / 9) ∧ ∃ p, s.uports[m]? = some p ∧ (p.st = .up ∨ p.st = .degraded)

/-- s with port n as p and an update about it sent (R376). -/
def told (s : State) (n : Nat) (p : Port) (on : List Nat) : State :=
  { withPort s n { p with lseq := (s.lsuSeq + 1) % 2 ^ 32 } with
    lsuSeq := s.lsuSeq + 1, lsuOut := s.lsuOut ++ [⟨s.podPos, n, linkCode p.st, s.lsuSeq + 1, on⟩] }

/-- A port that is lost at a time (R375, R377, R387): an update is sent about it, drain rounds begin, and reduction slots
of its plane are given up. -/
def Lost (s t : State) (n : Nat) (p : Port) : Prop :=
  ∃ on, floods s n on ∧ t = { told s n p on with
    drains := s.drains ++ [⟨n, 1, s.clock, none⟩], rounds := t.rounds, collOut := t.collOut }

/-- A round that has ended, whatever its outcome (R382, R385). -/
def roundOver (r : Rounds) : Rounds :=
  { r with
    completed := r.closed, reduced := r.closed, closedC := [], todo := [], written := [], deliv := 0, acks := 0
    acked := false, ending := none, due := none, left := 0, slots := [] }

/-- Does a mask count every other rank of an entry. -/
abbrev allIn (x : CollEntry) (m : BitVec 512) : Prop := ∀ k < x.nrank, k ≠ x.myRank → m.getLsbD k = true

/-- A round of an entry is in progress at this rank, and ending in no status yet. -/
structure InRound (s : State) (c e : Nat) (x : CollEntry) (r : Rounds) : Prop where
  entry : aget (ctxOf s c).colls e = some x
  rounds : roundsOf s c e = r
  open_ : r.completed < r.closed
  going : r.ending = none

/-- The round's end in a status: FLAG is written, with bit 63 for a failure, and the close record completes. -/
def EndsRound (s t : State) (c e : Nat) (x : CollEntry) (r : Rounds) (status : Nat) : Prop :=
  let q := QRef.ep c r.slot
  x.flag.toNat % 8 = 0 → ∀ w, AgentReaches s q c x.flag.toNat 8 true w →
    ∃ s2 read u, Served s s2 read
      ∧ Written s w 8 (byteOf (dw ((if status = 0 then 0 else 2 ^ 63) + r.closed % 2 ^ 32))) read
      ∧ u = settleTable (finishHead (setRounds s2 c e (roundOver r)) q status 0) c
      ∧ t = if status = 0x80 then haltQueue u q else u

/-! Health, resets and management (R15 to R27, R396 to R407). -/

/-- The dwords of a health report (R402): state, warm resets and skipped rehearsals of 24 h; HARVEST of each die; retired
frames of each stack; ISOLATED ports. -/
def reportDword (s : State) (die i : Nat) : Dword :=
  let day := 216000000000000
  let warm := (s.warmAt.filter fun t => s.era + s.clock ≤ t + day).length
  let skipped := (s.skips.filter fun t => s.clock ≤ t + day).length
  let frames (k : Nat) : Nat := ((List.range 4).map fun j => lostFrames s (4 * k + j) * 2 ^ (16 * j)).sum
  let code := match s.health with
    | .nominal => 0
    | .degraded => 1
    | .replaceAdvised => 2
    | .failed => 3
  if i = 0 then dw (code + min 255 warm * 2 ^ 8 + min 65535 skipped * 2 ^ 16)
  else if i ≤ 4 then harvestReg s die (i - 1)
  else if i = 5 then dw (frames 0)
  else if i = 6 then dw (frames 1)
  else if i = 7 then dw ((List.range 18).map fun n => if (s.uports[n]?).map Port.st = some .isolated then 2 ^ n else 0).sum
  else 0

/-- A rehearsal of a core begins (R401): it is noted, with when the core is due again, and each block on the core whose
context's blocks have their save slots is asked to save itself. -/
def Begins (s t : State) (core : Nat) (who : Option QRef) : Prop :=
  let noted := { s with
    rehearsing := aset s.rehearsing core ⟨who, s.clock⟩
    rehearseDue := aset s.rehearseDue core (s.clock + 216000000000000)
    rehearseLast := aset s.rehearseLast (core / 40) s.clock }
  (coreBusy s core = false → t = noted)
  ∧ (t.rehearsing, t.rehearseDue, t.rehearseLast) = (noted.rehearsing, noted.rehearseDue, noted.rehearseLast)
  ∧ (aRising s.blocks = true → (∀ e ∈ s.blocks, e.2.saveAt.isSome = true) →
    ∀ k b, aget s.blocks k = some b → b.core = core → b.st = .placed → b.pre = none →
      ∃ y, aget t.blocks k = some y ∧ y.pre = some s.clock)

/-- The transitions of the life cycle (R27). -/
def lifeSteps : List (LifeCycle × LifeCycle) :=
  [(.manufacture, .provisioned), (.provisioned, .deployed), (.deployed, .returned), (.returned, .provisioned),
   (.returned, .decommissioned)]

/-- Nothing of a program is left: no launch, block or group, no page and nothing in HBM, no directory or table, no endpoint;
the host's memory and that of other modules stays. -/
structure Blank (s t : State) : Prop where
  memory : ∀ c, c ∈ t.mem ↔ c ∈ s.mem ∧ 2 ^ 39 ≤ c.1 % 2 ^ 52
  work : t.launches = [] ∧ t.clusters = [] ∧ t.blocks = [] ∧ t.groups = []
  pages : t.anchors = [] ∧ t.aperts = [] ∧ t.pageOps = []
  coherence : t.dir = [] ∧ t.rmap = [] ∧ t.tables = [] ∧ t.upd = []
  others : t.eps = [] ∧ t.rounds = [] ∧ t.books = [] ∧ t.evq = [] ∧ t.lateDone = [] ∧ t.lostUpd = []

/-- What a wipe keeps (R400, R403): fuses, the retirement record and its frames, firmware and its counter. -/
structure KeepsRecord (s t : State) : Prop where
  cores : ∀ c, c ∈ t.retired ↔ c ∈ s.retired
  frames : t.retiredFrames = s.retiredFrames
  entries : ∀ id, (aget t.frames id).map Frame.st = if id ∈ s.retiredFrames then some .retired else none
  fuses : t.fuse = s.fuse ∧ t.firmware = s.firmware ∧ t.fused = s.fused ∧ t.keyHash = s.keyHash ∧ t.identity = s.identity

/-- Dword i of a record of a book (R408): what stands at its place. -/
def recordAt (s : State) (at_ i : Nat) : Nat := numAt s 0 (at_ + 8 * i) 8
/-! Words, field by field (R243 to R254, R286 to R310). -/

/-- Fields with their widths, the highest first, side by side. -/
def packed (l : List (Nat × Nat)) : Nat := l.foldl (fun n f => n * 2 ^ f.2 + f.1) 0

/-- A register of kind R in its field (R246). -/
def gField : GReg → Nat
  | .z => 0
  | .v n => n.val
  | .s n => 112 + n.val

/-- A width code (R254). -/
def wField : Width → Nat
  | .w64 => 0
  | .w32 => 1
  | .w16 => 2
  | .w8 => 3

/-- A combine code (R254). -/
def cbField : Combine → Nat
  | .set => 0
  | .and => 1
  | .or => 2
  | .xor => 3

/-- A word of format A that ends in a width and a function (R254). -/
def wordW (major d a b : Nat) (w : Width) (op : Nat) : Option Nat :=
  some (packed [(major, 6), (d, 7), (a, 7), (b, 7), (wField w, 2), (op, 3)])

/-- A word of format I. -/
def wordI (major : Nat) (d a : GReg) (k : BitVec 12) : Option Nat :=
  some (packed [(major, 6), (gField d, 7), (gField a, 7), (k.toNat, 12)])

/-- A shift by a constant takes 0 to 63 (R294). -/
def wordS (major : Nat) (d a : GReg) (k : BitVec 12) : Option Nat := if k.toNat < 64 then wordI major d a k else none

/-- A word of format A (R243). -/
def wordA (major d a b fn : Nat) : Option Nat := some (packed [(major, 6), (d, 7), (a, 7), (b, 7), (fn, 5)])

/-- The words of the integer majors 0x10 to 0x13 and 0x16 to 0x1F (R286 to R291, R294 to R296). -/
def integerWord : Instr → Option Nat
  | .iadd w d a b => wordW 0x10 (gField d) (gField a) (gField b) w 0
  | .isub w d a b => wordW 0x10 (gField d) (gField a) (gField b) w 1
  | .iaddc w d a b => wordW 0x10 (gField d) (gField a) (gField b) w 2
  | .isubb w d a b => wordW 0x10 (gField d) (gField a) (gField b) w 3
  | .imul w d a b => wordW 0x10 (gField d) (gField a) (gField b) w 4
  | .imulhs w d a b => wordW 0x10 (gField d) (gField a) (gField b) w 5
  | .imulhn w d a b => wordW 0x10 (gField d) (gField a) (gField b) w 6
  | .imad w d a b => wordW 0x10 (gField d) (gField a) (gField b) w 7
  | .imins w d a b => wordW 0x11 (gField d) (gField a) (gField b) w 0
  | .imaxs w d a b => wordW 0x11 (gField d) (gField a) (gField b) w 1
  | .iminn w d a b => wordW 0x11 (gField d) (gField a) (gField b) w 2
  | .imaxn w d a b => wordW 0x11 (gField d) (gField a) (gField b) w 3
  | .iabs w d a => wordW 0x11 (gField d) (gField a) 0 w 4
  | .imadw d a b => wordW 0x11 (gField d) (gField a) (gField b) .w64 5
  | .popc w d a => wordW 0x11 (gField d) (gField a) 0 w 6
  | .clz w d a => wordW 0x11 (gField d) (gField a) 0 w 7
  | .andR w d a b => wordW 0x12 (gField d) (gField a) (gField b) w 0
  | .orR w d a b => wordW 0x12 (gField d) (gField a) (gField b) w 1
  | .xorR w d a b => wordW 0x12 (gField d) (gField a) (gField b) w 2
  | .andnR w d a b => wordW 0x12 (gField d) (gField a) (gField b) w 3
  | .shl w d a b => wordW 0x12 (gField d) (gField a) (gField b) w 4
  | .shr w d a b => wordW 0x12 (gField d) (gField a) (gField b) w 5
  | .sar w d a b => wordW 0x12 (gField d) (gField a) (gField b) w 6
  | .rot w d a b => wordW 0x12 (gField d) (gField a) (gField b) w 7
  | .brev w d a => wordW 0x13 (gField d) (gField a) 0 w 0
  | .bfxs w d a b => wordW 0x13 (gField d) (gField a) (gField b) w 1
  | .bfxn w d a b => wordW 0x13 (gField d) (gField a) (gField b) w 2
  | .bfi w d a b => wordW 0x13 (gField d) (gField a) (gField b) w 3
  | .mov w d a => wordW 0x13 (gField d) (gField a) 0 w 4
  | .prmb d a b => wordW 0x13 (gField d) (gField a) (gField b) .w64 5
  | .iadds w d a b => wordW 0x13 (gField d) (gField a) (gField b) w 6
  | .iaddn w d a b => wordW 0x13 (gField d) (gField a) (gField b) w 7
  | .addi d a k => wordI 0x16 d a k
  | .andi d a k => wordI 0x17 d a k
  | .ori d a k => wordI 0x18 d a k
  | .xori d a k => wordI 0x19 d a k
  | .shli d a k => wordS 0x1A d a k
  | .shri d a k => wordS 0x1B d a k
  | .sari d a k => wordS 0x1C d a k
  | .movw d slot k => some (packed [(0x1D, 6), (gField d, 7), (slot.val, 2), (0, 1), (k.toNat, 16)])
  | .movk d slot k => some (packed [(0x1E, 6), (gField d, 7), (slot.val, 2), (0, 1), (k.toNat, 16)])
  | .lea d a b s => wordA 0x1F (gField d) (gField a) (gField b) s.val
  | _ => none

/-- The words of PLOG (R293). -/
def predicateWord : Instr → Option Nat
  | .pand d a b => wordA 0x15 d.val a.val b.val 0
  | .por d a b => wordA 0x15 d.val a.val b.val 1
  | .pxor d a b => wordA 0x15 d.val a.val b.val 2
  | .pandn d a b => wordA 0x15 d.val a.val b.val 3
  | .pnot d a => wordA 0x15 d.val a.val 0 4
  | .pmov d a => wordA 0x15 d.val a.val 0 5
  | _ => none

/-- The condition codes of ISET (R254). -/
def icField : ICond → Nat
  | .eq => 0
  | .ne => 1
  | .lts => 2
  | .les => 3
  | .ltn => 4
  | .len => 5
  | .gts => 6
  | .gtn => 7

/-- The condition codes of FSET (R254). -/
def fcField : FCond → Nat
  | .eq => 0
  | .ne => 1
  | .lt => 2
  | .le => 3
  | .gt => 4
  | .ge => 5
  | .un => 6
  | .ord => 7

/-- The format codes of FSET (R254). -/
def fmField : FpFmt → Nat
  | .fp64 => 0
  | .fp32 => 1
  | .fp16 => 2
  | .bf16 => 3

/-- The words of the compares (R254, R292, R304). -/
def compareWord : Instr → Option Nat
  | .iset c cb w pd a b =>
    some (packed [(0x14, 6), (pd.val, 4), (icField c, 3), (gField a, 7), (gField b, 7), (wField w, 2), (cbField cb, 3)])
  | .fset c cb f pd a b =>
    some (packed [(0x28, 6), (pd.val, 4), (fcField c, 3), (gField a, 7), (gField b, 7), (fmField f, 2), (cbField cb, 3)])
  | .fsets c cb f pd a b =>
    some (packed [(0x29, 6), (pd.val, 4), (fcField c, 3), (gField a, 7), (gField b, 7), (fmField f, 2), (cbField cb, 3)])
  | _ => none

/-- A word of XLI: a sub-element that the width has (R254). -/
def wordX (mode : Nat) (w : Width) (d a : GReg) (lane sub : Nat) : Option Nat :=
  if sub < 64 / Width.bits w then
    some (packed [(0x31, 6), (gField d, 7), (gField a, 7), (wField w, 2), (mode, 2), (sub, 3), (lane, 5)])
  else none

/-- The words of the cross-lane majors (R307 to R310). -/
def crossWord : Instr → Option Nat
  | .xln keep w d a b =>
    some (packed [(0x30, 6), (gField d, 7), (gField a, 7), (gField b, 7), (wField w, 2), (b2n keep, 1), (0, 2)])
  | .xliBfly w d a k sb => wordX 0 w d a k.val sb.val
  | .xliBcast w d a k sb => wordX 1 w d a k.val sb.val
  | .xliRotup w d a k sb => wordX 2 w d a k.val sb.val
  | .xliRotdn w d a k sb => wordX 3 w d a k.val sb.val
  | .qxh d a => wordA 0x32 (gField d) (gField a) 0 0
  | .qxv d a => wordA 0x32 (gField d) (gField a) 0 1
  | .qxd d a => wordA 0x32 (gField d) (gField a) 0 2
  | .qbc0 d a => wordA 0x32 (gField d) (gField a) 0 3
  | .qbc1 d a => wordA 0x32 (gField d) (gField a) 0 4
  | .qbc2 d a => wordA 0x32 (gField d) (gField a) 0 5
  | .qbc3 d a => wordA 0x32 (gField d) (gField a) 0 6
  | .vany d a => wordA 0x33 d.val a.val 0 0
  | .vall d a => wordA 0x33 d.val a.val 0 1
  | .vbal d a => wordA 0x33 (gField d) a.val 0 2
  | .mbcnt d a => wordA 0x33 (gField d) (gField a) 0 3
  | .vfirst d a => wordA 0x33 (gField d) a.val 0 4
  | _ => none

/-- The instructions of some majors are those of a layout, and no other word of these majors is an instruction. -/
def Laid (majors : List Nat) (lay : Instr → Option Nat) : Prop :=
  (∀ w i, decodeWord w = .ok i → w.toNat / 2 ^ 26 ∈ majors → lay i = some w.toNat)
  ∧ ∀ i n, lay i = some n → i.wf = true → decodeWord (BitVec.ofNat 32 n) = .ok i

/-- A long accumulator that holds terms added in some order since it was cleared: added one by one, joined from partial
sums, swept, resolved, written out and loaded again (R63, R65, R70, R72). -/
inductive Formed : List (Option FVal) → LA → Prop
  | clear : Formed [] LA.zero
  | add {ts a} (t : Option FVal) : Formed ts a → Formed (t :: ts) (a.addTerm t)
  | merge {ts us a b} : Formed ts a → Formed us b → Formed (ts ++ us) (a.merge b)
  | sweep {ts a} (k : Nat) : k ≤ 8 → Formed ts a → Formed ts (a.sweep k)
  | resolve {ts a} : Formed ts a → Formed ts a.resolve
  | image {ts a} : Formed ts a → Formed ts (loadImage a.image)

end Sys2Proof.Rules

open Sys2Proof Sys2Proof.Machine Sys2Proof.Rules

/-- R286, R288, R290, R247, R9: every evaluated lane of the destination holds in each sub-element what the table says
of the operands as they were; z discards; no other register, no predicate, no flag and no other field changes. R289,
R290: the same for logic, shifts, BREV and bit fields, bit by bit. R290, R291, R294, R295, R296: instructions with one
64-bit result. R287, R288: each sub-element takes the low bits of the exact value, and bit i of cy in each evaluated
lane its carry or borrow; bits above the sub-elements of cy, other registers, predicates and lanes stay. The words of
these majors are those of their tables, with the fields that must be zero, and no other word of them is an
instruction. -/
def Obligations.IntegerResults : Prop :=
  (∀ i w d a b rule s s1 g blk, arith i = some (w, d, a, b, rule) → Issues i false s s1 g blk →
     ∃ new, Completes i s s1 g blk new ∧ OnlyReg g new d fun l v => ∀ j < 64 / Width.bits w,
       let n := Width.bits w
       rule n (el g a n l j) (el g b n l j) (el g d n l j) (sub v n j))
  ∧ (∀ i w d a b rule s s1 g blk, bitwise i = some (w, d, a, b, rule) → Issues i false s s1 g blk →
       ∃ new, Completes i s s1 g blk new ∧ OnlyReg g new d fun l v => ∀ j < 64 / Width.bits w, ∀ k < Width.bits w,
         let n := Width.bits w
         (sub v n j).testBit k = rule n (el g a n l j) (el g b n l j) (el g d n l j) k)
  ∧ (∀ i d a b rule s s1 g blk, dwords i = some (d, a, b, rule) → Issues i false s s1 g blk →
       ∃ new, Completes i s s1 g blk new
         ∧ OnlyReg g new d fun l v => rule (g.readR a l) (g.readR b l) (g.readR d l) v)
  ∧ (∀ i n m d a b t carry s s1 g blk, carrying i = some (n, m, d, a, b, t, carry) → Issues i false s s1 g blk →
       ∃ new, Completes i s s1 g blk new ∧ new.shell = g.shell
         ∧ (let val (l j : Nat) : Int := t (el g a n l j) (el g b n l j) (el g d n l j) (b2n ((g.readP 14 l).getLsbD j))
           WroteReg g new d (fun l v => ∀ j < m, (sub v n j : Int) = val l j % (2 ^ n : Nat))
             ∧ (∀ l ∈ g.evalLanes d, ∀ j < 8, (new.readP 14 l).getLsbD j =
                 if j < m then carry n (val l j) else (g.readP 14 l).getLsbD j))
         ∧ ∀ k, (∀ l ∈ g.evalLanes d, k ≠ 32 * 14 + l) → agetD new.preds k 0 = agetD g.preds k 0)
  ∧ (Laid [0x10, 0x11, 0x12, 0x13, 0x16, 0x17, 0x18, 0x19, 0x1A, 0x1B, 0x1C, 0x1D, 0x1E, 0x1F] integerWord)

/-- R292, R270: bit j of pd in each active lane, for sub-element j; bits above keep their value. R304, R270, R41: FSET
and FSETS write bit j of pd for sub-element j, bits above keep their value; NV is raised for a signalling NaN, and by
FSETS for any NaN. R254: the words of the three compares are those of their tables, and no other word of their majors
is an instruction. -/
def Obligations.Comparisons : Prop :=
  (∀ c cb w pd a b s s1 g blk, Issues (.iset c cb w pd a b) false s s1 g blk →
     ∃ new, Completes (.iset c cb w pd a b) s s1 g blk new ∧ OnlyPred g new pd fun l v => ∀ j < 8,
       let n := Width.bits w
       let old := (g.readP pd l).getLsbD j
       (v.getLsbD j = true ↔ if j < 64 / n then joins cb (old = true) (compares c n (el g a n l j) (el g b n l j))
         else old = true))
  ∧ (∀ c cb f pd a b loud i s s1 g blk,
       i = (if loud then Instr.fsets c cb f pd a b else Instr.fset c cb f pd a b) → Issues i false s s1 g blk →
       ∃ new, Completes i s s1 g blk new
         ∧ (let n := fpBits f
           let x (l j : Nat) : Nat := ftzIn f (fmtFtz g.fmt) (el g a n l j)
           let y (l j : Nat) : Nat := ftzIn f (fmtFtz g.fmt) (el g b n l j)
           WrotePred g new pd (fun l v => ∀ j < 8,
               let old := (g.readP pd l).getLsbD j
               (v.getLsbD j = true ↔ if j < 64 / n then joins cb (old = true) (relates c f (x l j) (y l j)) else old = true))
             ∧ RaisedFlags g new g.lanesOn (fun l => { nv := anySub (64 / n) fun j => trips loud f (x l j) (y l j) }))
         ∧ new.vregs = g.vregs ∧ new.sregs = g.sregs ∧ new.core = g.core)
  ∧ (Laid [0x14, 0x28, 0x29] compareWord)

/-- R293: all eight bits of d in each active lane. Its words are those of its table, and no other word of its major is
an instruction. -/
def Obligations.PredicateLogic : Prop :=
  (∀ i d a b f s s1 g blk, plog i = some (d, a, b, f) → Issues i false s s1 g blk →
     ∃ new, Completes i s s1 g blk new ∧ OnlyPred g new d fun l v => ∀ j < 8,
       v.getLsbD j = f ((g.readP a l).getLsbD j) ((g.readP b l).getLsbD j))
  ∧ (Laid [0x15] predicateWord)

/-- R297, R298, R301, R303, R41, R136: every evaluated lane takes the function of its sub-elements under FMT's mode
and FTZ; the flags of the lane's sub-elements are raised in member lanes, none in a Q form; nothing else changes. -/
def Obligations.FloatResults : Prop :=
  ∀ i f q d a b fn rd s s1 g blk, computing i = some (f, q, d, a, b, fn, rd) → Issues i false s s1 g blk →
    ∃ new, Completes i s s1 g blk new
      ∧ (let n := fpBits f
        let res (l j : Nat) : Nat × Flg :=
          fn (fmtRm g.fmt) (fmtFtz g.fmt) (el g a n l j) (el g b n l j) (el g d n l j)
        WroteReg g new d (fun l v => ∀ j < 64 / n, sub v n j = (res l j).1 % 2 ^ n)
          ∧ RaisedFlags g new (g.evalLanes d) (fun l => laneFlags q (64 / n) fun j => (res l j).2))
      ∧ new.preds = g.preds ∧ new.core = g.core

/-- R299, R300, R302: FMIN and FMAX, and the instructions that only move or tell bits. R305: CVT converts the
sub-elements that fit both formats, leaves the rest of the result zero, and raises the flags of the conversions. -/
def Obligations.FloatMovesAndConversions : Prop :=
  (∀ i f q d a b rule s s1 g blk, moving i = some (f, q, d, a, b, rule) → Issues i false s s1 g blk →
     ∃ (new : Group) (nv : Nat → Nat → Bool), Completes i s s1 g blk new
       ∧ (let n := fpBits f
         WroteReg g new d (fun l v => ∀ j < 64 / n,
             rule (fmtFtz g.fmt) (el g a n l j) (el g b n l j) (sub v n j) (nv l j))
           ∧ RaisedFlags g new (g.evalLanes d) (fun l => laneFlags q (64 / n) fun j => { nv := nv l j }))
       ∧ new.preds = g.preds ∧ new.core = g.core)
  ∧ (∀ dst src rm sat d a s s1 g blk, Issues (.cvt dst src rm sat d a) false s s1 g blk →
       ∃ new, Completes (.cvt dst src rm sat d a) s s1 g blk new
         ∧ (let ws := numBits src
           let wd := numBits dst
           let n := 64 / max ws wd
           let res (l j : Nat) : Nat × Flg :=
             convert src dst (rm.getD (fmtRm g.fmt)) sat (fmtAsc g.fmt) (fmtBsc g.fmt) (el g a ws l j)
           WroteReg g new d (fun l v => ∀ j < 64 / wd, sub v wd j = if j < n then (res l j).1 % 2 ^ wd else 0)
             ∧ RaisedFlags g new (g.evalLanes d) (fun l => laneFlags false n fun j => (res l j).2))
         ∧ new.preds = g.preds ∧ new.core = g.core)

/-- R44 and R46: a computing operation that reads a NaN delivers the first in the order a, b, d with its quiet bit set
and its other bits kept, and a signalling NaN among them raises NV, whichever is delivered. -/
def Obligations.NanPropagation : Prop :=
  ∀ i f q d a b fn rd mode ftz x y c k, computing i = some (f, q, d, a, b, fn, rd) →
    x < 2 ^ fpBits f → y < 2 ^ fpBits f → c < 2 ^ fpBits f →
    (rd x y c).find? (fpIsNaN f) = some k →
      (fn mode ftz x y c).1 = k ||| fpQuiet f ∧ ((rd x y c).any (fpIsSNaN f) = true → (fn mode ftz x y c).2.nv = true)

/-- R306 to R309: cross-lane reads. A source lane that is inactive gives zero, or, with KEEP, the old sub-element.
R310: votes count active members only; every active lane receives the result. The words of these majors are those of
their tables, and no other word of them is an instruction. -/
def Obligations.LaneExchanges : Prop :=
  ((∀ keep w d a b s s1 g blk, Issues (.xln keep w d a b) false s s1 g blk →
     ∃ new, Completes (.xln keep w d a b) s s1 g blk new ∧ OnlyReg g new d fun l v => ∀ j < 64 / Width.bits w,
       let n := Width.bits w
       let y := el g b n l j
       (lends g a (y % 32) → sub v n j = el g a n (y % 32) (y / 32 % (64 / n)))
         ∧ (¬lends g a (y % 32) → sub v n j = if keep then el g d n l j else 0))
   ∧ (∀ i w d a src s s1 g blk, xli i = some (w, d, a, src) → Issues i false s s1 g blk →
     ∃ new, Completes i s s1 g blk new ∧ OnlyReg g new d fun l v => ∀ j < 64 / Width.bits w,
       let n := Width.bits w
       let at_ := src (64 / n) l j
       (lends g a at_.1 → sub v n j = el g a n at_.1 at_.2) ∧ (¬lends g a at_.1 → sub v n j = 0))
   ∧ ∀ i d a src s s1 g blk, quads i = some (d, a, src) → Issues i false s s1 g blk →
     ∃ new, Completes i s s1 g blk new ∧ OnlyReg g new d fun l v =>
       let k := l / 4 * 4 + src (l % 4)
       (lends g a k → v = g.readR a k) ∧ (¬lends g a k → v = 0))
  ∧ ((∀ d a s s1 g blk, Issues (.vany d a) false s s1 g blk → ∃ new, Completes (.vany d a) s s1 g blk new
       ∧ OnlyPred g new d fun _ v => ((∃ l < 32, votes g a l) → v = 255) ∧ ((∀ l < 32, ¬votes g a l) → v = 0))
     ∧ (∀ d a s s1 g blk, Issues (.vall d a) false s s1 g blk → ∃ new, Completes (.vall d a) s s1 g blk new
       ∧ OnlyPred g new d fun _ v => ((∀ l < 32, g.isMember l = true → votes g a l) → v = 255)
         ∧ ((∃ l < 32, g.isMember l = true ∧ ¬votes g a l) → v = 0))
     ∧ (∀ d a s s1 g blk, Issues (.vbal d a) false s s1 g blk → ∃ new, Completes (.vbal d a) s s1 g blk new
       ∧ OnlyReg g new d fun _ v => ∀ k < 64, bit v k = true ↔ votes g a k)
     ∧ (∀ d a s s1 g blk, Issues (.vfirst d a) false s s1 g blk → ∃ new, Completes (.vfirst d a) s s1 g blk new
       ∧ OnlyReg g new d fun _ v => (∀ k < 32, votes g a k → (∀ m < k, ¬votes g a m) → v = dw k)
         ∧ ((∀ k < 32, ¬votes g a k) → v = 32))
     ∧ ∀ d a s s1 g blk, Issues (.mbcnt d a) false s s1 g blk → ∃ new, Completes (.mbcnt d a) s s1 g blk new
       ∧ OnlyReg g new d fun l v =>
         v = dw ((List.range 32).filter fun k => decide (k < l) && bit (g.readR a l) k && g.isMember k).length)
  ∧ (Laid [0x30, 0x31, 0x32, 0x33] crossWord)

/-- R18, R19, R143, R153, R257, R258, R259, R260, R271, R276, R277, R363: FMTGET, CLOCK and MFS deliver a register;
FMTSET and MTS write one, or fault where the value does not fit; a read-only register and a source without a lane
leave everything as it was. -/
def Obligations.SpecialRegisters : Prop :=
  (∀ d s s1 g blk, Issues (.fmtget d) false s s1 g blk → ∃ new, Completes (.fmtget d) s s1 g blk new
    ∧ OnlyReg g new d fun _ v => v = g.fmt)
  ∧ (∀ d s s1 g blk, Issues (.clock d) false s s1 g blk → ∃ new, Completes (.clock d) s s1 g blk new
    ∧ OnlyReg g new d fun _ v => v = dw s1.clock)
  ∧ (∀ d sel s s1 g blk, Issues (.mfs d sel) false s s1 g blk → ∃ new, Completes (.mfs d sel) s s1 g blk new
    ∧ OnlyReg g new d fun l v => ∀ x, sysReads s1 g blk l sel.val = some x → v = x)
  ∧ (∀ a b s s1 g blk, Issues (.fmtset a b) false s s1 g blk →
      let m : Dword := match b with
        | .z => BitVec.allOnes 64
        | b => g.readS b
      let v := (g.fmt &&& ~~~m) ||| (g.readS a &&& m)
      (fmtFits v → Completes (.fmtset a b) s s1 g blk { g with fmt := v })
        ∧ (¬fmtFits v → Faults (.fmtset a b) s s1 g .format v))
  ∧ (∀ sel d s s1 g blk, Issues (.mts sel d) false s s1 g blk →
      (g.readOne d = none → Completes (.mts sel d) s s1 g blk g)
      ∧ ∀ v, g.readOne d = some v →
        (∀ new, sysWrites g v sel.val = some new → Completes (.mts sel d) s s1 g blk new)
        ∧ (sel.val ∈ sysReadOnly → Completes (.mts sel d) s s1 g blk g)
        ∧ (sel.val = 0x003 → (fmtFits v → Completes (.mts sel d) s s1 g blk { g with fmt := v })
          ∧ (¬fmtFits v → Faults (.mts sel d) s s1 g .format v))
        ∧ (sel.val = 0x060 → (gangFits v → Completes (.mts sel d) s s1 g blk { g with gang := v &&& 0x1F3F })
          ∧ (¬gangFits v → ∃ x, Faults (.mts sel d) s s1 g .gang x))
        ∧ (sel.val = 0x065 →
          let takes := CompletesIn (.mts sel d) s s1
            { s1 with blocks := amod s1.blocks g.blk fun b => { b with accin := v &&& 0xFFFFFFC0FFFFFFFF } } g blk
          let room := bits v 53 46 + bits v 45 38 + 1 ≤ blk.lapl
          let valid := ∃ e, aget (ctxOf s1 blk.ctx).colls (bits v 62 54) = some e ∧ e.rooted = false ∧ bits v 31 0 % 32 = 0
          (bit v 63 = false → takes)
          ∧ (bit v 63 = true → bits v 37 32 ≠ 0 → Faults (.mts sel d) s s1 g .reservedField v)
          ∧ (bit v 63 = true → bits v 37 32 = 0 → ¬room → Faults (.mts sel d) s s1 g .allotment v)
          ∧ (bit v 63 = true → bits v 37 32 = 0 → room → ¬valid → Faults (.mts sel d) s s1 g .protection v)
          ∧ (bit v 63 = true → bits v 37 32 = 0 → room → valid → takes)))

/-- R146, R344: WIN and AWIN move their window to an accepted base, and fault on any other with nothing changed. R142,
R148, R158, R271, R275: NOP changes nothing; NOPRE opens a window and leaves an open one; OKPRE closes it where no
fallback is due; GSPAN takes its mask and count; SIGCK and SIGRST restart the hash; STAGE keeps at most 16 registers.
-/
def Obligations.WindowsAndMarks : Prop :=
  ((∀ a s s1 g blk, Issues (.win a) true s s1 g blk →
     let v := (g.readS a).toNat
     (v % 8 = 0 ∧ v + 8 ≤ 32 * blk.vregs → Completes (.win a) s s1 g blk { g with wbase := v })
       ∧ (¬(v % 8 = 0 ∧ v + 8 ≤ 32 * blk.vregs) → Faults (.win a) s s1 g .windowRange (g.readS a)))
   ∧ ∀ a s s1 g blk, Issues (.awin a) true s s1 g blk →
     let v := (g.readS a).toNat
     (v % 8 = 0 ∧ (v = 0 ∨ v < blk.lapl) → Completes (.awin a) s s1 g blk { g with awbase := v })
       ∧ (¬(v % 8 = 0 ∧ (v = 0 ∨ v < blk.lapl)) → Faults (.awin a) s s1 g .allotment (g.readS a)))
  ∧ ((∀ s s1 g blk, Issues .nop false s s1 g blk → Completes .nop s s1 g blk g)
     ∧ (∀ s s1 g blk, Issues .nopre false s s1 g blk →
       Completes .nopre s s1 g blk { g with nopre := some (g.nopre.getD s1.clock) })
     ∧ (∀ s s1 g blk, Issues .okpre false s s1 g blk → g.nopre = none ∨ blk.pre = none →
       Completes .okpre s s1 g blk { g with nopre := none })
     ∧ (∀ p n cnt1 s s1 g blk, Issues (.gspan p n cnt1) false s s1 g blk → ∃ m : Mask,
       Completes (.gspan p n cnt1) s s1 g blk { g with gmask := m, grem := cnt1.val + 1 }
         ∧ ∀ l < 32, (m.getLsbD l = true ↔ (votes0 g p l ↔ n = false)))
     ∧ (∀ imm s s1 g blk, Issues (.sigck imm) false s s1 g blk → (headerOf s1 blk.launch).sigen = true →
         (g.sig.getLsbD 16 = true ∨ g.sig.truncate 16 = imm → Completes (.sigck imm) s s1 g blk { g with sig := 0 })
         ∧ (g.sig.getLsbD 16 = false → g.sig.truncate 16 ≠ imm → ∃ v, Faults (.sigck imm) s s1 g .signature v))
     ∧ (∀ imm s s1 g blk, Issues (.sigck imm) false s s1 g blk → (headerOf s1 blk.launch).sigen = false →
       Completes (.sigck imm) s s1 g blk g)
     ∧ (∀ s s1 g blk, Issues .sigrst false s s1 g blk →
       Completes .sigrst s s1 g blk (if (headerOf s1 blk.launch).sigen then { g with sig := 0 } else g))
     ∧ ∀ base mask s s1 g blk, Issues (.stage base mask) false s s1 g blk → ∃ w,
       Completes (.stage base mask) s s1 g blk { g with wings := w } ∧ w.length ≤ 16
         ∧ (∀ r ∈ w, (g.staging = true ∧ r ∈ g.wings) ∨ ∃ i < 19, mask.getLsbD i = true ∧ base.val + i ≤ 111
           ∧ r = g.wbase + base.val + i ∧ r < 32 * blk.vregs))

/-- R281: BRA and BRL go to their target or on; BRD goes on where no lane takes it, to the target where all do, and
else splits the group; JOIN pushes; a push on a full stack faults. R140, R157, R178: ENDJ takes EXEC, FMT and PC from
the top entry and pops it; a JOIN entry merges the group's buffered updates; on an empty stack it faults with TRAPVAL
1. -/
def Obligations.BranchesAndJoins : Prop :=
  ((∀ i taken off s s1 g blk, decides g i = some (taken, off) → Issues i false s s1 g blk →
     (taken → Transfers i s s1 g blk g (target g.pc off)) ∧ (¬taken → Completes i s s1 g blk g))
   ∧ (∀ p n off s s1 g blk, Issues (.brd p n off) false s s1 g blk →
     ∃ m : Mask, (∀ l, m.getLsbD l = true ↔ g.active.getLsbD l = true ∧ (votes0 g p l ↔ n = false))
       ∧ (m = 0 → Completes (.brd p n off) s s1 g blk g)
       ∧ (m ≠ 0 → m = g.active → Transfers (.brd p n off) s s1 g blk g (target g.pc off))
       ∧ (m ≠ 0 → m ≠ g.active → g.stack.length < 32 → Completes (.brd p n off) s s1 g blk
           { g with exec := g.exec &&& ~~~m, stack := ⟨true, g.fmt, target g.pc off, m⟩ :: g.stack })
       ∧ (m ≠ 0 → m ≠ g.active → 32 ≤ g.stack.length → Faults (.brd p n off) s s1 g .stackOverflow 0))
   ∧ ∀ off s s1 g blk, Issues (.join off) false s s1 g blk →
     (g.stack.length < 32 → Completes (.join off) s s1 g blk
         { g with stack := ⟨false, g.fmt, target g.pc off, g.exec⟩ :: g.stack })
       ∧ (32 ≤ g.stack.length → Faults (.join off) s s1 g .stackOverflow 0))
  ∧ (∀ s s1 g blk, Issues .endj false s s1 g blk →
       (g.stack = [] → Faults .endj s s1 g .stackOverflow 1)
       ∧ ∀ e r, g.stack = e :: r →
         let new := { g with exec := e.mask, fmt := e.fmt, stack := r }
         (e.path = true → exec .endj s = .next (complete .endj g blk s1.cur (setGroup s1 s1.cur new) (.goto e.pc (some 0)) []))
         ∧ (e.path = false → exec .endj s = .next (complete .endj g blk s1.cur
             (setGroup (flushUpd s1 fun u => u.grp == s1.cur) s1.cur new) (.goto e.pc (some 1)) [])))

/-- R282, R285: CALL and CALLR leave PC + 4 in s15, also with no lane active, and every transfer through a register of
a value that is no multiple of 4 faults with nothing changed. R152: the nest is judged first; then a count of 0 skips
the body, and any other starts the counter. That the counter keeps its value where the loop is skipped is the model's
choice (log 74). -/
def Obligations.CallsAndLoops : Prop :=
  ((∀ off s s1 g blk, Issues (.call off) false s s1 g blk → ∃ new,
     Transfers (.call off) s s1 g blk new (g.pc + 4 + off.signExtend 64 * 4)
       ∧ new.readSn 15 = g.pc + 4 ∧ (∀ n ≠ 15, new.readSn n = g.readSn n) ∧ new.vregs = g.vregs ∧ new.preds = g.preds
       ∧ new.shell = g.shell)
   ∧ (∀ a s s1 g blk, Issues (.callr a) false s s1 g blk →
     ((g.readS a).toNat % 4 = 0 → ∃ new, Transfers (.callr a) s s1 g blk new (g.readS a)
       ∧ new.readSn 15 = g.pc + 4 ∧ (∀ n ≠ 15, new.readSn n = g.readSn n) ∧ new.vregs = g.vregs ∧ new.preds = g.preds
       ∧ new.shell = g.shell)
     ∧ ((g.readS a).toNat % 4 ≠ 0 → Faults (.callr a) s s1 g .alignment (g.readS a)))
   ∧ (∀ a s s1 g blk, Issues (.jmpr a) false s s1 g blk →
     ((g.readS a).toNat % 4 = 0 → Transfers (.jmpr a) s s1 g blk g (g.readS a))
     ∧ ((g.readS a).toNat % 4 ≠ 0 → Faults (.jmpr a) s s1 g .alignment (g.readS a)))
   ∧ ∀ s s1 g blk, Issues .ret false s s1 g blk →
     ((g.readSn 15).toNat % 4 = 0 → Transfers .ret s s1 g blk g (g.readSn 15))
     ∧ ((g.readSn 15).toNat % 4 ≠ 0 → Faults .ret s s1 g .alignment (g.readSn 15)))
  ∧ (∀ i lc len n s s1 g blk, loops g i = some (lc, len, n) → Issues i false s s1 g blk →
       let ok := (g.lc lc).active = false ∧ ∀ c ∈ [g.lc0, g.lc1, g.lc2], within g len c
       (¬ok → Faults i s s1 g .loopNest (dw lc))
       ∧ (ok → n = 0 → Transfers i s s1 g blk g (g.pc + 4 + dw (4 * len)))
       ∧ (ok → n ≠ 0 → ∃ c : LoopCtr, Completes i s s1 g blk (g.setLc lc c)
         ∧ c.active = true ∧ c.count.toNat = n ∧ c.start = g.pc + 4 ∧ c.len = len
         ∧ ∀ x ∈ [g.lc0, g.lc1, g.lc2], x.order < c.order))

/-- R273, R393, R144, R150, R157: with a handler and INH = 0, TRAP and BKPT enter the handler; nothing but the group,
the long accumulators its pending results land in, and the latch it stood at has changed. That promises stand through
the entry, their results landed, is the model's reading (log 15). R144, R158, R274: RTT in a handler goes back with
the span that was held; SLEEP blocks for its nanoseconds, and goes on at once for 0; YIELD completes where no
pre-emption is pending. -/
def Obligations.TrapsAndReturns : Prop :=
  (∀ i code v pc s s1 g blk, traps g i = some (code, v, pc) → Issues i false s s1 g blk →
     g.inh = false → (ctxOf s1 blk.ctx).handler ≠ 0 →
     ∃ t h, exec i s = .next t ∧ Entered (headerOf s1 blk.launch).sigen g h code v pc (ctxOf s1 blk.ctx).handler
       ∧ h.lost = g.lost ∧ h.lastIssue = s1.clock
       ∧ t = { s1 with
         groups := aset s1.groups s1.cur h
         blocks := aset s1.blocks g.blk { blk with las := (drain (g, blk.las)).2 }
         latches := (s1.latches.map fun (l : Latch) => { l with members := l.members.filter fun m => m.2 != s1.cur }).filter
           fun l => !l.members.isEmpty })
  ∧ ((∀ s s1 g blk, Issues .rtt true s s1 g blk → g.routine = .handler → g.lost = false → ∃ new,
       Transfers .rtt s s1 g blk new g.trapPc ∧ new.grem = g.gheld ∧ new.gmask = g.ghold ∧ new.gheld = 0 ∧ new.ghold = 0
         ∧ new.inh = false ∧ new.routine = .none
         ∧ new.sig = (if (headerOf s1 blk.launch).sigen then 0x10000 else g.sig)
         ∧ { new with pc := g.pc, grem := g.grem, gmask := g.gmask, gheld := g.gheld, ghold := g.ghold, inh := g.inh,
                      routine := g.routine, sig := g.sig, wings := g.wings, staging := g.staging } = g)
     ∧ (∀ s s1 g blk, Issues .rtt true s s1 g blk → g.routine = .none → ∃ v, Faults .rtt s s1 g .illegal v)
     ∧ (∀ a s s1 g blk, Issues (.sleep a) false s s1 g blk →
       let v := g.readS a
       (bits v 63 32 ≠ 0 → Faults (.sleep a) s s1 g .reservedField v)
       ∧ (v = 0 → Completes (.sleep a) s s1 g blk g)
       ∧ (bits v 63 32 = 0 → v ≠ 0 → exec (.sleep a) s = .next { s1 with groups := amod s1.groups s1.cur fun h =>
           { h with st := .blocked, wait := some (.sleep a, .sleep (s1.clock + nsClocks v.toNat)) } }))
     ∧ (∀ s s1 g blk, Issues .yield true s s1 g blk → blk.pre = none →
       Completes .yield s s1 g blk { g with yieldAt := some s1.clock })
     ∧ ∀ id s s1 g blk, Issues (.cue id) true s s1 g blk →
       blk.pre = none ∨ g.inh = true ∨ g.nopre.isSome = true → Completes (.cue id) s s1 g blk g)

/-- R272, R159, R250: EXIT outside a save or restore routine drains the group and ends it: while another group of its
block runs on, it is EXITED, its NOPRE window closed, its stack empty, its loops over, its queue registers unbound,
its registers as they had landed, and no other group changes but for the urgency that a completed barrier resets and a
watched dword that its updates change (R170); inside one it is illegal. R279, R408, R410: RECORD appends a USER record
of four dwords where the context logs: the type, the die, the context and the book's count, the time, the value, and
the group as agent with its lowest active lane; with logging off, in a handler, or with the die's book not armed, it
changes nothing, and with the book full it faults. -/
def Obligations.ExitAndRecord : Prop :=
  (∀ s s1 g blk, Issues .exit true s s1 g blk →
    (g.inRoutine = false →
      let t := endGroup (drainGroup s1 s1.cur drainAll) s1.cur false
      exec .exit s = .next t
      ∧ ((∃ o x, o ≠ s1.cur ∧ aget s1.groups o = some x ∧ x.blk = g.blk ∧ x.ended = false) →
        (∃ h, aget t.groups s1.cur = some h ∧ h.st = .exited ∧ h.nopre = none ∧ h.stack = []
          ∧ (∀ n < 3, isOver (h.lc n)) ∧ (h.qregs, h.pend, h.wings) = ([], [], []) ∧ (h.wait, h.region) = (none, none)
          ∧ (h.urg = g.urg ∨ h.urg = 0) ∧ h.stalled = false
          ∧ { h with st := g.st, nopre := g.nopre, stack := g.stack, lc0 := g.lc0, lc1 := g.lc1, lc2 := g.lc2
                     qregs := g.qregs, pend := g.pend, wings := g.wings, wait := g.wait, region := g.region
                     stalled := g.stalled, urg := g.urg } = g)
        ∧ (let calm (x : Option Group) : Option Group := x.map fun x => { x with urg := 0 }
          ((∀ u ∈ s1.upd, u.grp ≠ s1.cur) → ∀ k, k ≠ s1.cur → calm (aget t.groups k) = calm (aget s1.groups k))
            ∧ (aRising s1.groups = true → ∀ k, k ≠ s1.cur → Woken (calm (aget s1.groups k)) (calm (aget t.groups k))))))
    ∧ (g.inRoutine = true → ∃ v, Faults .exit s s1 g .illegal v))
  ∧ ∀ a s s1 g blk, Issues (.record a) false s s1 g blk →
    let x := ctxOf s1 blk.ctx
    let die := blk.core / 40
    let bk := bookOf s1 die
    let at_ := bk.base * 65536 + bk.head % (bk.pages * 65536)
    let logs := g.inh = false ∧ (x.place = true ∨ x.obs = true ∨ x.sched ≠ 0)
    (¬logs ∨ bk.arm = false → Completes (.record a) s s1 g blk g)
    ∧ (logs → bookFull s1 die 1 = true → Faults (.record a) s s1 g .bookFull (dw (4 * 16 + die)))
    ∧ (logs → bk.arm = true → bookFull s1 die 1 = false → inError s1 at_ 32 = false → (∀ j < 32, inTables (at_ + j) = false) →
      ∃ s2, CompletesIn (.record a) s s1 s2 g blk ∧ s2 = { s1 with mem := s2.mem, books := s2.books }
        ∧ bookOf s2 die = { bk with head := bk.head + 32, count := bk.count + 1 }
        ∧ (∀ d, d ≠ die → bookOf s2 d = bookOf s1 d)
        ∧ recordAt s2 at_ 0 = (4 * 2 ^ 60 + die * 2 ^ 58 + blk.ctx * 2 ^ 46 + bk.count % 2 ^ 32) % 2 ^ 64
        ∧ recordAt s2 at_ 1 = s1.clock * 2 / 5 % 2 ^ 64 ∧ recordAt s2 at_ 2 = (g.readS a).toNat
        ∧ recordAt s2 at_ 3
          = (blk.lcore * 2 ^ 54 + blk.slot * 2 ^ 50 + g.idx * 2 ^ 45 + (g.lanesOn.head?.getD 0) * 2 ^ 40) % 2 ^ 64
        ∧ ∀ key pa, (∀ j < 32, memKey key pa ≠ memKey 0 (at_ + j)) → readByte s2 key pa = readByte s1 key pa)

/-- R312, R313, R315, R229, R136, R247: a load of lanes that pass completes; d takes the bytes where the page was
there and 0 where it was absent, f the flags; memory reads as before. LDU makes one such load for the group (R316).
R315: a load with d = z is a probe: it makes the checks, writes the flags and touches nothing else. -/
def Obligations.LoadsAndProbes : Prop :=
  ((∀ i n sg d a f s s1 g blk, loads i = some (n, sg, d, a, f) → d ≠ .z → Issues i false s s1 g blk → Calm s1 →
     let chk (l : Nat) := laneChk s1 blk.ctx .load n (g.readR a l)
     (∀ l ∈ g.evalLanes d, Passes s1 blk .load n [evGets] f (g.readR a l)) →
     ∃ s2 new, CompletesIn i s s1 s2 g blk ∧ MemNext s1 s2 s1.cur new (readByte s1)
       ∧ RegAndFlags g new d f (fun l v => (∀ t, chk l = .ok t → holdsBytes n sg (fun j => readByte s1 t.key (t.pa + j)) v)
           ∧ (chk l = .absent → v = 0)) (flagIs g d chk))
   ∧ ∀ d a w32 f la s s1 g blk, Issues (.ldu d a w32 f la) false s s1 g blk → Calm s1 →
     let n := if w32 then 4 else 8
     let chk := laneChk s1 blk.ctx .load n (g.readS a)
     (g.lanesOn = [] → Completes (.ldu d a w32 f la) s s1 g blk g)
     ∧ (g.lanesOn ≠ [] → d ≠ .z → Passes s1 blk .load n [evGets] f (g.readS a) →
       ∃ s2 new, CompletesIn (.ldu d a w32 f la) s s1 s2 g blk ∧ MemNext s1 s2 s1.cur new (readByte s1)
         ∧ new.shell = g.shell ∧ new.vregs = g.vregs
         ∧ (∀ m : Fin 16, d = .s m → (∀ t, chk = .ok t →
               holdsBytes n false (fun j => readByte s1 t.key (t.pa + j)) (new.readSn m)) ∧ (chk = .absent → new.readSn m = 0))
         ∧ (∀ m : Nat, (∀ x : Fin 16, d = .s x → m ≠ x.val) → new.readSn m = g.readSn m)
         ∧ WrotePred g new f fun _ v => v = if chk = .absent then 255 else 0))
  ∧ (∀ i n sg a f s s1 g blk, loads i = some (n, sg, .z, a, f) → Issues i false s s1 g blk →
       let chk (l : Nat) := laneChk s1 blk.ctx .load n (g.readR a l)
       (∀ l ∈ g.lanesOn, (∃ t, chk l = .ok t) ∨ (chk l = .absent ∧ f ≠ 15)) →
       ∃ new, Completes i s s1 g blk new ∧ OnlyPred g new f (flagIs g .z chk))

/-- R312, R313, R315, R136, R180: a store of lanes that pass puts the low n bytes of d at each member lane's address,
the first byte lowest, the highest lane last, and leaves every other byte; f takes the flags. -/
def Obligations.Stores : Prop :=
  ∀ i n d a f s s1 g blk, stores i = some (n, d, a, f) → Issues i false s s1 g blk → Calm s1 →
    let chk (l : Nat) := laneChk s1 blk.ctx .store n (g.readR a l)
    (∀ l ∈ g.lanesOn, g.isMember l = true → Passes s1 blk .store n storeEvs f (g.readR a l)) →
    ∃ s2 new read, CompletesIn i s s1 s2 g blk ∧ MemNext s1 s2 s1.cur new read ∧ s2.upd = []
      ∧ Stored s1 (g.lanesOn.filter g.isMember) n chk (fun l j => byteOf (g.readR d l) j) read
      ∧ OnlyPred g new f (flagIs g .z chk)

/-- R313: of the faults that the checks of member lanes find, the one of the earliest check is raised, at the lowest
lane that fails it, before any memory is touched. -/
def Obligations.AccessFaults : Prop :=
  ∀ i s s1 g blk k n (ls : List Nat) (a : GReg) (f : PReg), Issues i false s s1 g blk →
    ((∃ sg d, loads i = some (n, sg, d, a, f) ∧ k = AccKind.load ∧ ls = g.evalLanes d)
      ∨ ∃ d, stores i = some (n, d, a, f) ∧ k = .store ∧ ls = g.lanesOn) →
    ∀ l ∈ ls, g.isMember l = true → ∀ o t, laneChk s1 blk.ctx k n (g.readR a l) = .bad o t →
    (∀ m ∈ ls, g.isMember m = true → ∀ p u, laneChk s1 blk.ctx k n (g.readR a m) = .bad p u → o < p ∨ (o = p ∧ l ≤ m)) →
    Faults i s s1 g t (g.readR a l)

/-- R319, R320, R136, R247: an atomic operation that returns a value gives each lane what its location held, and
leaves there what R320 makes of it; lanes on different lines do not disturb each other, and no other byte changes.
Between two lanes on one line a group in WAITM may see its dword change (R170). R178, R320: with d = z the commutative
operations are buffered: each member lane's update waits, memory reads as before, and no register changes. The order
of lanes that name one location is a free value (log 18). -/
def Obligations.AtomicsAndUpdates : Prop :=
  (∀ i op n d a f s s1 g blk, atoms i = some (op, n, d, a, f) → ¬commutes op d → Issues i false s s1 g blk → Calm s1 →
     let mine := (g.evalLanes d).filter g.isMember
     let chk (l : Nat) := laneChk s1 blk.ctx .rmw n (g.readB a 0 l)
     let w := 8 * n
     (∀ l ∈ mine, Passes s1 blk .rmw n [evAtom] f (g.readB a 0 l)) →
     ∃ s2 new read, CompletesIn i s s1 s2 g blk ∧ aget s2.groups s1.cur = some new ∧ s2.upd = []
       ∧ (apart mine chk ∨ (∀ e ∈ s1.groups, ¬watches e.2) → MemNext s1 s2 s1.cur new read)
       ∧ (∀ key pa, readByte s2 key pa = read key pa)
       ∧ (∀ key pa, (∀ l ∈ mine, ∀ t, chk l = .ok t → ¬hits t n key pa) → read key pa = readByte s1 key pa)
       ∧ (apart mine chk → ∀ l ∈ mine, ∀ t, chk l = .ok t →
           ∃ r < 2 ^ w, atomic op w (numAt s1 t.key t.pa n) ((g.readB a 1 l).toNat % 2 ^ w) ((g.readB a 2 l).toNat % 2 ^ w) r
             ∧ ∀ j < n, read t.key (t.pa + j) = BitVec.ofNat 8 (r / 2 ^ (8 * j)))
       ∧ WroteReg g new d (fun l v => (apart mine chk → l ∈ mine → ∀ t, chk l = .ok t → v = dw (numAt s1 t.key t.pa n))
           ∧ (l ∉ mine ∨ chk l = .absent → v = 0))
       ∧ MayWake g.shell new.shell ∧ (∀ k, k ≠ s1.cur → Woken (aget s1.groups k) (aget s2.groups k))
       ∧ WrotePred g new f (flagIs g d chk))
  ∧ (∀ i op n d a f s s1 g blk, atoms i = some (op, n, d, a, f) → commutes op d → Issues i false s s1 g blk → Calm s1 →
       let mine := g.lanesOn.filter g.isMember
       let chk (l : Nat) := laneChk s1 blk.ctx .update n (g.readB a 0 l)
       (∀ l ∈ mine, Passes s1 blk .update n [evGetm] f (g.readB a 0 l)
         ∧ ∀ t, chk l = .ok t → protoId s1 t.pa ≠ 4) → apart mine chk →
       ∃ s2 new, CompletesIn i s s1 s2 g blk ∧ MemNext s1 s2 s1.cur new (readByte s1)
         ∧ (∀ u, u ∈ s2.upd ↔ ∃ l ∈ mine, ∃ t, chk l = .ok t
             ∧ u = ⟨s1.cur, blk.core, t.key, t.pa, n, op, g.readB a 1 l, none, none, false, false⟩)
         ∧ WrotePred g new f (flagIs g .z chk)
         ∧ new.vregs = g.vregs ∧ new.sregs = g.sregs ∧ new.shell = g.shell)

/-- R317, R318, R136, R180, R247: loads from the scratchpad give the bytes of the offset, zero-extended; stores put
the low bytes of d there, the highest lane last; no byte of memory and no other byte of a scratchpad changes. -/
def Obligations.ScratchpadAccesses : Prop :=
  ∀ i remote store w d a f s s1 g blk, spads i = some (remote, store, w, d, a, f) → Issues i false s s1 g blk →
    let n := Width.bits w / 8
    let ls := if store then g.lanesOn.filter g.isMember else g.evalLanes d
    ∀ key o : Nat → Nat, (∀ l ∈ ls, InSpad s1 g blk remote n (g.readR a l) (key l) (o l)) →
    ∃ s2 new, CompletesIn i s s1 s2 g blk ∧ aget s2.groups s1.cur = some new
      ∧ s2 = { s1 with blocks := s2.blocks, groups := aset s1.groups s1.cur new }
      ∧ (store = false → s2.blocks = s1.blocks
          ∧ RegAndFlags g new d f (fun l v => holdsBytes n false (fun j => spadByte s1 (key l) (o l + j)) v) (fun _ v => v = 0))
      ∧ (store = true → OnlyPred g new f (fun _ v => v = 0)
          ∧ (∀ l ∈ ls, ∀ j < n, (∀ m ∈ ls, l < m → ¬(key m = key l ∧ o m ≤ o l + j ∧ o l + j < o m + n)) →
              spadByte s2 (key l) (o l + j) = byteOf (g.readR d l) j)
          ∧ (∀ k x, (∀ m ∈ ls, ¬(key m = k ∧ o m ≤ x ∧ x < o m + n)) → spadByte s2 k x = spadByte s1 k x)
          ∧ ∀ k, (aget s2.blocks k).map (fun b => { b with spad := [], spadBad := [] })
              = (aget s1.blocks k).map (fun b => { b with spad := [], spadBad := [] }))

/-- R343, R345, R347, R62 to R64: each active lane's accumulator, or each of a run of them, takes the lane's terms;
the others stay as they are, and nothing but accumulators changes. R345, R368: a format that an adding instruction
does not take faults with FMT in TRAPVAL; an index outside the window or the allotment faults first, with the index.
-/
def Obligations.AccumulatorAdditions : Prop :=
  (∀ i spread neg d a b af bf s s1 g blk, laAdds i = some (spread, neg, d, a, b) → Issues i false s s1 g blk →
     laFits g.fmt b.isSome af bf →
     let n := 64 / numBits af
     let term (l j : Nat) : Option FVal := laTerm g.fmt af (g.readR a l) (b.map fun r => (bf, g.readR r l)) neg j
     let named (k : Nat) : Prop := if spread then d.val ≤ k ∧ k < d.val + n else k = d.val
     (∀ k, named k → allotted g blk k ∧ ∀ l ∈ g.lanesOn, (laOf g blk.las k l).bad = false) →
     ∃ lw, CompletesLas i s s1 s1 g blk lw
       ∧ (let new := landLas blk.las lw
         (∀ l ∈ g.lanesOn,
           (spread = false → Added (laOf g blk.las d l) (laOf g new d l) ((List.range n).map (term l)))
             ∧ (spread = true → ∀ j < n, Added (laOf g blk.las (d + j) l) (laOf g new (d + j) l) [term l j]))
         ∧ lasKept g blk.las new named))
  ∧ (∀ i spread neg d a b s s1 g blk, laAdds i = some (spread, neg, d, a, b) → Issues i false s s1 g blk → spread = false →
       (¬allotted g blk d → Faults i s s1 g .allotment (dw d))
       ∧ (allotted g blk d → (∀ af bf, ¬laFits g.fmt b.isSome af bf) → Faults i s s1 g .format g.fmt))

/-- R348, R349: LACLR clears and LACRS resolves a run of accumulators; LAMRG, LAMOV, LANEG, LAXL and LAXB write one in
each active lane from the accumulators as they stood, and leave those they read resolved (R65). -/
def Obligations.AccumulatorMoves : Prop :=
  (∀ i d s s1 g blk, ∀ clear : Bool, ∀ n1 : Fin 128, i = (if clear then Instr.laclr d n1 else .lacrs d n1) →
    Issues i false s s1 g blk → (∀ k, d.val ≤ k → k ≤ d.val + n1.val → allotted g blk k) →
    ∃ lw, CompletesLas i s s1 s1 g blk lw
      ∧ (∀ k, d.val ≤ k → k ≤ d.val + n1.val → ∀ l ∈ g.lanesOn,
          if clear then laOf g (landLas blk.las lw) k l = LA.zero
          else Resolved (laOf g blk.las k l) (laOf g (landLas blk.las lw) k l))
      ∧ lasKept g blk.las (landLas blk.las lw) fun k => d.val ≤ k ∧ k ≤ d.val + n1.val)
  ∧ ∀ i d reads from_ rule s s1 g blk, laMoves g (laOf g blk.las) i = some (d, reads, from_, rule) →
    Issues i false s s1 g blk →
    allotted g blk d → (∀ n ∈ reads, allotted g blk n ∧ ∀ l < 32, (laOf g blk.las n l).bad = false) →
    ∃ las lw, CompletesLas i s s1 (withLas s1 g las) g blk lw
      ∧ ReadLas g blk.las las (fun n l => n ∈ reads ∧ from_ l)
      ∧ (∀ l ∈ g.lanesOn, rule l (laOf g (landLas las lw) d l))
      ∧ lasKept g las (landLas las lw) fun k => k = d

/-- R350, R351, R60, R68: LAPUT writes a segment, or the status word, or clears; LAFLG gives the status, LASEG a
segment of the resolved value, LARND the rounded values of a run and their flags; what these three read they leave
resolved (R65). -/
def Obligations.AccumulatorParts : Prop :=
  (∀ d a k s s1 g blk, Issues (.laput d a k) false s s1 g blk → allotted g blk d →
    (∀ l ∈ g.lanesOn, (laOf g blk.las d l).bad = false) →
    (k.val ≤ 9 ∨ ∀ l ∈ g.lanesOn, bits (g.readR a l) 63 48 = 0 ∧ bits (g.readR a l) 39 26 = 0 ∧ bits (g.readR a l) 15 7 = 0) →
    ∃ lw, CompletesLas (.laput d a k) s s1 s1 g blk lw
      ∧ (∀ l ∈ g.lanesOn,
          let x := laOf g blk.las d l
          let y := laOf g (landLas blk.las lw) d l
          let v := g.readR a l
          (k.val ≤ 9 → Resolved x { y with seg := x.resolve.seg } ∧ y.inUse = true ∧ y.dirty = true
            ∧ ∀ j < 10, y.seg.toNat / 2 ^ (64 * j) % 2 ^ 64 =
                if j = k.val then v.toNat else x.resolve.seg.toNat / 2 ^ (64 * j) % 2 ^ 64)
          ∧ (9 < k.val → bit v 0 = false → y = LA.zero)
          ∧ (9 < k.val → bit v 0 = true → y.seg = x.resolve.seg ∧ (∀ c ∈ y.car, c = 0) ∧ y.inUse = true ∧ y.dirty = true
            ∧ y.ovf = bit v 2 ∧ y.nan = bit v 3 ∧ y.pinf = bit v 4 ∧ y.ninf = bit v 5 ∧ y.invalid = bit v 6
            ∧ y.guard = sext 8 (bits v 47 40)))
      ∧ lasKept g blk.las (landLas blk.las lw) fun n => n = d.val)
  ∧ (∀ d a s s1 g blk, Issues (.laflg d a) false s s1 g blk → allotted g blk a →
    (∀ l ∈ g.evalLanes d, (laOf g blk.las a l).bad = false) →
    ∃ s2 new las, CompletesIn (.laflg d a) s s1 s2 g blk
      ∧ s2 = { withLas s1 g las with groups := aset s1.groups s1.cur new }
      ∧ ReadLas g blk.las las (fun n l => n = a.val ∧ l ∈ g.evalLanes d)
      ∧ OnlyReg g new d fun l v =>
        let x := laOf g blk.las a l
        bit v 0 = x.inUse ∧ bit v 1 = x.dirty ∧ bit v 2 = x.ovf ∧ bit v 3 = x.nan ∧ bit v 4 = x.pinf ∧ bit v 5 = x.ninf
          ∧ bit v 6 = x.invalid ∧ bits v 15 7 = 0 ∧ bits v 24 16 = 0
          ∧ (bits v 47 40 : Int) = guardOf x.n % 256 ∧ (bit v 25 = true ↔ guardOf x.n ≠ 0))
  ∧ (∀ d a k la s s1 g blk, Issues (.laseg d a k la) false s s1 g blk → allotted g blk a →
    (∀ l ∈ g.evalLanes d, (laOf g blk.las a l).bad = false) →
    ∃ s2 new las, CompletesIn (.laseg d a k la) s s1 s2 g blk
      ∧ s2 = { withLas s1 g las with groups := aset s1.groups s1.cur new }
      ∧ ReadLas g blk.las las (fun n l => n = a.val ∧ l ∈ g.evalLanes d)
      ∧ OnlyReg g new d fun l v => (v.toNat : Int) = (laOf g blk.las a l).n / ((2 ^ (64 * k.val) : Nat) : Int) % ((2 ^ 64 : Nat) : Int))
  ∧ ∀ d a fo rm la s s1 g blk, Issues (.larnd d a fo rm la) false s s1 g blk →
    let f := fo.getD ((fmtOf g.fmt).getD .fp64)
    let n := numBits f
    (∀ j < 64 / n, allotted g blk (a + j) ∧ ∀ l ∈ g.evalLanes d, (laOf g blk.las (a + j) l).bad = false) →
    ∃ s2 new las, CompletesIn (.larnd d a fo rm la) s s1 s2 g blk
      ∧ s2 = { withLas s1 g las with groups := aset s1.groups s1.cur new }
      ∧ ReadLas g blk.las las (fun m l => a.val ≤ m ∧ m < a.val + 64 / n ∧ l ∈ g.evalLanes d)
      ∧ (let res (l j : Nat) := roundLa g f (rm.getD (fmtRm g.fmt)) (laOf g blk.las (a + j) l)
        WroteReg g new d (fun l v => ∀ j < 64 / n, sub v n j = (res l j).1 % 2 ^ n)
          ∧ RaisedFlags g new (g.evalLanes d) fun l => laneFlags false (64 / n) fun j => (res l j).2)
      ∧ new.preds = g.preds ∧ new.core = g.core

/-- R69, R73: what LARND gives depends only on the multiset of the terms added since an accumulator was cleared, for
terms whose magnitudes total less than 2^348: whatever their order, the split into partial sums, the merges, sweeps
and images on the way. GUARD stays within its limit, and OVF is never set. -/
def Obligations.OrderFree : Prop :=
  ∀ ts us a b, Formed ts a → Formed us b → ts.Perm us →
    ((ts.map fun t => (addend t).natAbs).sum : Nat) < 2 ^ (348 + 298) →
    fitsGuard a.n ∧ a.ovf = false ∧ ∀ f mode bsc, a.round f mode bsc = b.round f mode bsc

/-- R70, R71: an image is 128 bytes, well-formed, and loads as the value and status it was taken from. -/
def Obligations.ImagesRoundTrip : Prop :=
  ∀ a : LA, fitsGuard a.n → a.image.length = 128 ∧ imageOk a.image = true
    ∧ (∀ k < 10, (ofBytes ((a.image.drop (8 * k)).take 8) : Int) = a.n / ((2 ^ (64 * k) : Nat) : Int) % ((2 ^ 64 : Nat) : Int))
    ∧ Resolved a (loadImage a.image) ∧ (loadImage a.image).inUse = a.inUse ∧ (loadImage a.image).dirty = a.dirty

/-- R322, R352, R61, R180: LAST stores the image of each member lane's accumulator, ATACC.clr that of a cleared one;
LALD loads one in each active lane, cleared where its page is absent; ATACC.addv and addp buffer one contribution a
member lane. That ATACC.clr ignores FORMAT is the model's reading (log 22). -/
def Obligations.CellAccesses : Prop :=
  (∀ d a f la s s1 g blk, Issues (.last d a f la) false s s1 g blk → Calm s1 → allotted g blk d →
    let chk (l : Nat) := laneChk s1 blk.ctx .last 128 (g.readR a l)
    (∀ l ∈ g.lanesOn, (laOf g blk.las d l).bad = false) →
    (∀ l ∈ g.lanesOn, g.isMember l = true → Passes s1 blk .last 128 storeEvs f (g.readR a l)) →
    ∃ s2 new read las, CompletesIn (.last d a f la) s s1 (withLas s2 g las) g blk ∧ MemNext s1 s2 s1.cur new read
      ∧ s2.upd = [] ∧ ReadLas g blk.las las (fun n l => n = d.val ∧ l ∈ g.lanesOn ∧ g.isMember l = true ∧ ∃ t, chk l = .ok t)
      ∧ Stored s1 (g.lanesOn.filter g.isMember) 128 chk (fun l j => ((laOf g blk.las d l).image[j]?).getD 0) read ∧ OnlyPred g new f (flagIs g .z chk))
  ∧ (∀ d a f la s s1 g blk, Issues (.ataccClr d a f la) false s s1 g blk → Calm s1 →
    let chk (l : Nat) := laneChk s1 blk.ctx .accumClr 128 (g.readB a 0 l)
    (∀ l ∈ g.lanesOn, g.isMember l = true → Passes s1 blk .accumClr 128 storeEvs f (g.readB a 0 l)) →
    ∃ s2 new read, CompletesIn (.ataccClr d a f la) s s1 s2 g blk ∧ MemNext s1 s2 s1.cur new read ∧ s2.upd = []
      ∧ Stored s1 (g.lanesOn.filter g.isMember) 128 chk (fun _ _ => 0) read ∧ OnlyPred g new f (flagIs g .z chk))
  ∧ (∀ d a f la s s1 g blk, Issues (.lald d a f la) false s s1 g blk → Calm s1 → allotted g blk d →
    let chk (l : Nat) := laneChk s1 blk.ctx .lald 128 (g.readR a l)
    (∀ l ∈ g.lanesOn, Passes s1 blk .lald 128 [evGets] f (g.readR a l)) →
    ∃ s2 new lw, CompletesLas (.lald d a f la) s s1 s2 g blk lw ∧ MemNext s1 s2 s1.cur new (readByte s1)
      ∧ (∀ l ∈ g.lanesOn, (chk l = .absent → laOf g (landLas blk.las lw) d l = LA.zero)
          ∧ ∀ t, chk l = .ok t → laOf g (landLas blk.las lw) d l = (loadImage (imageAt s1 t.key t.pa)).touch)
      ∧ lasKept g blk.las (landLas blk.las lw) (fun n => n = d.val) ∧ OnlyPred g new f (flagIs g .z chk))
  ∧ ∀ pair d a f la i af bf s s1 g blk, i = (if pair then Instr.ataccAddp d a f la else .ataccAddv d a f la) →
    Issues i false s s1 g blk → Calm s1 → laFits g.fmt pair af bf →
    let mine := g.lanesOn.filter g.isMember
    let chk (l : Nat) := laneChk s1 blk.ctx .accum 128 (g.readB a 0 l)
    (∀ l ∈ mine, Passes s1 blk .accum 128 [evGetm] f (g.readB a 0 l)) → apart mine chk →
    ∃ s2 new, ∃ cell : Nat → LA, CompletesIn i s s1 s2 g blk ∧ MemNext s1 s2 s1.cur new (readByte s1)
      ∧ (∀ l ∈ mine, Added LA.zero (cell l) ((List.range (64 / numBits af)).map
          (laTerm g.fmt af (g.readR d l) (if pair then some (bf, g.readB a 1 l) else none) false)))
      ∧ (∀ u, u ∈ s2.upd ↔ ∃ l ∈ mine, ∃ t, chk l = .ok t
          ∧ u = ⟨s1.cur, blk.core, t.key, t.pa, 128, .add, 0, some (cell l), none, false, false⟩)
      ∧ OnlyPred g new f (flagIs g .z chk)

/-- R356 to R360: an MMA outside a gang merges into each element of C, or puts in its place, the exact sum of the
products of a row of A and a column of B, in a cleared one without its poison mark (R397); no other accumulator and
nothing else changes. R361, R362: an MMAS outside a gang takes row 4 ⌊c / 2⌋ + index of B for compressed element c of
A, the index in two bits of the block of metadata at MDATA in the scratchpad, and moves MDATA on by its stride. -/
def Obligations.MatrixPasses : Prop :=
  (∀ d a b clr la af bf w kk s s1 g blk, Issues (.mma d a b clr la) false s s1 g blk → gangMode g.gang = 0 →
     fmtAf g.fmt = some af → fmtBf g.fmt = some bf → passOf af bf = some (w, kk) →
     (∀ j < 8, allotted g blk (d + j) ∧ (clr = false → ∀ l ∈ g.lanesOn, (laOf g blk.las (d + j) l).bad = false)) →
     ∃ lw, CompletesLas (.mma d a b clr la) s s1 s1 g blk lw
       ∧ (∀ l ∈ g.lanesOn, ∀ j < 8,
           PassLeaves clr (laOf g blk.las (d + j) l) (laOf g (landLas blk.las lw) (d + j) l)
             ((List.range kk).map fun k => mulVals (elemVal g a af (fmtAsc g.fmt) (fmtTa g.fmt) (l / 16 * 8 + j) k)
               (elemVal g b bf (fmtBsc g.fmt) (fmtTb g.fmt) (l % 16) k)))
       ∧ lasKept g blk.las (landLas blk.las lw) fun n => d.val ≤ n ∧ n < d.val + 8)
  ∧ (∀ d a b clr la af bf w kk s s1 g blk, Issues (.mmas d a b clr la) false s s1 g blk → gangMode g.gang = 0 →
       fmtAf g.fmt = some af → fmtBf g.fmt = some bf → passOf af bf = some (w, kk) → fmtTa g.fmt = false →
       (∀ j < 8, allotted g blk (d + j) ∧ (clr = false → ∀ l ∈ g.lanesOn, (laOf g blk.las (d + j) l).bad = false)) →
       let off := bits g.mdata 18 6 * 64
       bits g.mdata 63 28 = 0 → bit g.mdata 19 = false → bits g.mdata 5 0 = 0 → off + 4 * kk ≤ blk.spadKB * 1024 →
       blk.regions = [] → blk.spadBad = [] →
       let index (m c : Nat) : Nat :=
         let n := 2 * (m * kk + c)
         (spadByte s1 g.blk (off + n / 8)).toNat / 2 ^ (n % 8) % 4
       ∃ lw s2 new, CompletesLas (.mmas d a b clr la) s s1 s2 g blk lw ∧ s2 = { s1 with groups := aset s1.groups s1.cur new }
         ∧ new = { g with mdata := new.mdata } ∧ bits new.mdata 18 6 = (bits g.mdata 18 6 + bits g.mdata 27 20) % 2 ^ 13
         ∧ bits new.mdata 27 20 = bits g.mdata 27 20
         ∧ (∀ l ∈ g.lanesOn, ∀ j < 8,
             PassLeaves clr (laOf g blk.las (d + j) l) (laOf g (landLas blk.las lw) (d + j) l)
               ((List.range kk).map fun c => mulVals (elemVal g a af (fmtAsc g.fmt) false (l / 16 * 8 + j) c)
                 (elemVal g b bf (fmtBsc g.fmt) (fmtTb g.fmt) (l % 16) (4 * (c / 2) + index (l / 16 * 8 + j) c))))
         ∧ lasKept g blk.las (landLas blk.las lw) fun n => d.val ≤ n ∧ n < d.val + 8)

/-- R163, R178, R182: a fence of acquire completes at once; one that releases merges the group's buffered updates
first, and at system scope waits while a write of the group to a module it can reach is unacknowledged or an update is
held on its way, for 2 ms at most. Each gives status true, or false where a write of the group was lost. -/
def Obligations.Fences : Prop :=
  (∀ pd sc s s1 g blk, Issues (.fenceAcq pd sc) true s s1 g blk →
    ∃ new, Completes (.fenceAcq pd sc) s s1 g blk new ∧ OnlyPred g new pd fun _ v => v = 255)
  ∧ ∀ i pd sc s s1 g blk, i = Instr.fenceRel pd sc ∨ i = .fenceAr pd sc → Issues i true s s1 g blk →
    let merged := flushUpd s1 fun u => u.grp == s1.cur
    let mine := s1.posted.filter fun w => w.grp == s1.cur
    (sc ≠ .sys → ∃ new, CompletesIn i s s1 (setGroup merged s1.cur new) g blk ∧ OnlyPred g new pd fun _ v => v = 255)
    ∧ (sc = .sys → g.fenceAt = none → mine = [] → heldUpd s1 s1.cur = false →
        (merged.lostPeers.filter fun x => x.1 == s1.cur) = [] →
        ∃ new, CompletesIn i s s1 (setGroup merged s1.cur new) g blk ∧ OnlyPred g new pd fun _ v => v = 255)
    ∧ (sc = .sys → g.fenceAt = none → mine = [] → heldUpd s1 s1.cur = false →
        (merged.lostPeers.filter fun x => x.1 == s1.cur) ≠ [] → pd ≠ 15 →
        ∃ s2 new, CompletesIn i s s1 s2 g blk ∧ aget s2.groups s1.cur = some new ∧ OnlyPred g new pd fun _ v => v = 0)
    ∧ (sc = .sys → g.fenceAt = none → (∃ w ∈ mine, peerLost s1 (partOfDie s1 (blk.core / 40)) w.peer w.pa = false)
          ∨ heldUpd s1 s1.cur = true → Stalls i s s1.cur g)
    ∧ (sc = .sys → ∀ start, g.fenceAt = some start → start + 5000000 ≤ s1.clock → pd ≠ 15 →
        ∃ s2 new, CompletesIn i s s1 s2 g blk ∧ aget s2.groups s1.cur = some new
          ∧ OnlyPred { g with fenceAt := none } new pd fun _ v =>
            v = if mine = [] ∧ (merged.lostPeers.filter fun x => x.1 == s1.cur) = [] then 255 else 0)

/-- R164 to R168, R173: BAR.INIT sets the members. An arrival, BAR.ARR, CBAR.ARR or the first part of a SYNC, merges
the group's buffered updates (R166, R178), which leaves all but memory as it was, marks the group as arrived in the
phase, and the last of the live members completes it, with status false where a member had halted, and resets the
urgency of the groups concerned; nothing else changes. A wait, BAR.WAIT, CBAR.WAIT or the second part of a SYNC, gives
the status of the phase the group arrived in once it is complete, and blocks before. Each misuse faults with its
reason, also of the cluster barriers and of both SYNC forms, and changes no barrier. -/
def Obligations.Barriers : Prop :=
  (∀ id a s s1 g blk, Issues (.barInit id a) true s s1 g blk →
    let v := bits (g.readS a) 31 0
    let m := BitVec.ofNat 128 v &&& liveBlock s1 g.blk
    let x := namedBar blk id
    let bad (r : Nat) : Prop := Faults (.barInit id a) s s1 g .barrierMask (dw (r * 256 + id))
    (blk.barsN ≤ id.val → bad 1)
    ∧ (id.val < blk.barsN → 2 ^ blk.groups ≤ v ∨ m = 0 → bad 6)
    ∧ (id.val < blk.barsN → v < 2 ^ blk.groups → m ≠ 0 → x.arr ≠ 0 → bad 5)
    ∧ (id.val < blk.barsN → v < 2 ^ blk.groups → m ≠ 0 → x.arr = 0 → CompletesIn (.barInit id a) s s1
        { s1 with blocks := amod s1.blocks g.blk fun b => { b with bars := aset b.bars id { x with mask := m } } } g blk))
  ∧ (∀ i clu id s s1 g blk, arrivals i = some (clu, id)
        ∨ (∃ pd, barSyncs i = some (clu, pd, id) ∧ g.wait = none ∧ g.synced.contains (clu, id.val, g.pc) = false) →
    Issues i true s s1 g blk →
    let x := barOf s1 blk g.blk clu id
    let m := memberNum g blk clu
    let filled := fillsPhase x (liveOf s1 g blk clu) m
    let bad (r : Nat) : Prop := Faults i s s1 g .barrierMask (dw ((if clu then 65536 else 0) + r * 256 + id))
    (barCount blk clu ≤ id.val → bad 1)
    ∧ (id.val < barCount blk clu → x.mask.getLsbD m = false → bad 2)
    ∧ (id.val < barCount blk clu → x.mask.getLsbD m = true → x.arr.getLsbD m = true → bad 3)
    ∧ (mayArrive g blk clu id x → (clu = true → (aget s1.clusters blk.clu).isSome = true) → ∃ y r s2,
        ArrivedAt x y (liveOf s1 g blk clu) m ∧ Releases s1 r s1.cur ∧ BarSet r s2 g blk clu id y filled
        ∧ (arrivals i = some (clu, id) → CompletesIn i s s1 s2 g blk)
        ∧ ∀ pd, barSyncs i = some (clu, pd, id) →
          (filled → ∀ h, aget s2.groups s1.cur = some h → ∃ new, CompletesIn i s s1 (setGroup s2 s1.cur new) g blk
            ∧ OnlyPred h new pd fun _ v => v = if x.abnd then 0 else 255)
          ∧ (¬filled → exec i s = .next { s2 with groups := amod s2.groups s1.cur fun h =>
              { h with st := .blocked, wait := some (i, .bar clu id) } })))
  ∧ ∀ i clu pd id s s1 g blk, barWaits i = some (clu, pd, id)
        ∨ (barSyncs i = some (clu, pd, id) ∧ (g.wait ≠ none ∨ g.synced.contains (clu, id.val, g.pc) = true)) →
    Issues i true s s1 g blk →
    let x := barOf s1 blk g.blk clu id
    let m := memberNum g blk clu
    let bad (r : Nat) : Prop := Faults i s s1 g .barrierMask (dw ((if clu then 65536 else 0) + r * 256 + id))
    let fresh := agetD x.lph m 0 ≠ x.phase ∨ x.arr.getLsbD m = false
    (barCount blk clu ≤ id.val → bad 1)
    ∧ (id.val < barCount blk clu → x.seen.getLsbD m = false → bad 4)
    ∧ (id.val < barCount blk clu → x.seen.getLsbD m = true → fresh → ∃ new, Completes i s s1 g blk new
        ∧ OnlyPred g new pd fun _ v => v = if x.lst.getLsbD m then 255 else 0)
    ∧ (id.val < barCount blk clu → x.seen.getLsbD m = true → ¬fresh →
        exec i s = .next { s1 with groups := amod s1.groups s1.cur fun h =>
          { h with st := .blocked, wait := some (i, .bar clu id) } })

/-- R170 to R172, R111: BATCH closes the open batch under the next number; BWAIT gives its batches' status once they
are complete; WAITM completes when the dword differs; QFENCE puts a fence behind what its queues hold. -/
def Obligations.BatchesAndWaits : Prop :=
  (∀ s s1 g blk, Issues .batch true s s1 g blk →
    (16 ≤ (g.batches.filter fun x => x.left != 0).length → Stalls .batch s s1.cur g)
    ∧ ((g.batches.filter fun x => x.left != 0).length < 16 → ∃ s2 new, CompletesIn .batch s s1 s2 g blk
        ∧ aget s2.groups s1.cur = some new ∧ new.lastBatch = (g.lastBatch + 1) % 2 ^ 32 ∧ new.openRecs = 0
        ∧ new.openFailed = false ∧ new.batches = g.batches ++ [⟨new.lastBatch, g.openRecs, g.openFailed⟩]
        ∧ { new with lastBatch := g.lastBatch, openRecs := g.openRecs, openFailed := g.openFailed, batches := g.batches,
                     qregs := g.qregs } = g
        ∧ s2 = { s1 with eps := s2.eps, lateDone := s2.lateDone, groups := aset s1.groups s1.cur new }
        ∧ (let closed (r : QRec) : QRec := if r.copy = true ∧ r.batch = none ∧ r.owner.map Prod.fst = some s1.cur
             then { r with batch := some new.lastBatch } else r
          (∀ k, aget s2.eps k = (aget s1.eps k).map fun e => { e with recs := e.recs.map closed })
            ∧ s2.lateDone = s1.lateDone.map fun x => { x with done := closed x.done })))
  ∧ (∀ pd a s s1 g blk, Issues (.bwait pd a) true s s1 g blk →
    let n := bits (g.readS a) 31 0
    let ahead := (n + 2 ^ 32 - g.lastBatch) % 2 ^ 32
    let mine := g.batches.filter fun x => decide ((n + 2 ^ 32 - x.num) % 2 ^ 32 < 2 ^ 31)
    (1 ≤ ahead ∧ ahead ≤ 2 ^ 31 → Faults (.bwait pd a) s s1 g .barrierMask (dw 0x700))
    ∧ (¬(1 ≤ ahead ∧ ahead ≤ 2 ^ 31) → (∃ x ∈ mine, x.left ≠ 0) → Blocks (.bwait pd a) s s1.cur g .batch)
    ∧ (¬(1 ≤ ahead ∧ ahead ≤ 2 ^ 31) → (∀ x ∈ mine, x.left = 0) → ∃ new, Completes (.bwait pd a) s s1 g blk new
        ∧ WrotePred g new pd (fun _ v => v = if ∃ x ∈ mine, x.failed = true then 0 else 255)
        ∧ (∀ x, x ∈ new.batches ↔ x ∈ g.batches ∧ x ∉ mine) ∧ new.vregs = g.vregs ∧ new.sregs = g.sregs))
  ∧ (∀ pd sc a b s s1 g blk t, Issues (.waitm pd sc a b) true s s1 g blk → Calm s1 →
    let v := g.readS a
    let now := numAt s1 t.key t.pa 8
    bits v 57 56 = 0 → Reaches s1 blk .load 8 (dw (bits v 55 0)) t → Answers s1 t.pa evGets →
    (now ≠ (g.readS b).toNat → ∃ s2 new, CompletesIn (.waitm pd sc a b) s s1 s2 g blk
        ∧ MemNext s1 s2 s1.cur new (readByte s1) ∧ OnlyPred g new pd fun _ x => x = 255)
    ∧ (now = (g.readS b).toNat → Blocks (.waitm pd sc a b) s s1.cur g (.mem
        (if bits v 63 58 = 0 then none else some (s1.clock + nsClocks (2 ^ min (bits v 63 58) 40))) false)))
  ∧ ∀ a s s1 g blk, Issues (.qfence a) true s s1 g blk →
    let names (key : Nat) : Prop := ∃ q < 16, ∃ x, bit (g.readS a) q = true ∧ aget g.qregs q = some x ∧ x.slot < 64
      ∧ key = blk.ctx * 64 + x.slot
    ((¬∃ key, names key) → Completes (.qfence a) s s1 g blk g)
    ∧ ((∃ key, names key) → ∃ s2, CompletesIn (.qfence a) s s1 s2 g blk
        ∧ s2 = { s1 with nextId := s1.nextId + 1, eps := s2.eps }
        ∧ ∀ key, (¬names key → aget s2.eps key = aget s1.eps key)
          ∧ (names key → ∀ e, aget s1.eps key = some e → aget s2.eps key =
              some { e with recs := e.recs ++ [{ dw := [], seq := 0, fence := some s1.nextId }] }))

/-- R222, R228, R230, R324, R136: PGQRY gives the STATE code of each lane's page, 8 where it has none; PGREQ gives
each member lane a status, and puts an absent page with backing and a free frame in REQUESTED; an address above 56
bits faults. PREF changes no register but its flags, and no memory. R80, R238, R328, R136: PGPIN and PGUNPIN fault
with TRAPVAL 0 in a context that is not privileged; else each gives the member lanes a status, and for one lane raises
or lowers PINCNT of its page, which is PINNED while it is not 0. That a page of an aperture has no PINCNT is the
model's reading (log 23). -/
def Obligations.PageInstructions : Prop :=
  ((∀ d a f la s s1 g blk, Issues (.pgqry d a f la) false s s1 g blk →
     (∀ l ∈ g.evalLanes d, g.isMember l = true → bits (g.readR a l) 63 56 = 0) →
     ∃ new, Completes (.pgqry d a f la) s s1 g blk new
       ∧ RegAndFlags g new d f (fun l v => (walk s1 blk.ctx (g.readR a l).toNat = none → v = 8)
           ∧ ∀ t, walk s1 blk.ctx (g.readR a l).toNat = some t → v.toNat = match t.st with
             | .free => 0 | .requested => 1 | .resident => 2 | .pinned => 3 | .migrating => 4 | .deferred => 5
             | .poisoned => 6 | .retired => 7) (fun _ v => v = 0))
   ∧ (∀ d a f la s s1 g blk, Issues (.pgreq d a f la) false s s1 g blk →
     (∀ l ∈ g.evalLanes d, g.isMember l = true → bits (g.readR a l) 63 56 = 0) →
     ∃ s2 new, CompletesIn (.pgreq d a f la) s s1 s2 g blk ∧ aget s2.groups s1.cur = some new ∧ s2.mem = s1.mem
       ∧ RegAndFlags g new d f (fun l v => (g.isMember l = true → v.toNat ≤ 4) ∧ (g.isMember l = false → v = g.readR d l))
           (fun _ v => v = 0)
       ∧ ∀ l, g.evalLanes d = [l] → g.isMember l = true → d ≠ .z →
         let va := (g.readR a l).toNat
         let die := blk.core / 40
         let same := s2 = { s1 with groups := aset s1.groups s1.cur new }
         (∀ t, walk s1 blk.ctx va = some t → same ∧ new.readR d l =
           if t.st = .requested then 0 else if t.st = .migrating ∨ t.st = .deferred then 3 else 1)
         ∧ (walk s1 blk.ctx va = none → backingOf (ctxOf s1 blk.ctx) (va / 65536) = none → same ∧ new.readR d l = 4)
         ∧ ∀ b, walk s1 blk.ctx va = none → backingOf (ctxOf s1 blk.ctx) (va / 65536) = some b →
           let vpn := if b.large then va / 65536 / 256 * 256 else va / 65536
           (takeFrame s1 (partOfDie s1 die) b.die die b.large = none → same ∧ new.readR d l = 2)
           ∧ ∀ id, takeFrame s1 (partOfDie s1 die) b.die die b.large = some id → chainRoom s1 blk.ctx vpn 1 = true →
             new.readR d l = 0 ∧ (∃ src, aget s2.pageOps id = some (.fill src))
               ∧ ∃ e, aget s2.frames id = some e ∧ e.st = .requested ∧ e.vpn = vpn ∧ e.ctx = blk.ctx)
   ∧ (∀ i d a f la s s1 g blk, i = Instr.pgqry d a f la ∨ i = .pgreq d a f la → Issues i false s s1 g blk →
     ∀ l ∈ g.evalLanes d, g.isMember l = true → bits (g.readR a l) 63 56 ≠ 0 →
     (∀ m ∈ g.evalLanes d, m < l → g.isMember m = true → bits (g.readR a m) 63 56 = 0) →
     Faults i s s1 g .protection (g.readR a l))
   ∧ ∀ a f la s s1 g blk, Issues (.pref a f la) false s s1 g blk → Calm s1 →
     ∃ s2 new, CompletesIn (.pref a f la) s s1 s2 g blk ∧ MemNext s1 s2 s1.cur new (readByte s1)
       ∧ OnlyPred g new f fun _ v => v = 0)
  ∧ (∀ i d a f la s s1 g blk, ∀ pin : Bool, i = (if pin then Instr.pgpin d a f la else .pgunpin d a f la) →
       Issues i false s s1 g blk →
       ((ctxOf s1 blk.ctx).priv = false → Faults i s s1 g .protection 0)
       ∧ ((ctxOf s1 blk.ctx).priv = true → (∀ l ∈ g.evalLanes d, g.isMember l = true → bits (g.readR a l) 63 56 = 0) →
         (pin = true → f = 15 → ∀ l ∈ g.evalLanes d, g.isMember l = true →
           ∃ t, walk s1 blk.ctx (g.readR a l).toNat = some t ∧ t.absentFor true = false) →
         ∃ s2 new, CompletesIn i s s1 s2 g blk ∧ aget s2.groups s1.cur = some new
           ∧ WroteReg g new d (fun l v => (g.isMember l = true → v.toNat ≤ 2) ∧ (g.isMember l = false → v = g.readR d l))
           ∧ new.shell = g.shell
           ∧ ∀ l t e, g.evalLanes d = [l] → g.isMember l = true → d ≠ .z → walk s1 blk.ctx (g.readR a l).toNat = some t →
             t.aper = false → t.absentFor pin = false → aget s1.frames t.entry = some e → e.large = false →
             (∀ id, aget s1.pageOps id ≠ some .retireMark) →
             let limit := if pin then e.pincnt = 255 else e.pincnt = 0
             (limit → new.readR d l = 1 ∧ s2 = { s1 with groups := aset s1.groups s1.cur new })
             ∧ (¬limit → new.readR d l = 0 ∧ s2 = { s1 with groups := aset s1.groups s1.cur new, frames := s2.frames }
               ∧ (∀ id, id ≠ t.entry → aget s2.frames id = aget s1.frames id)
               ∧ ∃ e2, aget s2.frames t.entry = some e2 ∧ e2.pincnt = (if pin then e.pincnt + 1 else e.pincnt - 1)
                 ∧ (pin = true → e.st = .resident → e2.st = .pinned)
                 ∧ (pin = false → e.st = .pinned → e2.st = if e.pincnt = 1 then .resident else .pinned))))

/-- R86, R120, R326: SPL and FIL store and load a dword of each active lane's spill space: in PINNED mode in the
context's pinned lines, in PRIVATE mode in memory at the address of R120; a[63:32] that is not zero, and a dword
beyond the space, fault, but where helper lanes alone are active (R136): nothing is stored then, and 0 loaded. R231 to
R233, R327: MAPR opens a region at a free slot whose pages are all there, and faults with its reason on a bad range;
SYNCR writes the dirty bytes of a region back, after which none is dirty; UNMAPR also closes it. -/
def Obligations.SpillsAndRegions : Prop :=
  (∀ i d a f la s s1 g blk, ∀ store : Bool, i = (if store then Instr.spl d a f la else .fil d a f la) →
     Issues i false s s1 g blk →
     let v := g.readS a
     let j := bits v 31 0
     let h := headerOf s1 blk.launch
     let pinned := (ctxOf s1 blk.ctx).pinned = true
     let va (l : Nat) : Dword :=
       dw (h.privBase.toNat + ((blk.id * h.groups + g.idx) * (h.privLane / 8) + j) * 256 + l * 8)
     let chk (k : AccKind) (l : Nat) := laneChk s1 blk.ctx k 8 (va l)
     let beyond := (pinned ∧ 16 * blk.vregs ≤ j) ∨ (¬pinned ∧ h.privLane / 8 ≤ j)
     let helpers := g.lanesOn ≠ [] ∧ ∀ l ∈ g.lanesOn, g.isMember l = false
     (bits v 63 32 ≠ 0 → ¬helpers → Faults i s s1 g .spill v)
     ∧ (bits v 63 32 = 0 → beyond → ¬helpers → Faults i s s1 g .spill (dw j))
     ∧ (bits v 63 32 ≠ 0 ∨ beyond → helpers → ∃ new, Completes i s s1 g blk new
       ∧ (store = true → OnlyPred g new f fun _ x => x = 0)
       ∧ (store = false → RegAndFlags g new (.v d) f (fun _ x => x = 0) fun _ x => x = 0))
     ∧ (bits v 63 32 = 0 → pinned → j < 16 * blk.vregs →
       let at_ (l : Nat) : Nat := (blk.bin.getD (0, 0)).1 * 2 ^ 25 + (blk.bin.getD (0, 0)).2 + g.idx * blk.vregs * 4096 + j * 256 + l * 8
       let pin (t : State) (k : Nat) : Byte := agetD (ctxOf t blk.ctx).pins k 0
       (aget s1.ctxs blk.ctx).isSome = true →
       ∃ s2 new, CompletesIn i s s1 s2 g blk ∧ s2 = { s1 with ctxs := s2.ctxs, groups := aset s1.groups s1.cur new }
         ∧ (store = true → OnlyPred g new f (fun _ x => x = 0)
           ∧ (∀ l ∈ g.lanesOn, ∀ m < 8, pin s2 (at_ l + m) = byteOf (g.readV d l) m)
           ∧ ∀ k, (∀ l ∈ g.lanesOn, k < at_ l ∨ at_ l + 8 ≤ k) → pin s2 k = pin s1 k)
         ∧ (store = false → s2.ctxs = s1.ctxs
           ∧ RegAndFlags g new (.v d) f (fun l x => holdsBytes 8 false (fun m => pin s1 (at_ l + m)) x) (fun _ x => x = 0)))
     ∧ (bits v 63 32 = 0 → ¬pinned → j < h.privLane / 8 → Calm s1 → store = true →
       (∀ l ∈ g.lanesOn, Passes s1 blk .store 8 storeEvs 15 (va l)) →
       ∃ s2 new read, CompletesIn i s s1 s2 g blk ∧ MemNext s1 s2 s1.cur new read ∧ s2.upd = []
         ∧ Stored s1 g.lanesOn 8 (chk .store) (fun l m => byteOf (g.readV d l) m) read ∧ OnlyPred g new f fun _ x => x = 0)
     ∧ (bits v 63 32 = 0 → ¬pinned → j < h.privLane / 8 → Calm s1 → store = false →
       (∀ l ∈ g.lanesOn, Passes s1 blk .load 8 [evGets] 15 (va l)) →
       ∃ s2 new, CompletesIn i s s1 s2 g blk ∧ MemNext s1 s2 s1.cur new (readByte s1)
         ∧ RegAndFlags g new (.v d) f (fun l x => ∀ t, chk .load l = .ok t →
             holdsBytes 8 false (fun m => readByte s1 t.key (t.pa + m)) x) (fun _ x => x = 0)))
  ∧ ((∀ d a f la s s1 g blk, Issues (.mapr d a f la) false s s1 g blk →
       let c := g.readS d
       let va := g.readS a
       let slot := bits c 34 32
       let len := bits c 29 20
       let sp := bits c 9 0
       let i := Instr.mapr d a f la
       let zero := bits c 63 35 = 0 ∧ bits c 31 30 = 0 ∧ bits c 19 10 = 0
       let ranged := 0 < len ∧ len ≤ 768 ∧ va.toNat % 512 = 0
       let free := aget blk.regions slot = none
       let within_ := sp + len ≤ 2 * blk.spadKB
       let clear := ∀ r ∈ blk.regions, ¬(sp < r.2.sp + r.2.len ∧ r.2.sp < sp + len)
       let pages := (List.range ((va.toNat + len * 512 + 65535) / 65536 - va.toNat / 65536)).map fun k =>
         (va.toNat / 65536 + k) * 65536
       (¬zero → Faults i s s1 g .reservedField c)
       ∧ (zero → bits va 63 56 ≠ 0 → Faults i s s1 g .protection va)
       ∧ (zero → bits va 63 56 = 0 → ¬ranged → Faults i s s1 g .region 4)
       ∧ (zero → bits va 63 56 = 0 → ranged → ¬free → Faults i s s1 g .region 1)
       ∧ (zero → bits va 63 56 = 0 → ranged → free → ¬within_ → Faults i s s1 g .region 2)
       ∧ (zero → bits va 63 56 = 0 → ranged → free → within_ → ¬clear → Faults i s s1 g .region 3)
       ∧ (zero → bits va 63 56 = 0 → ranged → free → within_ → clear →
         (∀ p ∈ pages, ∃ t, walk s1 blk.ctx p = some t ∧ t.perm &&& 1 = 1 ∧ t.absentFor true = false
           ∧ (t.aper = false → ∃ e, aget s1.frames t.entry = some e ∧ e.rcnt < 255)) →
         ∃ s2 new b2 r, CompletesIn i s s1 s2 g blk ∧ OnlyPred g new f (fun _ v => v = 0)
           ∧ s2 = { s1 with frames := s2.frames, blocks := s2.blocks, groups := aset s1.groups s1.cur new }
           ∧ aget s2.blocks g.blk = some b2 ∧ b2 = { blk with regions := b2.regions }
           ∧ aget b2.regions slot = some r ∧ r.va = va ∧ r.len = len ∧ r.sp = sp
           ∧ (r.wr = true ↔ ∀ p ∈ pages, ∀ t, walk s1 blk.ctx p = some t → t.perm &&& 2 = 2)))
     ∧ ∀ i d f la s s1 g blk r, ∀ close : Bool, i = (if close then Instr.unmapr d f la else .syncr d f la) →
       Issues i false s s1 g blk →
       (bits (g.readS d) 63 3 ≠ 0 → Faults i s s1 g .reservedField (g.readS d))
       ∧ (bits (g.readS d) 63 3 = 0 → aget blk.regions (bits (g.readS d) 2 0) = none → Faults i s s1 g .region 5)
       ∧ (bits (g.readS d) 63 3 = 0 → aget blk.regions (bits (g.readS d) 2 0) = some r → Calm s1 → s1.pageOps = [] →
         let dirty := (blk.marks.filter fun m => decide (r.sp * 512 ≤ m.1 ∧ m.1 < (r.sp + r.len) * 512) && m.2.getLsbD 1).map Prod.fst
         let chk (o : Nat) : LaneChk := match walk s1 blk.ctx (r.va.toNat + (o - r.sp * 512)) with
           | some t => .ok t
           | none => .absent
         (∀ o ∈ dirty, ∃ t, chk o = .ok t ∧ paKind t.pa = .hbm ∧ wayTo s1 (partOfDie s1 (blk.core / 40)) t.pa = .free
           ∧ t.observed = false ∧ t.reduce = false ∧ inError s1 t.pa 1 = false ∧ inTables t.pa = false
           ∧ ∀ ev ∈ storeEvs, Takes s1 t.pa ev) →
         (∀ o ∈ dirty, ∀ p ∈ dirty, o ≠ p → ∀ t u, chk o = .ok t → chk p = .ok u → ¬hits t 1 u.key u.pa) →
         ∃ s2 new b2, CompletesIn i s s1 s2 g blk ∧ aget s2.groups s1.cur = some new ∧ OnlyPred g new f (fun _ v => v = 0)
           ∧ (∀ o ∈ dirty, ∀ t, chk o = .ok t → readByte s2 t.key t.pa = agetD blk.spad o 0)
           ∧ (∀ key pa, (∀ o ∈ dirty, ∀ t, chk o = .ok t → ¬hits t 1 key pa) → readByte s2 key pa = readByte s1 key pa)
           ∧ aget s2.blocks g.blk = some b2 ∧ b2.spad = blk.spad
           ∧ (∀ m ∈ b2.marks, r.sp * 512 ≤ m.1 → m.1 < (r.sp + r.len) * 512 → m.2.getLsbD 1 = false)
           ∧ (close = false → b2.regions = blk.regions)
           ∧ (close = true → aget b2.regions (bits (g.readS d) 2 0) = none)))

/-- R109, R112, R331: a push to a bound queue register whose limits leave room appends the record, after the group's
updates have merged; a full queue makes the group wait; an unbound or halted register faults. R278: LAUNCH appends the
64 bytes at its address, whose line it reads, to the work queue that its second operand names, where that queue is one
of the group's own context and has a free slot. -/
def Obligations.PushesAndLaunches : Prop :=
  (∀ i q a n1 ty s s1 g blk, pushes i = some (q, a, n1, ty) → Issues i false s s1 g blk →
     (aget g.qregs q = none → Faults i s s1 g .queueHalted (dw (0x100 + q.val)))
     ∧ (∀ x, aget g.qregs q = some x → x.halted = true → Faults i s s1 g .queueHalted (dw q.val))
     ∧ ∀ x e, aget g.qregs q = some x → x.halted = false → aget s1.eps (blk.ctx * 64 + x.slot) = some e →
       let room := (e.recs.filter fun r => r.fence.isNone).length < 256 ∧ x.outstanding < 32
       (¬room → Stalls i s s1.cur g)
       ∧ (room → ∃ s2 new l, CompletesIn i s s1 s2 g blk ∧ isPushed g a n1 ty l
           ∧ (let copy := decide (0x10 ≤ bits (dwd l 0) 7 0 ∧ bits (dwd l 0) 7 0 ≤ 0x14)
             aget s2.eps (blk.ctx * 64 + x.slot) = some { e with
               recs := e.recs ++ [{ dw := l, seq := e.nextSeq, owner := some (s1.cur, q.val), copy := copy }],
               nextSeq := e.nextSeq + 1 }
             ∧ (let pushed := { g with qregs := new.qregs, openRecs := if copy then g.openRecs + 1 else g.openRecs }
               (aRising s1.groups = true → MayWake pushed new) ∧ ((∀ u ∈ s1.upd, u.grp ≠ s1.cur) → new = pushed)))
           ∧ aget new.qregs q = some { x with outstanding := x.outstanding + 1 }
           ∧ (∀ p, p ≠ q.val → aget new.qregs p = aget g.qregs p)
           ∧ aget s2.groups s1.cur = some new
           ∧ (∀ k, k ≠ blk.ctx * 64 + x.slot → aget s2.eps k = aget s1.eps k)
           ∧ s2.mem = (flushUpd s1 fun u => u.grp == s1.cur).mem))
  ∧ (∀ a b s s1 g blk, Issues (.launch a b) false s s1 g blk →
       let va := g.readS a
       let qv := g.readS b
       (bits qv 63 13 ≠ 0 → Faults (.launch a b) s s1 g .reservedField qv)
       ∧ (bits qv 63 13 = 0 → va.toNat % 64 ≠ 0 → Faults (.launch a b) s s1 g .alignment va)
       ∧ ∀ t q, bits qv 63 13 = 0 → Calm s1 → Reaches s1 blk .load 64 va t → Answers s1 t.pa evGets →
         let key := portOfPart s1 (partOfDie s1 (blk.core / 40)) * 8192 + bits qv 12 0
         aget s1.queues key = some q → bits qv 12 0 ≠ 0 → q.ctx = blk.ctx → blk.ctx ≠ 0 → q.dying = false → q.halted = false →
         (q.depth ≤ q.recs.length → Stalls (.launch a b) s s1.cur g)
         ∧ (q.recs.length < q.depth → ∃ s2, CompletesIn (.launch a b) s s1 s2 g blk
             ∧ (∀ k p, readByte s2 k p = readByte s1 k p) ∧ s2.groups = s1.groups
             ∧ (∀ k, k ≠ key → aget s2.queues k = aget s1.queues k)
             ∧ ∃ r, aget s2.queues key = some { q with recs := q.recs ++ [r], nextSeq := q.nextSeq + 1 }
               ∧ r.seq = q.nextSeq ∧ r.started = none
               ∧ ∀ j < 8, ∀ m < 8, sub (dwd r.dw j) 8 m = (readByte s1 t.key (t.pa + 8 * j + m)).toNat))

/-- R108, R332 to R335: QPOP and QTRY take the oldest completion, QDRAIN drops them all once none is outstanding and
counts those that failed, QSTAT reads the register, QBIND binds an unbound one, and clears the halt of one that is
bound to the same slot. That a refused QBIND leaves sequence 0 and slot 64 (log 42), and that QBIND clears the halt of
its own register only (log 73), are the model's choices. -/
def Obligations.Collects : Prop :=
  (∀ d q s s1 g blk, Issues (.qpop d q) false s s1 g blk →
    (aget g.qregs q = none → Faults (.qpop d q) s s1 g .queueHalted (dw (0x100 + q.val)))
    ∧ (∀ x, aget g.qregs q = some x → x.done = [] → x.outstanding = 0 → Faults (.qpop d q) s s1 g .queueHalted (dw q.val))
    ∧ (∀ x, aget g.qregs q = some x → x.done = [] → x.outstanding ≠ 0 → Blocks (.qpop d q) s s1.cur g .queue))
  ∧ (∀ i d q s s1 g blk x c r, i = Instr.qpop d q ∨ i = .qtry d q → Issues i false s s1 g blk →
    aget g.qregs q = some x → x.done = c :: r → ∃ new, Completes i s s1 g blk new ∧ WrotePair g new d c.value c.extra
      ∧ aget new.qregs q = some { x with done := r, outstanding := if c.pushed then x.outstanding - 1 else x.outstanding }
      ∧ (∀ p, p ≠ q.val → aget new.qregs p = aget g.qregs p) ∧ new.vregs = g.vregs ∧ new.preds = g.preds
      ∧ { new with sregs := g.sregs, qregs := g.qregs } = g)
  ∧ (∀ d q s s1 g blk, Issues (.qtry d q) false s s1 g blk → (∀ x, aget g.qregs q = some x → x.done = []) →
    ∃ new, Completes (.qtry d q) s s1 g blk new ∧ WrotePair g new d 0 0 ∧ { new with sregs := g.sregs } = g)
  ∧ (∀ d q s s1 g blk, Issues (.qdrain d q) false s s1 g blk →
    (aget g.qregs q = none → ∃ new, Completes (.qdrain d q) s s1 g blk new ∧ WroteOnce g new d 0 ∧ new.preds = g.preds ∧ new.shell = g.shell)
    ∧ ∀ x, aget g.qregs q = some x →
      let taken := (x.done.filter Completion.pushed).length
      (taken < x.outstanding → Blocks (.qdrain d q) s s1.cur g .queue)
      ∧ (x.outstanding ≤ taken → ∃ new, Completes (.qdrain d q) s s1 g blk new
          ∧ WroteOnce g new d (dw (x.done.filter fun c => c.value.toNat % 256 != 0).length)
          ∧ aget new.qregs q = some { x with done := [], outstanding := 0 }
          ∧ (∀ p, p ≠ q.val → aget new.qregs p = aget g.qregs p)
          ∧ new.preds = g.preds ∧ { new.shell with qregs := [] } = { g.shell with qregs := [] }))
  ∧ (∀ d q s s1 g blk, Issues (.qstat d q) false s s1 g blk → ∃ new v, Completes (.qstat d q) s s1 g blk new
    ∧ WroteOnce g new d v ∧ new.preds = g.preds ∧ new.shell = g.shell ∧ (aget g.qregs q = none → v = 0)
    ∧ ∀ x e, aget g.qregs q = some x → x.slot < 64 → aget s1.eps (blk.ctx * 64 + x.slot) = some e → e.kind < 4 →
      x.outstanding < 2 ^ 16 → x.done.length < 2 ^ 16 →
      bits v 63 62 = (if x.halted then 2 else 1) ∧ bits v 61 50 = 0 ∧ bits v 49 48 = e.kind ∧ bits v 47 32 = x.outstanding
        ∧ bits v 31 16 = x.done.length ∧ bits v 15 0 = x.slot)
  ∧ ∀ q a s s1 g blk, Issues (.qbind q a) false s s1 g blk →
    let v := g.readS a
    let slot := bits v 5 0
    let zero := bits v 63 10 = 0 ∧ bits v 7 6 = 0
    let key := blk.ctx * 64 + slot
    (¬zero → Faults (.qbind q a) s s1 g .reservedField v)
    ∧ (zero → aget g.qregs q = none → slot < (ctxOf s1 blk.ctx).epMax →
      (∀ e, aget s1.eps key = some e → e.kind = bits v 9 8) →
      ∃ s2 new e2, CompletesIn (.qbind q a) s s1 s2 g blk ∧ aget s2.groups s1.cur = some new
        ∧ s2 = { s1 with groups := aset s1.groups s1.cur new, eps := s2.eps } ∧ { new with qregs := g.qregs } = g
        ∧ aget new.qregs q = some { halted := false, slot := slot, outstanding := 0, done := [] }
        ∧ (∀ p, p ≠ q.val → aget new.qregs p = aget g.qregs p)
        ∧ aget s2.eps key = some e2 ∧ e2.kind = bits v 9 8 ∧ (∀ k, k ≠ key → aget s2.eps k = aget s1.eps k)
        ∧ (∀ e, aget s1.eps key = some e → e2 = { e with bound := e.bound + 1 })
        ∧ (aget s1.eps key = none → e2 = { kind := bits v 9 8, die := blk.core / 40, recs := [], nextSeq := 0, bound := 1 }))
    ∧ (zero → ∀ x, aget g.qregs q = some x → x.slot = slot → slot < (ctxOf s1 blk.ctx).epMax →
      (∀ e, aget s1.eps key = some e → e.kind = bits v 9 8) →
      Completes (.qbind q a) s s1 g blk { g with qregs := aset g.qregs q { x with halted := false } })
    ∧ (zero → aget g.qregs q = none → (ctxOf s1 blk.ctx).epMax ≤ slot → ∃ new c, Completes (.qbind q a) s s1 g blk new
        ∧ { new with qregs := g.qregs } = g
        ∧ aget new.qregs q = some { halted := true, slot := 64, outstanding := 0, done := [c] }
        ∧ c.value = dw (2 ^ 63 + 0x80) ∧ c.extra = 0)

/-- R8, R15, R79, R87, R96, R375, R403: what reset leaves. HBM reads zero and memory is in canonical form, context 0
is the only one, RESIDENT and privileged with PRIVATE spilling and key slot 0; queue 0 is open and empty, 256 records
deep; no launch, block or group is there; every UALink port is TRAINING, the PCIe ports have STATE and WIDTH 0 (R374);
logical core n is on die n / 36. That die n / 36 holds core n, and no frame is retired, rests on the empty fuse map
and retirement record, the model's choice (log 5). The fields of context 0 that R79 does not name are no part of the
statement (log 7). -/
def Obligations.ResetState : Prop :=
  Memory.wf State.reset.mem
  ∧ (∀ key pa, paKind pa = .hbm → inTables pa = false → readByte State.reset key pa = 0)
  ∧ (∀ c, aget State.reset.ctxs c ≠ none ↔ c = 0)
  ∧ (∃ x, aget State.reset.ctxs 0 = some x ∧ x.st = .resident ∧ x.priv = true ∧ x.pinned = false ∧ x.keySlot = 0)
  ∧ (∀ k, aget State.reset.keys k ≠ none ↔ k = 0) ∧ keyLoaded State.reset 0 = true
  ∧ (∀ k, aget State.reset.queues k ≠ none ↔ k = 0)
  ∧ (∃ q, aget State.reset.queues 0 = some q ∧ q.halted = false ∧ q.depth = 256 ∧ q.ctx = 0 ∧ q.recs = [])
  ∧ State.reset.launches = [] ∧ State.reset.blocks = [] ∧ State.reset.groups = [] ∧ State.reset.frames = []
  ∧ (∀ n < 18, ∃ p, State.reset.uports[n]? = some p ∧ p.st = .training)
  ∧ (∀ p ∈ State.reset.pports, linkCode p.st = 0 ∧ p.width = 0)
  ∧ (∀ n < 144, ∃ x, State.reset.ltp[n]? = some x ∧ (bits (x.zeroExtend 64) 7 6 = n / 36 ∧ bits (x.zeroExtend 64) 5 0 = n % 36))

/-- The memory's list of bytes stays in canonical form: addresses rise, and no listed byte is zero. -/
def Obligations.StepKeepsMemoryCanonical : Prop :=
  ∀ s t, step s = .next t → Memory.wf s.mem → Memory.wf t.mem

/-- R242 to R250: decoding the word of a well-formed instruction gives it back, with every operand. R242 to R250: a
word that decodes stands for a well-formed instruction, whose word it is: no bit of it is dropped, and no two words
stand for one instruction. -/
def Obligations.EncodingRoundTrip : Prop :=
  (∀ i : Instr, i.wf = true → i.isEvent = false → decodeWord (encodeWord i) = .ok i)
  ∧ (∀ w i, decodeWord w = .ok i → i.wf = true ∧ i.isEvent = false ∧ encodeWord i = w)

/-- R242 to R250: words written out from the encoding tables decode to the instructions they stand for. -/
def Obligations.SomeWordsDecode : Prop :=
  ∀ e ∈ words ++ moreWords, decodeWord e.1 = .ok e.2

/-- R154, R192, R242, R250: when the turn of a group comes, the four bytes at its pc, the first lowest, are the word
that it executes: the step is the meaning of the instruction that the word decodes to, or ILLEGAL_INSTRUCTION with the
word in TRAPVAL. Where that code was overwritten after the group's launch had started, it is that word or an older
one. A turn that names an event is that event's. What follows at once is settled, and the clock advances. Which
mover's turn comes is the model's oracle (log 1), and that a word overwritten after the launch started may be fetched
old or new its reading of R192 (log 46). -/
def Obligations.StepRunsDecoded : Prop :=
  (∀ s s0 k s1 g b t, chooseTurn s = (s0, some (.turn (.issue k))) → Ready s0 k s1 g b → Fetches s1 b g.pc t →
    let older := (agetD s1.stale (memKey t.key t.pa / 4) []).filter fun e => b.launch ∈ e.launches
    let current (w : BitVec 32) : Prop := ∀ m < 4, readByte s1 t.key (t.pa + m) = BitVec.ofNat 8 (w.toNat / 256 ^ m)
    ∃ w s2, (current w ∨ ∃ e ∈ older, e.word = w) ∧ s2 = { s1 with freeCtr := s2.freeCtr } ∧ (older = [] → s2 = s1)
      ∧ (∀ i, decodeWord w = .ok i → step s = settled s (exec i s2))
      ∧ ∀ e, decodeWord w = .error e → step s = settled s (.next (raiseFault s2 k .illegal (w.zeroExtend 64) g.pc)))
  ∧ ∀ s i r, s.turns = .event i :: r → step s = settled s (exec i { s with turns := r })

/-- R142, R150, R152, R154, R157, R118: what completion moves on. The pc advances, back to a loop's start or past it,
or goes where a transfer sends it; the span counts; the hash takes the word; without a lookahead the LAs take what was
written; all else is as the instruction's effect left it. R150: an instruction with a lookahead leaves its results as
they were until they land: registers and predicates it promises read as before, the others as its effect left them,
and the LAs stay; the pending entry promises the lookahead's count, and landing it gives the results. That a landed
result stays promised is the model's reading (log 15). -/
def Obligations.Completion : Prop :=
  (∀ i (old : Group) b k s flow lw new, (promised i).2 = 0 → aget s.groups k = some new → ∃ h,
     complete i old b k s flow lw = { s with
         groups := aset s.groups k h,
         blocks := if lw = [] then s.blocks else amod s.blocks old.blk fun b => { b with las := landLas b.las lw } }
     ∧ h.kept = new.kept ∧ h.lastIssue = s.clock ∧ h.wait = none
     ∧ (flow = .seq → Advanced new h)
     ∧ (∀ pc ho, flow = .goto pc ho → Moved i new h pc)
     ∧ (old.grem = 0 → h.grem = new.grem ∧ h.gmask = new.gmask)
     ∧ (old.grem = 1 → h.grem = 0 ∧ h.gmask = 0)
     ∧ (2 ≤ old.grem → h.grem = old.grem - 1 ∧ h.gmask = new.gmask)
     ∧ (sigenOf s b = false → h.sig = new.sig)
     ∧ (sigenOf s b = true → unhashed i = false → flow = .seq → (∀ n < 3, ¬loopEnds new n) →
         h.sig.truncate 16 = (if hashClears i then 0 else match i with
           | .mts sel _ => if sel.val = 1 then hashed (hashed (new.sig.truncate 16) (encodeWord i)) 2
             else hashed (new.sig.truncate 16) (encodeWord i)
           | _ => hashed (new.sig.truncate 16) (encodeWord i)) ∧ h.sig.getLsbD 16 = new.sig.getLsbD 16))
  ∧ (∀ i (old : Group) b k s flow lw new, (promised i).2 ≠ 0 → aget s.groups k = some new → new.pend = old.pend → ∃ h p,
       complete i old b k s flow lw = { s with groups := aset s.groups k h }
       ∧ h.pend = (old.pend.map fun q => { q with left := q.left - 1 }) ++ [p]
       ∧ p.left = (promised i).2 ∧ p.addr = old.pc ∧ p.landed = false ∧ p.lw = lw
       ∧ (∀ q, (promisedV i old (q / 32) → agetD h.vregs q 0 = agetD old.vregs q 0)
           ∧ (¬promisedV i old (q / 32) → agetD h.vregs q 0 = agetD new.vregs q 0))
       ∧ (∀ q, agetD h.sregs q 0 = if q ∈ (promised i).1.s then agetD old.sregs q 0 else agetD new.sregs q 0)
       ∧ (∀ q, agetD h.preds q 0 = if q / 32 ∈ (promised i).1.p ∧ q / 32 ≠ 15 then agetD old.preds q 0 else agetD new.preds q 0)
       ∧ (∀ q, agetD (h.land p).vregs q 0 = agetD new.vregs q 0) ∧ (∀ q, agetD (h.land p).sregs q 0 = agetD new.sregs q 0)
       ∧ (∀ q, agetD (h.land p).preds q 0 = agetD new.preds q 0))

/-- R142, R145, R150, R252, R392, R393: before an instruction's own description it faults where it may not stand in a
span, with its word and bit 32 in TRAPVAL; then where it breaks a promise, with the promising instruction's address;
then where a vector register is out of the window. A fault enters the handler, or, with INH set, no handler, or
POISON, halts the group. That promises stand through the trap entry, their results landed, is the model's reading (log
15). -/
def Obligations.EarlyFaults : Prop :=
  (∀ i, i.isEvent = false → ∃ sync, ∀ s s1 g b, atIssue i sync s = some (s1, g, b) →
    let inSpan := g.grem ≠ 0 ∧ barredInSpan i = true
    let breaks (p : Pend) : Prop := p.left ≠ 0 ∧
      ((∃ n ∈ runNums (usesIn g i).v, g.wbase + n ∈ p.resV) ∨ (∃ n ∈ (usesIn g i).s, n ∈ p.resS)
        ∨ (∃ n ∈ (usesIn g i).p, n ≠ 15 ∧ n ∈ p.resP) ∨ ∃ n ∈ runNums (usesIn g i).a, g.awbase + n ∈ p.resA)
    (inSpan → Faults i s s1 g .illegal (dw (2 ^ 32 + (encodeWord i).toNat)))
    ∧ (¬inSpan → ∀ p l r, g.pend = l ++ p :: r → breaks p → (∀ q ∈ l, ¬breaks q) → Faults i s s1 g .lookahead p.addr)
    ∧ (¬inSpan → (∀ p ∈ g.pend, ¬breaks p) → ∀ n l r, runNums (usesIn g i).v = l ++ n :: r →
        32 * b.vregs ≤ g.wbase + n → (∀ m ∈ l, g.wbase + m < 32 * b.vregs) → Faults i s s1 g .windowRange (dw n)))
  ∧ ∀ s k g b t v pc, aget s.groups k = some g → aget s.blocks g.blk = some b →
    let handler := (ctxOf s b.ctx).handler
    ((t ≠ .poison ∧ t ≠ .signature) ∧ g.inh = false ∧ handler ≠ 0 →
      ∃ h, aget (raiseFault s k t v pc).groups k = some h
        ∧ Entered (headerOf s b.launch).sigen g h (BitVec.ofNat 8 t.code) v pc handler)
    ∧ (t = .poison ∨ (g.inh = true ∧ t ≠ .signature) ∨ (handler = 0 ∧ t ≠ .signature) →
      (∃ o x, o ≠ k ∧ aget s.groups o = some x ∧ x.blk = g.blk ∧ x.ended = false) →
      ∃ h, aget (raiseFault s k t v pc).groups k = some h ∧ h.st = .halted ∧ TrapSet h t v pc)

/-- R100, R101, R102, R107, R109: a record of a host-fed queue that completes leaves its queue; its EVENT of 0 writes
nothing, one that breaks R100 is logged as lost, one behind an earlier event of its queue waits, and one that can be
written is a dword with bit 63, the sequence number in [39:8] and the status in [7:0]. A record of an endpoint adds
that dword and its second to its register, and counts against its batch; while its context is not RESIDENT it is held
(R92). A work queue halts, a system queue never does. -/
def Obligations.RecordCompletion : Prop :=
  (∀ s p n r l st x, queueRecs s (.host p n) = r :: l → r.fence = none → r.owner = none → recType r ≠ 1 →
    let q := QRef.host p n
    let c := queueCtx s q
    let left := { setRecs s q l with ctxs := amod s.ctxs c fun y => { y with idleSince := s.clock } }
    let ev := dwd r.dw 7
    let value := dw (2 ^ 63 + r.seq % 2 ^ 32 * 256 + st)
    let good := bits ev 63 56 = 0 ∧ ev.toNat % 8 = 0
    (ev = 0 → finishHead s q st x = left)
    ∧ (¬good → finishHead s q st x = { left with log := s.log ++ [.lostEvent c q r.seq st] })
    ∧ (good → ev ≠ 0 → (∃ e ∈ s.evq, e.queue = q) →
        finishHead s q st x = { left with evq := s.evq ++ [⟨c, q, r.seq, ev, value⟩] })
    ∧ (good → ev ≠ 0 → (∀ e ∈ s.evq, e.queue ≠ q) → Calm s → ∀ t, AgentReaches s q c ev.toNat 8 true t →
        ∃ read, Served left (finishHead s q st x) read ∧ Written s t 8 (byteOf value) read))
  ∧ (∀ s c slot r l st x k reg g y, queueRecs s (.ep c slot) = r :: l → r.fence = none → r.owner = some (k, reg) →
    aget s.groups k = some g → g.ended = false → aget g.qregs reg = some y →
    let t := finishHead s (.ep c slot) st x
    ((ctxOf s c).st ≠ .resident → queueRecs t (.ep c slot) = l ∧ t.groups = s.groups
      ∧ t.lateDone = s.lateDone ++ [⟨c, r, st, x⟩])
    ∧ ((ctxOf s c).st = .resident →
    queueRecs t (.ep c slot) = l ∧ t.mem = s.mem ∧ (∀ m, m ≠ k → aget t.groups m = aget s.groups m)
    ∧ ∃ new, aget t.groups k = some new
      ∧ aget new.qregs reg = some { y with done := y.done ++ [⟨dw (2 ^ 63 + r.seq % 2 ^ 32 * 256 + st), x, r.copy, r.batch, true⟩] }
      ∧ (r.copy = false → { new with qregs := g.qregs } = g)
      ∧ (r.copy = true → r.batch = none → { new with qregs := g.qregs, openRecs := g.openRecs, openFailed := g.openFailed } = g
        ∧ new.openRecs = g.openRecs - 1 ∧ new.openFailed = (g.openFailed || decide (st ≠ 0)))
      ∧ (∀ b, r.copy = true → r.batch = some b → { new with qregs := g.qregs, batches := g.batches } = g
        ∧ new.batches = g.batches.map fun z => if z.num = b then { z with left := z.left - 1, failed := z.failed || decide (st ≠ 0) } else z)))
  ∧ ∀ s p n, haltQueue s (.host p n) = if isSystem s (.host p n) then s
      else { s with queues := amod s.queues (p * 8192 + n) fun x => { x with halted := true } }

/-- R100, R107, R110: an event that performs a record does nothing where no such record stands at the head of its
queue, or none may start; one that is ill-formed, or that the queue does not accept, completes with ERR_ILLFORMED and
halts the queue, once the launches ahead of it in the queue complete. A command that breaks R82 completes with
ILLFORMED. That an event does nothing where no such record stands is the model's choice (log 53). -/
def Obligations.RecordForms : Prop :=
  (∀ i q ty ok, records i = some (q, ty, ok) → ∀ s,
    ((∀ r l, queueRecs s q = r :: l → startable s q = false ∨ recType r ≠ ty) → exec i s = .next s)
    ∧ ∀ r l, queueRecs s q = r :: l → startable s q = true → recType r = ty → r.started = none →
      (queueAccepts s q ty = false ∨ eventOk r = false ∨ ok s r = false) →
      ((∀ e ∈ s.launches, e.2.queue = q → e.2.detached = true) → exec i s = .next (haltQueue (finishHead s q 0x80 0) q))
      ∧ ((∃ e ∈ s.launches, e.2.queue = q ∧ e.2.detached = false) → exec i s = .next s))
  ∧ ∀ i q ty al mask, commands i = some (q, ty, al, mask) → ∀ s,
    ((∀ r l, queueRecs s q = r :: l → startable s q = false ∨ recType r ≠ ty) → exec i s = .next s)
    ∧ (∀ r l, queueRecs s q = r :: l → startable s q = true → recType r = ty → r.started = none →
      (queueAccepts s q ty = false ∨ eventOk r = false) → exec i s = .next (haltQueue (finishHead s q 0x80 0) q))
    ∧ ∀ r l, Head s q ty (fun _ => true) r l → r.started = none → cmdOk r al mask = false →
      exec i s = .next (finishHead (startHead s q) q 7 0)

/-- R103, R104: a WAIT tests its dword when it starts and later, completes OK once its condition is met, and with
ERR_TIMEOUT and a halt once its time is over; a SIGNAL writes, adds to or ors into its dword and completes OK. That
WAIT tests once more before it times out is the model's choice (log 52). -/
def Obligations.WaitsAndSignals : Prop :=
  (∀ s q r l t, Head s q 0x02 waitOk r l → Calm s → AgentReaches s q (queueCtx s q) (dwd r.dw 1).toNat 8 false t →
    let go := waitMeets r (numAt s t.key t.pa 8)
    let us := bits (dwd r.dw 4) 31 0
    (r.started = none → go → ∃ s2, exec (.wait q) s = .next (finishHead s2 q 0 0) ∧ Served (startHead s q) s2 (readByte s))
    ∧ (r.started = none → ¬go → ∃ s2, exec (.wait q) s = .next s2 ∧ Served (startHead s q) s2 (readByte s))
    ∧ (r.started ≠ none → go → ∃ s2, exec (.waitMet q) s = .next (finishHead s2 q 0 0) ∧ Served s s2 (readByte s))
    ∧ (r.started ≠ none → ¬go → ∃ s2, exec (.waitMet q) s = .next s2 ∧ Served s s2 (readByte s))
    ∧ ∀ t0, r.started = some t0 → us ≠ 0 → ∃ s2, Served { s with clock := max s.clock (t0 + us * 2500) } s2 (readByte s)
      ∧ (go → exec (.waitTimeout q) s = .next (finishHead s2 q 0 0))
      ∧ (¬go → exec (.waitTimeout q) s = .next (haltQueue (finishHead s2 q 0x85 0) q)))
  ∧ ∀ s q r l t, Head s q 0x03 signalOk r l → closeOf s q r = none → Calm s →
    AgentReaches s q (queueCtx s q) (dwd r.dw 1).toNat 8 true t →
    let op := bits (dwd r.dw 0) 9 8
    let v := (dwd r.dw 2).toNat
    let old := numAt s t.key t.pa 8
    let new := if op = 0 then v else if op = 1 then (old + v) % 2 ^ 64 else old ||| v
    (op ≠ 0 → paKind t.pa ≠ .hbm → exec (.signal q) s = .next (finishHead (startHead s q) q 0x87 0))
    ∧ (op = 0 ∨ (paKind t.pa = .hbm ∧ Answers s t.pa evNcrd) →
      ∃ s2 read, exec (.signal q) s = .next (finishHead s2 q 0 0) ∧ Served (startHead s q) s2 read
        ∧ Written s t 8 (byteOf (dw new)) read)

/-- R105, R337, R339, R336, R341: a copy that starts, whose bytes can all be read and written, puts each byte of its
source at its place and completes with its count; every other byte stays. EFILL puts byte X mod 8 of its pattern at
address X. R338, R340, R236, R341: EGATH and ESCAT copy each element by its index, read at the width the record names,
and complete with the number of elements. EMIG begins the migration of its next page, one after the other, or defers
it while regions count on the page, and completes with its pages once all have moved. -/
def Obligations.RecordCopies : Prop :=
  ((∀ i q ty ok len src dst count s r l, copies i = some (q, ty, ok, len, src, dst, count) → Head s q ty ok r l →
     r.work = 0 → Calm s →
     let c := queueCtx s q
     spanOpen s q c (len r) (src r) false → spanOpen s q c (len r) (dst r) true → apartKeys s c (len r) (src r) (dst r) →
     ∃ s2 read, exec i s = .next (finishHead s2 q 0 (dw (count r))) ∧ Served (startHead s q) s2 read
       ∧ Placed s c (len r) (dst r) (fun j => vByte s c (src r j)) read)
   ∧ ∀ q s r l, Head s q 0x14 (fun r => zeroBits (dwd r.dw 0) [(23, 8)] && addrOk (dwd r.dw 1) && dwd r.dw 3 == 0) r l →
     r.work = 0 → Calm s →
     let c := queueCtx s q
     let len := bits (dwd r.dw 0) 63 24
     let dst (j : Nat) : Nat := (dwd r.dw 1).toNat + j
     spanOpen s q c len dst true →
     ∃ s2 read, exec (.efillRecord q) s = .next (finishHead s2 q 0 (dw len)) ∧ Served (startHead s q) s2 read
       ∧ Placed s c len dst (fun j => byteOf (dwd r.dw 2) (dst j % 8)) read)
  ∧ ((∀ i q ty scatter s r l, gathers i = some (q, ty, scatter) → Head s q ty elemsOk r l → r.work = 0 → Calm s →
       let c := queueCtx s q
       let d := dwd r.dw 0
       let count := bits d 63 32
       let iw := if bits d 13 12 = 0 then 4 else 8
       let esz := 2 ^ bits d 10 8
       let idxVa (j : Nat) : Nat := (dwd r.dw 2).toNat + j
       let idx (j : Nat) : Nat := ((List.range iw).map fun m => (vByte s c (idxVa (j * iw + m))).toNat * 256 ^ m).sum
       let far (j : Nat) : Nat := (dwd r.dw 1).toNat + idx (j / esz) * esz + j % esz
       let near (j : Nat) : Nat := (dwd r.dw 3).toNat + j
       let src := if scatter then near else far
       let dst := if scatter then far else near
       let n := count * esz
       spanOpen s q c (count * iw) idxVa false → spanOpen s q c n src false → spanOpen s q c n dst true →
       apartKeys s c n src dst → (∀ a < count * iw, ∀ b < n, keyOf s c (idxVa a) ≠ keyOf s c (dst b)) →
       ∃ s2 read, exec i s = .next (finishHead s2 q 0 (dw count)) ∧ Served (startHead s q) s2 read
         ∧ Placed s c n dst (fun j => vByte s c (src j)) read)
     ∧ ∀ q s r l, Head s q 0x15 (fun r => zeroBits (dwd r.dw 0) [(31, 11)] && bits (dwd r.dw 0) 63 32 != 0
         && zeroBits (dwd r.dw 1) [(63, 56), (15, 0)] && zeroDwords r 2 3) r l →
       (∀ e ∈ s.pageOps, opOf q e.2 = false) →
       let count := bits (dwd r.dw 0) 63 32
       let va := (dwd r.dw 1).toNat + r.work * 65536
       let die := if bit (dwd r.dw 0) 10 then some (bits (dwd r.dw 0) 9 8) else none
       (count ≤ r.work → exec (.emigRecord q) s = .next (finishHead (startHead s q) q 0 (dw r.work)))
       ∧ ∀ t f, r.work < count → va < 2 ^ 56 → walk s (queueCtx s q) va = some t → t.aper = false → t.large = false →
         aget s.frames t.entry = some f → f.large = false → f.st = .resident → f.perm &&& 1 = 1 → keyLoaded s f.key = true →
         f.pincnt = 0 → aget s.pageOps t.entry = none →
         (f.rcnt ≠ 0 → exec (.emigRecord q) s = .next { startHead s q with
             frames := aset s.frames t.entry { f with st := if f.bad then f.st else .deferred },
             pageOps := aset s.pageOps t.entry (.deferMigrate die f.gran (some q) []) })
         ∧ ∀ dst, f.rcnt = 0 → Calm s → moveFrame s t.entry die false = some dst →
           ∃ s2, exec (.emigRecord q) s = .next s2 ∧ aget s2.frames t.entry = some { f with st := .migrating }
             ∧ aget s2.pageOps t.entry = some (.migrate dst f.gran (some q) []) ∧ queueRecs s2 q = queueRecs (startHead s q) q
             ∧ (∀ k, k ≠ t.entry → aget s2.frames k = aget s.frames k)
             ∧ ∀ key pa, inTables pa = false → readByte s2 key pa = readByte s key pa)

/-- R81 to R87, R428: CTX_DEFINE and CTX_UPDATE read their descriptor in context 0, and define or change the context
where it is well-formed and its key slot, save area and budget allow; CTX_UPDATE replaces the groups of fields that
its MASK names, with bit 1 the collective table too, whose entries come into force at once where no round of them is
open; KEY_INSTALL loads a slot with the 64 bytes at its address. R83, R84, R87, R90, R93, R390: CTX_SUSPEND holds a
DEFINED context, and saves a RESIDENT one: every block of it on a core is asked to save itself, and its groups that
stand where they can be taken are saved at once; the context is SAVING, and its record waits, until no block of it is
on a core; CTX_RESUME lets a DEFINED one go on; CTX_DESTROY ends a context's kernels with no event, logs each, gives
ABORT to the other ranks of its collective entries, and discards its queues; the context is WIPING until its record
completes; KEY_RETIRE begins where no context names the slot. Each refusal has its status: a context that is there
already or is not, one in a state that allows no such command, a descriptor or table that is ill-formed, one that
cannot be read, a key slot that is in use or retiring. That save pages are frames (log 23), the refusal of a
retirement of an empty slot (log 24), how a table that cannot be read ends its command (log 25), the residence that
CTX_DEFINE asks for (log 55) and for which entries ABORT is given (log 84) are the model's choices. -/
def Obligations.ContextRecords : Prop :=
  ((∀ s q r l t, Command s q 0x20 128 false r l → Calm s → AgentReaches s q 0 (dwd r.dw 1).toNat 128 false t →
     let c := cmdId r
     let d := dwordsAt s t 16
     let x := ctxOfDesc d
     let i := Instr.ctxDefine q
     (ahas s.ctxs c = true → exec i s = .next (finishHead (startHead s q) q 1 0))
     ∧ (ahas s.ctxs c = false → ∃ s1, HasRead s q t 128 s1
       ∧ (descOk d c = false → exec i s = .next (finishHead s1 q 7 0))
       ∧ (descOk d c = true → ∀ s2,
         (readTable s1 q c x.collTab x.collN = (s2, .bad) → exec i s = .next (finishHead s2 q 7 0))
         ∧ (readTable s1 q c x.collTab x.collN = (s2, .unread) → exec i s = .next (finishHead s2 q 10 0))
         ∧ (readTable s1 q c x.collTab x.collN = (s2, .wait) → exec i s = .next s2)
         ∧ ∀ m, readTable s1 q c x.collTab x.collN = (s2, .ok m) →
         (aget s2.keys x.keySlot = none → x.keySlot ≠ 0 → exec i s = .next (finishHead s2 q 8 0))
         ∧ (∀ e, aget s2.keys x.keySlot = some e → e.retiring = true → exec i s = .next (finishHead s2 q 4 0))
         ∧ (keyLoaded s2 x.keySlot = true →
           (saveFrames s2 c x.saveBase.toNat x.savePages = none → exec i s = .next (finishHead s2 q 5 0))
           ∧ ∀ fs, saveFrames s2 c x.saveBase.toNat x.savePages = some fs →
             (overBudget s2 x = true → exec i s = .next (finishHead s2 q 3 0))
             ∧ (overBudget s2 x = false →
               let held := fs.foldl (fun s id => (pinPage s id).1) s2
               exec i s = .next (finishHead { held with ctxs := aset held.ctxs c { x with colls := m } } q 0 0))))))
   ∧ (∀ s q r l t, Command s q 0x21 128 true r l → Calm s → AgentReaches s q 0 (dwd r.dw 1).toNat 128 false t →
     let c := cmdId r
     let d := dwordsAt s t 16
     let new := ctxOfDesc d
     let mask := bits (dwd r.dw 2) 2 0
     let i := Instr.ctxUpdate q
     (aget s.ctxs c = none → exec i s = .next (finishHead (startHead s q) q 2 0))
     ∧ ∀ x, aget s.ctxs c = some x →
       (x.st ≠ .defined → x.st ≠ .resident → exec i s = .next (finishHead (startHead s q) q 9 0))
       ∧ (x.st = .defined ∨ x.st = .resident → ∃ s1 x1, HasRead s q t 128 s1 ∧ aget s1.ctxs c = some x1
         ∧ { x1 with served := x.served } = x
         ∧ (descOk d c = false → exec i s = .next (finishHead s1 q 7 0))
         ∧ (descOk d c = true → mask.testBit 1 = false →
           ((∃ e, aget s.keys new.keySlot = some e ∧ e.retiring = true) → exec i s = .next (finishHead s1 q 4 0))
           ∧ ((∀ e, aget s.keys new.keySlot = some e → e.retiring = false) → x.collsNew = none →
             ∃ y, Updated x1 new y mask ∧ (y.collTab, y.collN, y.colls, y.collsNew) = (x.collTab, x.collN, x.colls, none)
               ∧ exec i s = .next (finishHead { s1 with ctxs := aset s1.ctxs c y } q 0 0)))
         ∧ (descOk d c = true → mask.testBit 1 = true → ∀ s2,
           (readTable s1 q c new.collTab new.collN = (s2, .bad) → exec i s = .next (finishHead s2 q 7 0))
           ∧ (readTable s1 q c new.collTab new.collN = (s2, .unread) → exec i s = .next (finishHead s2 q 10 0))
           ∧ (readTable s1 q c new.collTab new.collN = (s2, .wait) → exec i s = .next s2)
           ∧ ∀ m, readTable s1 q c new.collTab new.collN = (s2, .ok m) →
             ((∃ e, aget s2.keys new.keySlot = some e ∧ e.retiring = true) → exec i s = .next (finishHead s2 q 4 0))
             ∧ ((∀ e, aget s2.keys new.keySlot = some e → e.retiring = false) → ∀ x2, aget s2.ctxs c = some x2 →
               (∀ e ∈ x2.colls ++ m, (roundsOf s2 c e.1).busy = false) → (∀ b ∈ s2.blocks, b.2.ctx ≠ c ∨ b.2.st ≠ .saved) →
               ∃ y, Updated x2 new { y with colls := x2.colls } mask
                 ∧ (y.collTab, y.collN, y.collsNew) = (new.collTab, new.collN, none) ∧ (∀ e, aget y.colls e = aget m e)
                 ∧ exec i s = .next (finishHead { s2 with ctxs := aset s2.ctxs c y } q 0 0)))))
   ∧ ∀ s q r l t, Command s q 0x25 64 false r l → Calm s → AgentReaches s q 0 (dwd r.dw 1).toNat 64 false t →
     ∃ s1, HasRead s q t 64 s1
       ∧ (aget s.keys (cmdId r) ≠ none → exec (.keyInstall q) s = .next (finishHead s1 q 4 0))
       ∧ (aget s.keys (cmdId r) = none → ∃ k, k.retiring = false ∧ k.bytes = bytesAt s t 64
         ∧ exec (.keyInstall q) s = .next (finishHead { s1 with keys := aset s1.keys (cmdId r) k } q 0 0)))
  ∧ (∀ i q ty align mask s r l, commands i = some (q, ty, align, mask) → align ≠ 0 → Command s q ty align mask r l →
     let va := (dwd r.dw 1).toNat
     walk s 0 va = none → backingOf (ctxOf s 0) (va / 65536) = none → (ty = 0x20 → aget s.ctxs (cmdId r) = none) →
     (ty = 0x21 → ∃ x, aget s.ctxs (cmdId r) = some x ∧ (x.st = .defined ∨ x.st = .resident)) →
     exec i s = .next (finishHead (startHead s q) q 10 0))
  ∧ ((∀ s q r l, Command s q 0x22 0 false r l → r.work = 0 →
       let c := cmdId r
       let s1 := startHead s q
       (aget s.ctxs c = none → exec (.ctxSuspend q) s = .next (finishHead s1 q 2 0))
       ∧ ∀ x, aget s1.ctxs c = some x →
         (x.st = .defined → exec (.ctxSuspend q) s = .next (finishHead { s1 with ctxs := aset s1.ctxs c { x with held := true } } q 0 0))
         ∧ (x.st = .saving ∨ x.st = .wiping → exec (.ctxSuspend q) s = .next (finishHead s1 q 9 0))
         ∧ (x.st = .resident → assignSlots s1 c (placedBlocks s1 c) = none → exec (.ctxSuspend q) s = .next (finishHead s1 q 6 0))
         ∧ (x.st = .resident → (∀ e ∈ s.blocks, e.2.ctx ≠ c) → exec (.ctxSuspend q) s = .next (finishHead (setWork { s1 with
             ctxs := aset s1.ctxs c { x with st := .defined, held := true, why := .none } } q 1) q 0 0))
         ∧ (x.st = .loading → exec (.ctxSuspend q) s = .next s1)
         ∧ (x.st = .resident → (assignSlots s1 c (placedBlocks s1 c)).isSome = true → (∃ e ∈ s.blocks, e.2.ctx = c ∧ e.2.st = .placed) →
           aRising s.blocks = true → aRising s.groups = true → (∀ e ∈ s.clusters, e.2.aborted = false) →
           ∃ t, exec (.ctxSuspend q) s = .next t ∧ t.ctxs = aset s1.ctxs c { x with st := .saving, why := .suspend }
             ∧ (queueRecs t q).head?.map QRec.work = some 1
             ∧ (∀ k b, aget s.blocks k = some b → b.ctx ≠ c → aget t.blocks k = some b)
             ∧ ∀ k b, aget s.blocks k = some b → b.ctx = c → b.st = .placed →
               ∃ y, aget t.blocks k = some y ∧ (y.core, y.st, y.saveAt.isSome) = (b.core, .placed, true)
                 ∧ (b.saveAt.isSome = true → y.saveAt = b.saveAt) ∧ y.pre = some (b.pre.getD s.clock)
                 ∧ (b.pre = none → ∀ n g, aget s.groups n = some g → g.blk = k →
                   let taken := g.nopre = none ∧ g.fenceAt = none ∧ g.inRoutine = false
                     ∧ (g.st = .blocked ∨ (g.st = .running ∧ (g.region.isSome = true ∨ g.held.any isSubmission = true)))
                   (taken → ∃ h, aget t.groups n = some h ∧ h.st = .saved ∧ h.kind = if g.region.isSome then .restart else .dump)
                   ∧ (¬taken → ∃ h, aget t.groups n = some h ∧ MayWake g h))))
     ∧ (∀ s q r l, Head s q 0x22 (fun r => cmdOk r 0 false) r l → r.work = 1 → r.started ≠ none →
       ((ctxOf s (cmdId r)).st = .saving → exec (.ctxSuspend q) s = .next s)
       ∧ ((ctxOf s (cmdId r)).st ≠ .saving → exec (.ctxSuspend q) s = .next (finishHead s q 0 0)))
     ∧ (∀ s q r l, Command s q 0x23 0 false r l →
       let c := cmdId r
       let s1 := startHead s q
       (aget s.ctxs c = none → exec (.ctxResume q) s = .next (finishHead s1 q 2 0))
       ∧ ∀ x, aget s1.ctxs c = some x →
         (x.st = .defined → exec (.ctxResume q) s = .next (finishHead { s1 with ctxs := aset s1.ctxs c { x with held := false } } q 0 0))
         ∧ (x.st ≠ .defined → exec (.ctxResume q) s = .next (finishHead s1 q 9 0)))
     ∧ (∀ s q r l, Head s q 0x24 (fun r => cmdOk r 0 false) r l →
       let c := cmdId r
       let s1 := startHead s q
       (r.work = 1 → r.started ≠ none → aget s.ctxs c = none → exec (.ctxDestroy q) s = .next (finishHead s q 0 0))
       ∧ (r.work = 0 → r.started = none → aget s.ctxs c = none → exec (.ctxDestroy q) s = .next (finishHead s1 q 2 0))
       ∧ (r.work = 1 → r.started ≠ none → (aget s.ctxs c).isSome = true → exec (.ctxDestroy q) s = .next s)
       ∧ (∀ x, r.work = 0 → r.started = none → aget s.ctxs c = some x →
         (x.st = .wiping → exec (.ctxDestroy q) s = .next (finishHead s1 q 9 0))
         ∧ (x.st = .loading ∨ x.st = .saving → exec (.ctxDestroy q) s = .next s1)
         ∧ (x.st = .defined ∨ x.st = .resident → queueCtx s q ≠ c → s.draining = [] → s.pageOps = [] →
           aRising s.launches = true → aRising s.blocks = true → aRising s.groups = true →
           let ends (k : Nat) : Prop := ∃ l, aget s.launches k = some l ∧ l.ctx = c
           ∃ t, exec (.ctxDestroy q) s = .next t ∧ (∃ y, aget t.ctxs c = some y ∧ y.st = .wiping)
             ∧ (∀ e ∈ t.launches, e.2.ctx ≠ c) ∧ (∀ e ∈ t.queues, e.2.ctx ≠ c) ∧ (∀ e ∈ t.eps, e.1 / 64 ≠ c)
             ∧ (∀ e ∈ t.evq, e.ctx ≠ c) ∧ (∀ e ∈ t.lateDone, e.ctx ≠ c) ∧ (∀ e ∈ t.rounds, e.1 / 512 ≠ c)
             ∧ (∀ k b, aget s.blocks k = some b → (ends b.launch → aget t.blocks k = none) ∧ (¬ends b.launch → aget t.blocks k = some b))
             ∧ (∀ n g b, aget s.groups n = some g → aget s.blocks g.blk = some b →
               (ends b.launch → aget t.groups n = none) ∧ (¬ends b.launch → ∃ h, aget t.groups n = some h ∧ MayWake g h))
             ∧ (∀ k l, aget s.launches k = some l → l.ctx ≠ c → ∃ z, aget t.launches k = some z
               ∧ { z with producers := l.producers, depFailed := l.depFailed } = l)
             ∧ (∀ k l, aget s.launches k = some l → l.ctx = c → .aborted c l.seq ∈ t.log)
             ∧ (∀ e ∈ s.queues, e.2.ctx = c → ∀ r ∈ e.2.recs, recType r = 1 → r.started = none → .aborted c r.seq ∈ t.log)
             ∧ ∀ e ∈ x.colls, ∀ k < e.2.nrank, k ≠ e.2.myRank → .abort c e.1 k ∈ t.collOut))
       ∧ ∀ x, r.work = 0 → r.started = none → aget s.ctxs c = some x → x.st = .defined ∨ x.st = .resident → Idle s c →
         queueCtx s q ≠ c →
         ∃ t, exec (.ctxDestroy q) s = .next t ∧ (∃ y, aget t.ctxs c = some y ∧ y.st = .wiping)
           ∧ (∀ e ∈ t.queues, e.2.ctx ≠ c) ∧ (∀ e ∈ t.eps, e.1 / 64 ≠ c) ∧ (∀ e ∈ t.evq, e.ctx ≠ c)
           ∧ (∀ e ∈ t.lateDone, e.ctx ≠ c) ∧ t.mem = s.mem ∧ t.frames = s.frames ∧ t.groups = s.groups ∧ t.blocks = s.blocks ∧ t.launches = s.launches)
     ∧ ∀ s q r l, Head s q 0x26 (fun r => cmdOk r 0 false) r l →
       let k := cmdId r
       let s1 := startHead s q
       (r.work = 1 → r.started ≠ none → aget s.keys k = none → exec (.keyRetire q) s = .next (finishHead s q 0 0))
       ∧ (r.work = 1 → r.started ≠ none → (aget s.keys k).isSome = true → exec (.keyRetire q) s = .next s)
       ∧ (r.work = 0 → r.started = none → aget s.keys k = none → ∃ n, 1 ≤ n
         ∧ exec (.keyRetire q) s = .next (finishHead { s1 with freeCtr := s.freeCtr + 1 } q n 0))
       ∧ ∀ e, r.work = 0 → r.started = none → aget s.keys k = some e →
         (e.retiring = true → exec (.keyRetire q) s = .next (finishHead s1 q 4 0))
         ∧ (e.retiring = false → (∃ x ∈ s1.ctxs, x.2.keySlot = k) → exec (.keyRetire q) s = .next (finishHead s1 q 8 0))
         ∧ (e.retiring = false → (∀ x ∈ s1.ctxs, x.2.keySlot ≠ k) →
           exec (.keyRetire q) s = .next (setWork { s1 with keys := aset s1.keys k { retiring := true, bytes := [] } } q 1)))

/-- R97, R106, R107: QUEUE_CREATE opens a FREE queue of a defined context; QUEUE_RESET opens a queue and aborts what
has not started; QUEUE_DESTROY frees it. A write of a record to an open window with room appends it, once the host's
writes to device memory before it have been performed (R99, R193); every other write that arrives is dropped and
counted. That a landing write that does not arrive leaves the state as it is (log 53), and how long a queue is reset
after a warm reset (log 49), are the model's reading. -/
def Obligations.QueueAdministration : Prop :=
  (∀ s q r l, Head s q 0x30 (adminOk true) r l →
    let d := dwd r.dw 0
    let key := adminKey q r
    let s1 := startHead s q
    let x : HostQ := { halted := false, depth := 2 ^ bits d 31 28, cls := bits d 21 20, ctx := bits d 19 8, nextSeq := 0, recs := [] }
    (aget s.queues key ≠ none → exec (.queueCreate q) s = .next (finishHead s1 q 1 0))
    ∧ (aget s.queues key = none → aget s.ctxs (bits d 19 8) = none → exec (.queueCreate q) s = .next (finishHead s1 q 2 0))
    ∧ (aget s.queues key = none → aget s.ctxs (bits d 19 8) ≠ none → exec (.queueCreate q) s =
        .next (finishHead { s1 with queues := aset s1.queues key x, drops := adel s1.drops key } q 0 0)))
  ∧ (∀ i s q r l, ∀ destroy : Bool, i = (if destroy then Instr.queueDestroy q else .queueReset q) →
    Head s q (if destroy then 0x32 else 0x31) (adminOk false) r l → r.started = none → r.work = 0 →
    let key := adminKey q r
    let n := bits (dwd r.dw 0) 44 32
    q ≠ .host (portOf q) n →
    (aget s.queues key = none → exec i s = .next (finishHead (startHead s q) q 3 0))
    ∧ ∀ x, aget s.queues key = some x → (∀ y ∈ x.recs, y.hasStarted = false) →
      ∃ s2, exec i s = .next (finishHead s2 q 0 0) ∧ queueRecs s2 q = queueRecs (startHead s q) q
        ∧ (destroy = false → aget s2.queues key = some { x with halted := false, recs := [] } ∧ aget s2.drops key = none)
        ∧ (destroy = true → aget s2.queues key = none))
  ∧ ∀ s port off data,
    let key := port * 8192 + off / 4096
    let arrives := partOfPort s port ≠ none ∧ ∃ p, s.pports[port]? = some p ∧ p.st ≠ .down
    let takes := s.resetUntil ≤ s.clock
      ∧ ∃ x, aget s.queues key = some x ∧ x.halted = false ∧ x.dying = false ∧ x.recs.length < x.depth
    (¬arrives → exec (.landingWrite port off data) s = .next s)
    ∧ (arrives → (data.length = 64 ∧ off % 64 = 0 ∧ off < 2 ^ 25 ∧ takes) → ∃ x y u,
        u = { s with
          mem := u.mem, bad := u.bad, latent := u.latent, frames := u.frames, dir := u.dir, upd := u.upd, groups := u.groups
          cohErrs := u.cohErrs, books := u.books, log := u.log, ncOut := u.ncOut }
        ∧ ((∀ e ∈ s.dir, e.2.ncwrWaits = false) → u = s)
        ∧ aget s.queues key = some x ∧ y.seq = x.nextSeq ∧ y.started = none ∧ y.work = 0 ∧ y.dw.length = 8
        ∧ (∀ j < 8, ∀ m < 8, sub (dwd y.dw j) 8 m = ((data[8 * j + m]?).getD 0).toNat)
        ∧ exec (.landingWrite port off data) s = .next { u with
            queues := aset s.queues key { x with recs := x.recs ++ [y], nextSeq := x.nextSeq + 1 } })
    ∧ (arrives → ¬(data.length = 64 ∧ off % 64 = 0 ∧ off < 2 ^ 25 ∧ takes) → ∃ t, exec (.landingWrite port off data) s = .next t
        ∧ t = { s with log := s.log ++ [.dropped port off], drops := t.drops }
        ∧ (off < 2 ^ 25 → agetD t.drops key 0 = min 16383 (agetD s.drops key 0 + 1)))

/-- A resident context that R85 step 1 may take: no block of it is resident, and no command in flight. -/
def MayRelease (s : State) (e : Nat × Ctx) : Prop :=
  e.1 ≠ 0 ∧ e.2.st = .resident ∧ (∀ b ∈ s.blocks, b.2.ctx = e.1 → b.2.st ≠ .placed)
    ∧ ∀ q ∈ queuesOf s e.1, ∀ r ∈ queueRecs s q, r.started = none

/-- R79, R84, R85, R87, R93, R398: a DEFINED context with work takes a free resident slot, else that of the least
recently served one that has no resident block and no command in flight; loading ends; an idle one, whose queues are
empty or HALTED, gives its slot back after 1 ms; a wiped one is gone; a retired key slot is EMPTY; wiped frames are
free. That saved work loads a context (log 26), and that the idle time acts once the clock has reached its deadline
(log 52), are the model's reading. -/
def Obligations.ContextResidency : Prop :=
  (∀ s c x, aget s.ctxs c = some x → x.st = .defined → x.held = false → hasWork s c = true → evicting s c = false →
    (slotsUsed s < 256 → ∃ t, exec (.contextLoad c) s = .next t
      ∧ t = { s with ctxs := aset s.ctxs c { x with st := .loading, loaded := s.clock, served := s.clock }, launches := t.launches })
    ∧ (∀ v y, 256 ≤ slotsUsed s → idleVictim s = some v → v ≠ c → aget s.ctxs v = some y → ∃ t, exec (.contextLoad c) s = .next t
      ∧ aget t.ctxs v = some { y with st := .defined }
      ∧ aget t.ctxs c = some { x with st := .loading, loaded := s.clock, served := s.clock }))
  ∧ (∀ s, (idleVictim s = none ↔ ∀ e ∈ s.ctxs, ¬MayRelease s e)
    ∧ ∀ v, idleVictim s = some v → ∃ x, (v, x) ∈ s.ctxs ∧ MayRelease s (v, x) ∧ ∀ e ∈ s.ctxs, MayRelease s e → x.served ≤ e.2.served)
  ∧ (∀ s c x, aget s.ctxs c = some x → x.st = .loading → (∀ e ∈ s.blocks, e.2.ctx = c → e.2.st ≠ .saved) →
    exec (.contextLoadComplete c) s = .next { s with ctxs := aset s.ctxs c { x with st := .resident, idleSince := s.clock } })
  ∧ (∀ s c x, aget s.ctxs c = some x → c ≠ 0 → x.st = .resident → (∀ q ∈ queuesOf s c, queueRecs s q = [] ∨ queueHalted s q = true) →
    (∀ e ∈ s.launches, e.2.ctx ≠ c) → (∀ e ∈ s.blocks, e.2.ctx ≠ c) →
    exec (.contextIdleRelease c) s = .next { s with
      clock := max s.clock (x.idleSince + 2500000), ctxs := aset s.ctxs c { x with st := .defined } })
  ∧ (∀ s c x, aget s.ctxs c = some x → x.st = .wiping → Idle s c → ∃ t, exec (.contextWipeComplete c) s = .next t
    ∧ aget t.ctxs c = none ∧ (∀ k, k ≠ c → aget t.ctxs k = aget s.ctxs k) ∧ (∀ e ∈ t.queues, e.2.ctx ≠ c)
    ∧ t.mem = s.mem ∧ t.frames = s.frames ∧ t.keys = s.keys)
  ∧ (∀ s k e, aget s.keys k = some e → e.retiring = true → Calm s → ∃ t, exec (.keyRetireComplete k) s = .next t
    ∧ t.keys = adel s.keys k ∧ ∀ key pa, readByte t key pa = readByte s key pa)
  ∧ ∀ s c, ∃ t, exec (.frameWipeComplete c) s = .next t ∧ t = { s with wiping := t.wiping }
    ∧ ∀ e, e ∈ t.wiping ↔ e ∈ s.wiping ∧ e.2 ≠ c

/-- R121, R125, R399: a well-formed launch record becomes a launch that is WAITING, with the record's fields and the
producers of an early one as they stand; other launches stay, but one that had this record as a producer now has the
launch. A FAILED module aborts a launch of a context other than 0. R117, R125, R131, R411: a WAITING launch of a
resident context reads its dependences. One that is not DONE and names no producer keeps it WAITING. Once its
predecessor is complete, or its producers have left WAITING, one that is DONE with an error ends it in ERR_DEP, and
where all are met its header is read: an ill-formed one, and one that asks for what the partition does not have, end
it with their status, any other makes it PLACING. That an early launch is one that names producers (log 61), and that
an ill-formed header ends in ERR_ILLFORMED where its table cannot be read (log 73), are the model's reading. -/
def Obligations.LaunchesEnter : Prop :=
  (∀ s q r l, Head s q 0x01 launchOk r l → r.started = none →
     let c := queueCtx s q
     let d (n : Nat) : Dword := dwd r.dw n
     let deps := [d 3, d 4, d 5, d 6]
     let prod (y : Launch) : Prop := (y.queue = q ∧ y.detached = false ∧ y.seq + 1 = r.seq) ∨ (y.ctx = c ∧ y.event ≠ 0 ∧ y.event ∈ deps)
     (s.health = .failed → c ≠ 0 → exec (.launchRecord q) s = .next (finishHead (startHead s q) q 0x86 0))
     ∧ (s.health ≠ .failed ∨ c = 0 → ∃ x t, exec (.launchRecord q) s = .next t
       ∧ t = { startHead s q with nextId := s.nextId + 1, launches := t.launches }
       ∧ aget t.launches s.nextId = some x
       ∧ (x.st, x.ctx, x.queue, x.seq, x.event, x.floor) = (.waiting, c, q, r.seq, d 7, bits (d 1) 63 56)
       ∧ (x.hdrAt, x.args) = (dw (bits (d 1) 47 0 * 256), dw (bits (d 0) 63 11 * 8))
       ∧ (x.gx, x.gy, x.gz, x.deps, x.early) = (bits (d 2) 31 0, bits (d 2) 47 32, bits (d 2) 63 48, deps, bit (d 1) 51)
       ∧ (bit (d 1) 50 = true → x.cls = bits (d 1) 49 48)
       ∧ (bit (d 1) 50 = false → ∀ p n y, q = .host p n → aget s.queues (p * 8192 + n) = some y → x.cls = y.cls)
       ∧ (x.early = false → x.producers = [])
       ∧ (x.early = true → ∀ k, k ∈ x.producers ↔ ∃ y, (k, y) ∈ s.launches ∧ prod y)
       ∧ ∀ k y, k ≠ s.nextId → aget s.launches k = some y → ∃ z, aget t.launches k = some z
         ∧ { z with queuedProd := y.queuedProd, producers := y.producers } = y ∧ ((q, r.seq) ∉ y.queuedProd → z = y)
         ∧ ((q, r.seq) ∈ y.queuedProd → z.producers = y.producers ++ [s.nextId])))
  ∧ (∀ s k l t, aget s.launches k = some l → l.st = .waiting → (ctxOf s l.ctx).st = .resident → Calm s →
       let dep (i : Nat) : Dword := (l.deps[i]?).getD 0
       let due (i : Nat) : Prop := i < 4 ∧ dep i ≠ 0
       ∀ at_ : Nat → Tr, (∀ i, due i → (dep i).toNat % 8 = 0 ∧ AgentReaches s l.queue l.ctx (dep i).toNat 8 false (at_ i)) →
       l.hdrAt.toNat % 256 = 0 → AgentReaches s l.queue l.ctx l.hdrAt.toNat 256 false t →
       let sees (i : Nat) : Nat := numAt s (at_ i).key (at_ i).pa 8
       let failed (i : Nat) : Prop := 2 ^ 63 ≤ sees i ∧ sees i % 256 ≠ 0
       let met (i : Nat) : Prop := (2 ^ 63 ≤ sees i ∧ sees i % 256 = 0) ∨ (sees i < 2 ^ 63 ∧ i ∈ l.prodDeps)
       let first := if l.early then l.queuedProd = [] ∧ ∀ p ∈ l.producers, ∀ x, aget s.launches p = some x → x.st ≠ .waiting
         else ∀ e ∈ s.launches, e.2.queue = l.queue → e.2.detached = false → l.seq ≤ e.2.seq
       let d := dwordsAt s t 32
       let h := headerOf32 d
       let p := queuePart s l.queue
       let prods := if l.early then l.producers.filter (ahas s.launches) else []
       ∃ s2, Served s s2 (readByte s)
         ∧ ((∃ i, due i ∧ failed i) → first → exec (.leaveWaiting k) s = .next (endWaiting s2 k l 5))
         ∧ ((∃ i, due i ∧ failed i) → ¬first → exec (.leaveWaiting k) s = .next s2)
         ∧ ((∀ i, due i → ¬failed i) → (∃ i, due i ∧ ¬met i) → exec (.leaveWaiting k) s = .next s2)
         ∧ ((∀ i, due i → met i) → ¬first → exec (.leaveWaiting k) s = .next s2)
         ∧ ((∀ i, due i → met i) → first →
           let ends (st : Nat) : Prop := exec (.leaveWaiting k) s = .next (endWaiting s2 k l st)
           (headerWf d = false ∨ l.gx % h.csize ≠ 0 → ends 0x80)
           ∧ (headerWf d = true → l.gx % h.csize = 0 → h.idemN = 0 →
             let fits := h.fitsEmpty = true ∧ (h.pinned = true → binFits s p l.ctx h = true)
             (h.pinned ≠ (ctxOf s l.ctx).pinned → ends 1)
             ∧ (h.pinned = (ctxOf s l.ctx).pinned → ¬fits → ends 2)
             ∧ (h.pinned = (ctxOf s l.ctx).pinned → fits → hasBay s p h.csize = false → ends 3)
             ∧ (h.pinned = (ctxOf s l.ctx).pinned → fits → hasBay s p h.csize = true → exec (.leaveWaiting k) s = .next
                 { headDone s2 l.queue with
                   nextId := s.nextId + 1
                   launches := aset s.launches k { l with
                     st := .placing, hdr := some h, regions := [], order := s.nextId, waitSince := s.clock
                     early := !prods.isEmpty, producers := prods, det := (ctxOf s l.ctx).det } }))))

/-- Groups of the blocks listed that stand in a quadrant. -/
def inQuad (s : State) (on : AMap Block) (q : Nat) : Nat := (on.map fun e => ((groupsOf s e.1).filter fun g => g.2.quad = q).length).sum

/-- A core has room for a block of a header beside those placed on it (R123): group slots by quadrant, the first of them in
the quadrant q0 that has most free; registers, LAs, scratchpad, barriers and a block slot. -/
def CoreRoom (s : State) (h : Header) (core : Nat) : Prop :=
  let on := s.blocks.filter fun e => e.2.core == core && e.2.st == .placed
  core ∉ s.draining ∧ aget s.rehearsing core = none
    ∧ (on.map fun e => e.2.groups * e.2.vregs).sum + h.groups * h.vregs ≤ 128
    ∧ (on.map fun e => 32 * e.2.lapl).sum + 32 * h.lapl ≤ 8192
    ∧ (on.map fun e => e.2.spadKB).sum + h.spadKB ≤ 384
    ∧ (on.map fun e => e.2.barsN).sum + h.bars ≤ 64
    ∧ on.length + 1 ≤ 16
    ∧ ∃ q0 < 4, (∀ q < 4, inQuad s on q0 < inQuad s on q ∨ (inQuad s on q0 = inQuad s on q ∧ q0 ≤ q))
      ∧ ∀ q < 4, inQuad s on q + ((List.range h.groups).filter fun g => (q0 + g) % 4 = q).length ≤ 16

/-- Where a bay pair stands in the scan of a partition (R123): those after the pair used last come first. -/
def scanRank (s : State) (p : Nat) (x : Nat × Nat) : Nat :=
  let num := x.1 * 10 + x.2
  match aget s.lastBay p with
  | some k => if num ≤ k ∧ ∃ y ∈ baysOf s p, y.1 * 10 + y.2 = k then num + 40 else num
  | none => num

/-- The lowest logical cores of a bay that can take a block of a header, with their physical cores. -/
def takersOf (s : State) (h : Header) (x : Nat × Nat) : List (Nat × Nat) := (bayCores s x.1 x.2).filter fun c => coreTakes s h c.2

/-- A launch has a cluster saved whole. -/
def HasSaved (s : State) (k : Nat) : Prop :=
  ∃ e ∈ s.clusters, e.2.launch = k ∧ ∀ b ∈ s.blocks, b.2.clu = e.1 → b.2.st = .saved

/-- A launch waits for a cluster to be placed: a saved one, also while its context is LOADING, or a new one. -/
def WantsPlace (s : State) (k : Nat) (l : Launch) : Prop :=
  l.st ≠ .waiting ∧ (((ctxOf s l.ctx).st = .resident ∧ (HasSaved s k ∨ (l.st = .placing ∧ l.placed < l.total)))
    ∨ ((ctxOf s l.ctx).st = .loading ∧ HasSaved s k))

/-- A launch of a partition that may have a cluster placed: nothing of its context is being pre-empted (R90), and no launch
before it, of its class or a more urgent one, has waited 1 ms (R124) for more than the floor (R126). -/
def Serves (s : State) (p k : Nat) (l : Launch) : Prop :=
  queuePart s l.queue = p ∧ WantsPlace s k l ∧ (∀ b ∈ s.blocks, b.2.ctx = l.ctx → b.2.pre = none)
    ∧ ∀ e ∈ s.launches, e.1 ≠ k → e.2.starved = true → WantsPlace s e.1 e.2 → floorRefused s e.1 e.2 = false → e.2.order < l.order →
      launchClass s e.2 ≤ launchClass s l → queuePart s e.2.queue ≠ p

/-- R122 to R124, R126: a cluster of the first launch in order that has room gets its blocks, one a core, with
consecutive numbers and ranks, and their groups start at the kernel's code with the arguments in s0 and the block in
s1. A core takes a block where it is in service, of the launch's context or of none, and has the block places, groups,
scratchpad, registers and accumulators that the header asks for; a cluster takes the first cores that do, in one bay
where it fits, and only where die, Prompt Book and partition allow. R113, R124: launches are placed by CLASS, within a
class as they left WAITING, and none of its class or a less urgent one after a launch whose cluster waited 1 ms, but
where only the floor refuses that cluster. The clock of the starvation event (log 52) and that a refused event changes
nothing (log 53) are the model's choices. -/
def Obligations.Placements : Prop :=
  (∀ s p k l h sp rest, placeOrder s p = (k, l) :: rest → aget s.launches k = some l → l.hdr = some h → h.groups ≤ 32 →
    savedClusters s k = [] → l.hasNew = true → findSpot s p l h.csize true = some sp → (∀ e ∈ s.launches, e.2.over = false) →
    l.retired = 0 →
    let clu := s.nextId
    let isNew (b : Nat) : Prop := clu < b ∧ b ≤ clu + h.csize
    ∃ t m, exec (.clusterPlacement p) s = .next t ∧ t.nextId = clu + 1 + h.csize
      ∧ aget t.clusters clu = some { launch := k, num := l.nextClu, die := sp.die, bay := sp.bay, size := h.csize }
      ∧ (∀ r < h.csize,
        let id := l.nextClu * h.csize + r
        let bk := clu + 1 + r
        ∃ b, aget t.blocks bk = some b ∧ (b.ctx, b.launch, b.clu, b.rank, b.id, b.st) = (l.ctx, k, clu, r, id, .placed)
          ∧ (b.x, b.y, b.z) = (id % l.gx, id / l.gx % l.gy, id / l.gx / l.gy) ∧ sp.cores[r]? = some (b.lcore, b.core)
          ∧ (b.groups, b.vregs, b.lapl, b.spadKB, b.barsN) = (h.groups, h.vregs, h.lapl, h.spadKB, h.bars)
          ∧ b.las = [] ∧ b.spad = [] ∧ b.bars = [] ∧ b.regions = []
          ∧ ∀ g < h.groups, ∃ x, aget t.groups (bk * 32 + g) = some x ∧ (x.blk, x.idx, x.st, x.pc) = (bk, g, .running, h.code)
            ∧ (x.exec, x.lmem, x.fmt, x.wbase, x.awbase) = (BitVec.allOnes 32, BitVec.allOnes 32, 0, 0, 0)
            ∧ (∀ n, x.readSn n = if n = 0 then l.args else if n = 1 then dw id else 0)
            ∧ x.vregs = [] ∧ x.preds = [] ∧ x.stack = [] ∧ x.inh = false ∧ x.pend = [])
      ∧ aget t.launches k = some m ∧ (m.nextClu, m.waitSince, m.starved) = (l.nextClu + 1, s.clock, false)
      ∧ m.st = (if m.placed = m.total then .running else .placing)
      ∧ (∀ b, ¬isNew b → aget t.blocks b = aget s.blocks b)
      ∧ ∀ g, ¬isNew (g / 32) → aget t.groups g = aget s.groups g)
  ∧ ((∀ s h core, coreTakes s h core = true ↔ CoreRoom s h core)
    ∧ (∀ s die bay, (∀ n c, (n, c) ∈ bayCores s die bay ↔ n < 144 ∧ coreOfLog s n = some c ∧ c / 40 = die ∧ c % 40 / 4 = bay)
      ∧ (bayCores s die bay).Pairwise fun x y => x.1 < y.1)
    ∧ (∀ s p l h n floor, l.hdr = some h → h.pinned = false → l.early = false →
      let fit (x : Nat × Nat) : Prop := x ∈ baysOf s p ∧ n ≤ (takersOf s h x).length
      ((∀ x, ¬fit x) → findSpot s p l n floor = none)
      ∧ ∀ x, fit x → (∀ y, fit y → scanRank s p x ≤ scanRank s p y) →
        let full := (ctxOf s l.ctx).place && bookFull s x.1 n
        findSpot s p l n floor = if full then none else some ⟨x.1, x.2, (takersOf s h x).take n, []⟩)
    ∧ ∀ s p, (∀ k l, (k, l) ∈ placeOrder s p ↔ (k, l) ∈ s.launches ∧ Serves s p k l)
      ∧ (placeOrder s p).Pairwise fun x y =>
        launchClass s x.2 < launchClass s y.2 ∨ (launchClass s x.2 = launchClass s y.2 ∧ x.2.order ≤ y.2.order))
  ∧ ∀ s k l, aget s.launches k = some l → mayPlace s k l = true → l.starved = false →
    (floorRefused s k l = true → exec (.placementStarvation k) s = .next s)
    ∧ (floorRefused s k l = false → exec (.placementStarvation k) s = .next { s with
        clock := max s.clock (l.waitSince + 2500000), launches := aset s.launches k { l with starved := true } })

/-- R170, R174, R182, R274, R275: a SLEEP ends at its time; a NOPRE window that stays open 50 µs ends in NOPRE_LIMIT,
that of a saved group once it is restored; a WAITM ends with status 1 once its dword differs or a store has changed
it, and with 0 at its time; a system fence ends after 2 ms, with 0 where a write was lost and REMOTE_LOSS where pd is
pt. That a timer acts once the clock has reached its deadline, and that WAITM tests once more before it times out, are
the model's choices (log 52), as are that NOPRE_LIMIT counts nothing toward a span (log 54) and that a test that is
not met changes nothing (log 53). -/
def Obligations.GroupTimers : Prop :=
  (∀ s k i t g b, aget s.groups k = some g → aget s.blocks g.blk = some b → g.wait = some (i, .sleep t) →
    let s1 := { s with clock := max s.clock t }
    let g1 := { g with st := g.awake, wait := none, lastIssue := s1.clock }
    exec (.sleepExpiry k) s = .next (complete i g1 b k (setGroup s1 k g1) .seq []))
  ∧ (∀ s k t g b, aget s.groups k = some g → aget s.blocks g.blk = some b → g.nopre = some t →
    g.st ≠ .exited ∧ g.st ≠ .halted ∧ g.st ≠ .saved →
    let handler := (ctxOf s b.ctx).handler
    (g.inh = false → handler ≠ 0 → ∃ u h, exec (.nopreTimeout k) s = .next u ∧ u.clock = max s.clock (t + 125000)
      ∧ aget u.groups k = some h ∧ TrapSet h .nopreLimit 0 g.pc ∧ h.nopre = none ∧ h.st = .running ∧ h.wait = none
      ∧ h.pc = handler ∧ h.inh = true ∧ h.gheld = g.grem ∧ h.ghold = g.gmask ∧ h.grem = 0)
    ∧ (g.inh = true ∨ handler = 0 → (∃ o x, o ≠ k ∧ aget s.groups o = some x ∧ x.blk = g.blk ∧ x.ended = false) →
      ∃ u h, exec (.nopreTimeout k) s = .next u ∧ aget u.groups k = some h ∧ h.st = .halted ∧ TrapSet h .nopreLimit 0 g.pc))
  ∧ (∀ s k t g, aget s.groups k = some g → g.nopre = some t → g.st = .saved →
    exec (.nopreTimeout k) s
      = .next (setGroup { s with clock := max s.clock (t + 125000) } k { g with nopre := none, limitDue := true }))
  ∧ (∀ s k g b pd sc a v lim seen t, aget s.groups k = some g → aget s.blocks g.blk = some b → Calm s →
    g.wait = some (.waitm pd sc a v, .mem lim seen) → Reaches s b .load 8 (dw (bits (g.readS a) 55 0)) t → Answers s t.pa evGets →
    let i := Instr.waitm pd sc a v
    let now := numAt s t.key t.pa 8
    let g1 := { g with st := g.awake, wait := none }
    (seen = true ∨ now ≠ (g.readS v).toNat → ∃ s2 new, exec (.waitmMet k) s = .next (complete i g1 b k s2 .seq [])
      ∧ MemNext s s2 k new (readByte s) ∧ OnlyPred g1 new pd fun _ x => x = 255)
    ∧ (seen = true ∨ now ≠ (g.readS v).toNat → ∀ t0, lim = some t0 → ∃ s2 new,
      exec (.waitmTimeout k) s = .next (complete i g1 b k s2 .seq [])
      ∧ MemNext { s with clock := max s.clock t0 } s2 k new (readByte s) ∧ OnlyPred g1 new pd fun _ x => x = 255)
    ∧ (seen = false → now = (g.readS v).toNat → exec (.waitmMet k) s = .next s
      ∧ ∀ t0, lim = some t0 → ∃ new,
        let s1 := { s with clock := max s.clock t0 }
        let g2 := { g1 with lastIssue := s1.clock }
        exec (.waitmTimeout k) s = .next (complete i g2 b k (setGroup s1 k new) .seq [])
          ∧ OnlyPred g2 new pd fun _ x => x = 0))
  ∧ ∀ s k g b t i pd sc, aget s.groups k = some g → aget s.blocks g.blk = some b → g.fenceAt = some t → g.held = some i →
    i = .fenceRel pd sc ∨ i = .fenceAr pd sc →
    let at_ := max s.clock (t + 5000000)
    let mine := s.posted.filter fun w => w.grp == k
    let lost := (s.lostPeers.filter fun x => x.1 == k).map Prod.snd ++ mine.map Posted.peer
    let g2 := { g with st := g.awake, wait := none, lastIssue := at_ }
    let g3 := { g2 with stalled := false, held := none, fenceAt := none }
    let left := { s with
      clock := at_, posted := s.posted.filter fun w => !(w.grp == k), lostPeers := s.lostPeers.filter fun x => !(x.1 == k) }
    (lost = [] ∨ pd ≠ 15 → ∃ new, exec (.systemFenceTimeout k) s = .next (complete i g2 b k (setGroup left k new) .seq [])
      ∧ OnlyPred g3 new pd fun _ x => x = if lost = [] then 255 else 0)
    ∧ ∀ pos r, lost = pos :: r → pd = 15 →
      (g.inh = false ∧ (ctxOf s b.ctx).handler ≠ 0) ∨ (∃ o x, o ≠ k ∧ aget s.groups o = some x ∧ x.blk = g.blk ∧ x.ended = false) →
      ∃ u h, exec (.systemFenceTimeout k) s = .next u ∧ aget u.groups k = some h ∧ TrapSet h .remoteLoss (dw pos) g.pc

/-- A dword of the header with which the hardware dumps a group (R89; the registers by R139, R143, R153). -/
def dumpedDword (g : Group) (i : Nat) : Nat :=
  let ctr (c : LoopCtr) : Nat := (if c.active then 2 ^ 63 else 0) + c.count.toNat
  let nest (c : LoopCtr) (length : Bool) : Nat := if c.active then (if length then c.len - 1 + 256 else c.start.toNat) else 0
  if i = 0 then g.pc.toNat
  else if i = 1 then g.exec.toNat + g.lmem.toNat * 2 ^ 32
  else if i = 2 then g.fmt.toNat
  else if i = 3 then g.wbase
  else if i = 4 then g.awbase
  else if i = 5 then
    g.gmask.toNat * 2 ^ 32 + g.gheld * 2 ^ 22 + g.grem * 2 ^ 17 + (if g.inh then 64 else 0) + g.stack.length
  else if i < 9 then ctr (if i = 6 then g.lc0 else if i = 7 then g.lc1 else g.lc2)
  else if i = 9 then g.fpxNV.toNat
  else if i = 10 then g.fpxDZ.toNat
  else if i = 11 then g.fpxOF.toNat
  else if i = 12 then g.fpxUF.toNat
  else if i = 13 then g.fpxNX.toNat
  else if i = 14 then g.sig.toNat
  else if i = 15 then g.trapCause.toNat
  else if i = 16 then g.trapPc.toNat
  else if i = 17 then g.trapVal.toNat
  else if i = 18 then 2 ^ 16
  else if i = 19 then g.ghold.toNat
  else if i < 32 then 0
  else if i < 48 then (g.readSn (i - 32)).toNat
  else if i < 112 then
    match g.stack.reverse[(i - 48) / 2]? with
    | some e =>
      if i % 2 = 0 then (if e.path then 2 ^ 63 else 0) + bits e.fmt 35 32 * 2 ^ 56 + bits e.pc 55 0
      else e.mask.toNat * 2 ^ 32 + bits e.fmt 31 0
    | none => 0
  else if i < 118 then nest (if i < 114 then g.lc0 else if i < 116 then g.lc1 else g.lc2) (i % 2 = 1)
  else 0

/-- A byte of the area of a group of a block that the hardware dumps (R88, R89, R367): header, vector registers, predicates
and carry, GANG and MDATA. -/
def dumpedByte (g : Group) (b : Block) (o : Nat) : Byte :=
  let vecs := 8192 * b.vregs
  if o < 1024 then byteOf (dw (dumpedDword g (o / 8))) (o % 8)
  else if o < 1024 + vecs then byteOf (agetD g.vregs ((o - 1024) / 8) 0) (o % 8)
  else
    let p := o - 1024 - vecs
    if p < 480 then agetD g.preds p 0
    else if p < 488 then byteOf g.gang (p - 480)
    else if p < 496 then byteOf g.mdata (p - 488)
    else 0

/-- R65, R150, R178, R182: a carry sweep leaves the accumulator's value; the updates buffered in a line merge at home
when the line leaves the cache; a pending result lands and its promise stands; writes posted to a peer are performed
when it acknowledges them, which it does not while traffic to it is held. R90, R77: 200 µs after the request to
pre-empt its block a group that runs is dumped to its save slot, in the layout of R88 and R89, unless its cluster is
lost: then it halts with CLUSTER_LOST (R396); a block whose groups are all saved or ended is saved and leaves its
core, and the last saved block of a SAVING context makes it DEFINED. That posted writes are performed with the
acknowledgement (log 58), which save slot is taken (log 17), that a landed result stays promised (log 15), that an
event not taken changes nothing (log 53) and that the timer acts once the clock has reached its deadline (log 52) are
the model's choices. -/
def Obligations.GroupLandingsAndSaves : Prop :=
  ((∀ s blk la k b, aget s.blocks blk = some b → b.st = .placed → k ≤ 8 → ahas b.las la = true →
     let x := agetD b.las la LA.zero
     ∃ y, exec (.carrySweep blk la k) s = .next { s with
         blocks := aset s.blocks blk { b with las := asetD b.las la y LA.zero } }
       ∧ y.n = x.n ∧ (y.ovf, y.nan, y.pinf, y.ninf, y.invalid, y.inUse, y.dirty, y.bad)
         = (x.ovf, x.nan, x.pinf, x.ninf, x.invalid, x.inUse, x.dirty, x.bad))
   ∧ (∀ s key line,
     let here (u : Upd) : Prop := u.key = key ∧ u.pa / 128 = line / 128
     ((∀ u ∈ s.upd, ¬here u) → exec (.updateLineEviction key line) s = .next s)
     ∧ ∀ l u r, s.upd = l ++ u :: r → here u → (∀ v ∈ l ++ r, ¬here v) → Mergeable s u →
       ∃ t, exec (.updateLineEviction key line) s = .next t
         ∧ t = { s with mem := t.mem, dir := t.dir, upd := l ++ r } ∧ MergedAtHome s t [u])
   ∧ (∀ s k idx g b p, aget s.groups k = some g → aget s.blocks g.blk = some b → g.pend[idx]? = some p → p.landed = false →
     p.left ≠ 0 → (∀ x ∈ g.pend, x.landed = true → x.left ≠ 0) →
     aRising p.vw = true → aRising p.sw = true → aRising p.pw = true →
     ∃ new, exec (.pendingResultComplete k idx) s
         = .next (setBlock (setGroup s k new) g.blk { b with las := landLas b.las p.lw })
       ∧ (∀ n, agetD new.vregs n 0 = (aget p.vw n).getD (agetD g.vregs n 0))
       ∧ (∀ n, agetD new.sregs n 0 = (aget p.sw n).getD (agetD g.sregs n 0))
       ∧ (∀ n, agetD new.preds n 0 = (aget p.pw n).getD (agetD g.preds n 0))
       ∧ new.pend = g.pend.set idx { p with landed := true, vw := [], sw := [], pw := [], lw := [] }
       ∧ { new with vregs := g.vregs, sregs := g.sregs, preds := g.preds, pend := g.pend } = g)
   ∧ ∀ s peer l w r, s.posted = l ++ w :: r → w.peer = peer → (∀ x ∈ l ++ r, x.peer ≠ peer) → 2 ^ 39 ≤ w.pa →
     (wayTo s w.part w.pa ≠ .free → exec (.postedWriteAcknowledgement peer) s = .next s)
     ∧ (wayTo s w.part w.pa = .free →
       ∃ t, exec (.postedWriteAcknowledgement peer) s = .next t ∧ t = { s with mem := t.mem, posted := l ++ r }
       ∧ (∀ i < w.data.length, readByte t 0 (w.pa + i) = (w.data[i]?).getD 0)
       ∧ ∀ key pa, (∀ i < w.data.length, memKey key pa ≠ w.pa + i) → readByte t key pa = readByte s key pa))
  ∧ ((∀ s k g b t, aget s.groups k = some g → aget s.blocks g.blk = some b → b.pre = some t →
       let at_ := max s.clock (t + 500000)
       let taken := g.st = .running ∧ g.nopre = none ∧ g.fenceAt = none ∧ g.inRoutine = false
       let aborted := ∃ x, aget s.clusters b.clu = some x ∧ x.aborted = true
       (taken → ¬aborted → ∃ u h, exec (.preemptFallback k) s = .next u ∧ u.clock = at_ ∧ aget u.groups k = some h ∧ h.st = .saved
         ∧ h.kind = .dump ∧ h.pend = [] ∧ h.vregs = [] ∧ h.sregs = [] ∧ h.preds = []
         ∧ (s.upd = [] → s.posted = [] → ∀ o, o ≠ k → aget u.groups o = aget s.groups o)
         ∧ (aRising s.groups = true → ∀ o, o ≠ k → Woken (aget s.groups o) (aget u.groups o)))
       ∧ (taken → ¬aborted → g.pend = [] → g.regBad = [] → aRising g.vregs = true → aRising g.preds = true → g.stack.length ≤ 32 →
         Calm s → (∀ c ∈ s.mem, c.1 % 2 ^ 52 < 2 ^ 51) → ∀ a n, b.saveAt = some (a, n) →
         let size := 1536 + 8192 * b.vregs
         let va := (ctxOf s b.ctx).saveBase.toNat + 4096 * a + 256 + g.idx * size
         (∀ o < size, ∃ w, walk s b.ctx (va + o) = some w ∧ paKind w.pa = .hbm ∧ wayTo s (partOfDie s (b.core / 40)) w.pa = .free
           ∧ inTables w.pa = false ∧ inError s w.pa 1 = false ∧ Takes s w.pa evNcwr ∧ Answers s w.pa evRecl) →
         (∀ o < size, ∀ p < size, o ≠ p → keyOf s b.ctx (va + o) ≠ keyOf s b.ctx (va + p)) →
         ∃ u, exec (.preemptFallback k) s = .next u
           ∧ (∀ o < size, ∀ w, walk s b.ctx (va + o) = some w → readByte u w.key w.pa = dumpedByte g b o)
           ∧ ∀ key pa, (∀ o < size, memKey key pa ≠ keyOf s b.ctx (va + o)) → readByte u key pa = readByte s key pa)
       ∧ (taken → aborted → ∃ u, exec (.preemptFallback k) s = .next u
         ∧ ∀ h, aget u.groups k = some h → h.st = .halted ∧ TrapSet h .clusterLost g.trapVal g.pc)
       ∧ (¬taken → exec (.preemptFallback k) s = .next { s with clock := at_ }))
     ∧ ∀ s k x c, aget s.blocks k = some x → x.pre.isSome = true → x.st = .placed → blockQuiet s k = true → s.draining = [] →
       x.regions = [] → aget s.ctxs x.ctx = some c →
       ∃ t y d, exec (.blockSave k) s = .next t ∧ aget t.blocks k = some y
         ∧ (s.upd = [] → s.posted = [] → t.groups = s.groups) ∧ (aRising s.groups = true → ∀ o, Woken (aget s.groups o) (aget t.groups o))
         ∧ { y with st := x.st, pre := x.pre, spad := x.spad, spadBad := x.spadBad, everSaved := x.everSaved, las := x.las } = x
         ∧ (y.st, y.pre, y.spad, y.everSaved) = (.saved, none, [], true)
         ∧ (∀ a ∈ y.las, a.2.dirty = false) ∧ (∀ o, o ≠ k → aget t.blocks o = aget s.blocks o)
         ∧ aget t.ctxs x.ctx = some d
         ∧ (aRising s.blocks = true → c.st = .saving → (∀ e ∈ s.blocks, e.1 ≠ k → e.2.ctx ≠ x.ctx ∨ e.2.st = .saved) →
             d.st = .defined ∧ d.held = (c.held || c.why == .suspend)))

/-- R202, R204, R208, R209, R210, R211: a request to one quarter, an eviction classified by the directory, is held
where its entry carries WAIT. Else the entry is applied: into a state that waits for acknowledgements, where a request
that met a stable state is staged; or into a stable state, with the holders the entry names once its acknowledgements
have arrived, its data in memory and a host's read answered. Where it carries ERR the data is discarded, a store or an
update counted, and a host's request aborted. An acknowledgement with RPLY presents the staged request again. An
ill-formed request is never issued. A write-through of several quarters stores its bytes in one step. A host's access
that has no room in a book waits, its read of poison is refused, and before it reads an update buffered for what it
reads has merged (R178); without power none is served (R25). How a request waits for acknowledgements is the model's
staging (log 36), the refusal of poison (log 71), the pieces of a wide access (log 20) and that an ill-formed request
changes nothing (log 53) its choices. -/
def Obligations.CoherenceRequests : Prop :=
  (∀ i ev0 ev r s q, requests i = some (ev0, r) → OneQuarter r q → Classified s r q ev0 ev → (14 ≤ ev0 → HostQuiet s r ev0) →
    let t := protoTable s q
    let d := dirAt s r.key q
    let e := CohTable.at t d.st ev
    let ok := !e.has 25
    let s0 := if ok then s else turnedAway s q ev0
    let back (x : State) : State := if e.has 18 then flushLine x r.key (q / 128 * 128) else x
    let put (on : Bool) (x : State) : State := if ok && on then homePayload x r else x
    let answer (x : State) : State := if ok && ev == 14 && (e.has 11 || e.has 16)
      then { x with ncOut := x.ncOut ++ [some (readRaw x r.key (r.line + 4 * r.word) (4 * r.len))] } else x
    (e.has 22 = true → exec i s = .next (setDir s r.key q { d with held := d.held ++ [(ev0, r)] }))
    ∧ (e.has 22 = false → t.isStable e.next = false → ∃ d1, Turned d d1 e r.who ∧ d1.held = d.held
      ∧ d1.iack = ((d.iack && ev != 10) || e.has 10 || e.has 12 || e.has 18) ∧ d1.fack = ((d.fack && ev != 11) || e.has 16)
      ∧ d1.staged = (if t.isStable d.st && ok then some (ev0 + (if e.has 23 then 16 else 0), r) else d.staged)
      ∧ exec i s = .next (put (e.has 13 || e.has 14 || (e.has 23 && !t.isStable d.st)) (back (setDir s0 r.key q d1))))
    ∧ (e.has 22 = false → t.isStable e.next = true → d.staged = none → d.held = [] →
      ∃ d1 d2, Turned d d1 e r.who ∧ Acked t r.who e.acks d1 d2 ∧ Unwaited d2
        ∧ exec i s = .next (answer (put (movesData e) (back (setDir s0 r.key q d2))))))
  ∧ (∀ s r h q c, OneQuarter r q → c < 32 → c % 16 ∉ [3, 4, 5, 8, 9, 14] →
    let t := protoTable s q
    let d := dirAt s r.key q
    let e := CohTable.at t d.st 10
    let e2 := CohTable.at t e.next (c % 16)
    t.isStable d.st = false → d.staged = some (c, h) → d.held = [] → e.has 22 = false → e.has 25 = false → e.has 24 = true →
    e.acks = [] → t.isStable e.next = true → movesData e = false →
    e2.has 22 = false → e2.has 25 = false → e2.has 18 = false → t.isStable e2.next = true →
    ∃ d1 d2 d3, Turned d d1 e r.who ∧ Unwaited d1 ∧ Turned d1 d2 e2 h.who ∧ Acked t h.who e2.acks d2 d3 ∧ Unwaited d3
      ∧ let x := setDir s r.key q d1
        let y := if 16 ≤ c then homePayload x h else x
        let z := setDir y r.key q d3
        exec (.iack r) s = .next (if movesData e2 then homePayload z h else z))
  ∧ (∀ i ev r s, requests i = some (ev, r) → (14 ≤ ev → HostQuiet s r ev) →
    ¬(r.line % 128 = 0 ∧ 1 ≤ r.len ∧ r.word + r.len ≤ 32) ∨ paKind (r.line + 4 * r.word) ≠ .hbm → exec i s = .next s)
  ∧ (∀ s r l, r.load = .bytes l → l.length = 4 * r.len → r.line % 128 = 0 → 1 ≤ r.len → r.word + r.len ≤ 32 →
    let pa := r.line + 4 * r.word
    paKind pa = .hbm → pa / 32 ≠ (pa + 4 * r.len - 1) / 32 → Calm s → Takes s pa evWthr → inError s pa l.length = false →
    (∀ i < l.length, inTables (pa + i) = false) →
    ∃ t, exec (.wthr r) s = .next t ∧ t = { s with mem := t.mem, dir := t.dir, cohErrs := t.cohErrs }
      ∧ (∀ i < l.length, readByte t r.key (pa + i) = (l[i]?).getD 0)
      ∧ ∀ key x, (∀ i < l.length, memKey key x ≠ memKey r.key (pa + i)) → readByte t key x = readByte s key x)
  ∧ ∀ s r, (∀ e ∈ s.dir, e.2.ncwrWaits = false) →
    let pa := r.line + 4 * r.word
    let n := 4 * r.len
    (∀ c, pageLogged s pa = some c → bookFull s (homeDie pa) (agentPieces n pa n).length = true →
      exec (.ncrd r) s = .next s ∧ exec (.ncwr r) s = .next s)
    ∧ (s.shut = true → exec (.ncrd r) s = .next s ∧ exec (.ncwr r) s = .next s)
    ∧ (s.shut = false → pageLogged s pa = none → cohReqOk r = true → inError s pa n = true →
      exec (.ncrd r) s = .next { findErrors s pa n with ncOut := s.ncOut ++ [none] })
    ∧ (s.shut = false → pageLogged s pa = none → cohReqOk r = true → paKind pa = .hbm → inError s pa n = false →
      ∀ l u k, s.upd = l ++ u :: k → u.touches r.key pa n = true → (∀ v ∈ l ++ k, v.touches r.key pa n = false ∧ ¬sameLine u v) →
        Mergeable s u → (∀ w ∈ s.posted, ¬(w.pa < pa + n ∧ pa < w.pa + w.data.length)) →
        ∃ m, m = { s with mem := m.mem, dir := m.dir, groups := m.groups, upd := l ++ k } ∧ MergedAtHome s m [u]
          ∧ exec (.ncrd r) s = exec (.ncrd r) m)

/-- A header dword of a table image (R207). -/
def imgDword (l : List Byte) (i : Nat) : Nat := ofBytes ((l.drop (8 * i)).take 8)

/-- The entry word of a state and an event in a table image (R207). -/
def imgWord (l : List Byte) (st ev : Nat) : Nat := ofBytes ((l.drop (64 + (16 * st + ev) * 4)).take 4)

/-- States of a table image. -/
def imgStates (l : List Byte) : Nat := imgDword l 0 / 2 ^ 32 % 16 + 1

/-- A state of a table image is stable. -/
def ImgStable (l : List Byte) (st : Nat) : Prop := (imgDword l 0).testBit (48 + st)

/-- HOLD of a state of a table image. -/
def imgHold (l : List Byte) (st : Nat) : Nat := imgDword l 1 / 16 ^ st % 16

/-- The states that some chain of entries leads to from state 0 (R212). -/
inductive ImgReached (l : List Byte) : Nat → Prop
  | start : ImgReached l 0
  | next (st ev : Nat) : ImgReached l st → ev < 16 → ImgReached l (imgWord l st ev / 2 ^ 28)

/-- A stable state can be reached in at most n transitions (R212). -/
def ImgSettles (l : List Byte) : Nat → Nat → Prop
  | 0, st => ImgStable l st
  | n + 1, st => ImgStable l st ∨ ∃ ev < 16, ImgSettles l n (imgWord l st ev / 2 ^ 28)

/-- Rule k of R212 holds of the entry of a state and an event; rule 1 is the header's, and rule 6 a state's. That STABLE is
zero in the states that do not exist is the model's reading (log 78). -/
def ImgRule (l : List Byte) (k st ev : Nat) : Prop :=
  let w := imgWord l st ev
  let dest := w / 2 ^ 28
  let grant := w / 2 ^ 26 % 4
  let acts := w / 2 ^ 10 % 2 ^ 16
  let act (b : Nat) : Prop := w.testBit b
  let hold := imgHold l
  let ns := imgStates l
  if k = 1 then
    imgDword l 0 % 2 ^ 32 = 0 ∧ imgDword l 0 / 2 ^ 37 % 2 ^ 11 = 0
      ∧ (∀ i < 6, imgDword l (i + 2) = 0) ∧ (∀ i < 16, if i < ns then hold i ≤ 4 else hold i = 0 ∧ ¬ImgStable l i)
      ∧ ImgStable l 0 ∧ hold 0 = 0
  else if k = 2 then (if st < ns then acts ≠ 0 ∧ dest < ns ∧ w % 2 ^ 10 = 0 else w = 0)
  else if k = 3 then
    st < ns → (act 22 → ¬ImgStable l st ∧ dest = st ∧ grant = 0 ∧ acts = 2 ^ 12) ∧ (act 24 → ImgStable l dest)
  else
    ImgReached l st →
      if k = 4 then (if grant = 2 then hold dest = 2 ∧ (hold st = 0 ∨ (hold st = 2 ∧ act 16)) else hold dest = 2 → ¬act 19)
      else if k = 5 then
        (grant = 1 ∨ grant = 2 → act 11 ∨ act 16) ∧ (grant = 1 → hold dest = 1 ∨ hold dest = 3 ∨ hold dest = 2)
          ∧ (grant = 3 → hold dest = 4) ∧ (grant = 0 → ¬act 19) ∧ (act 25 → grant = 0)
          ∧ (act 11 ∨ act 16 ∨ act 23 ∨ act 14 → act 17)
      else if k = 6 then ImgSettles l 4 st
      else grant = 3 ∨ act 14 → (imgDword l 0).testBit 36

/-- A rule of R212 holds of a whole image. -/
def ImgKeeps (l : List Byte) (k : Nat) : Prop := ∀ st < 16, ∀ ev < 16, ImgRule l k st ev

/-- R205, R206, R212, R216: COH_CHECK and COH_LOAD read a table's 1,088 bytes and complete with the checker's status,
a table that fails being logged: that of the first of the seven rules that does not hold, with a state and an event of
which it does not; COH_LOAD then puts it into its slot, unless a range uses that. RMAP_SET writes its entry, the
quarters whose protocol changes starting in state 0, unless it meets another, leaves the partition's HBM, or names a
slot without a table. -/
def Obligations.CoherenceRecords : Prop :=
  (∀ s q r l, ∀ load : Bool, Head s q (if load then 0x41 else 0x40)
      (fun r => cohImageOk r && (if load then 5 ≤ cohArg r && cohArg r ≤ 7 else cohArg r == 0)) r l → Calm s →
    let i := if load then Instr.cohLoad q else .cohCheck q
    let at_ := (dwd r.dw 1).toNat
    let p := queuePart s q
    let used := ∃ e ∈ s.rmap, e.1 / 64 = p ∧ e.2.pid = cohArg r ∧ e.2.pages ≠ 0
    let m := cohImage ((List.range 1088).map fun j => vByte s 0 (at_ + j))
    (load = true → used → exec i s = .next (finishHead (startHead s q) q 8 0))
    ∧ ((load = true → ¬used) → walk s 0 at_ = none → backingOf (ctxOf s 0) (at_ / 2 ^ 16) = none →
        exec i s = .next (finishHead (startHead s q) q 0x0C 0))
    ∧ ((load = true → ¬used) → spanOpen s q 0 1088 (fun j => at_ + j) false →
      ∃ s2, Served (startHead s q) s2 (readByte s)
        ∧ (∀ n st ev, cohCheckImage m = (n, st, ev) → n ≠ 0 →
            exec i s = .next (finishHead { s2 with log := s2.log ++ [.tableError st ev] } q n 0))
        ∧ ((cohCheckImage m).1 = 0 → exec i s = .next (finishHead
            (if load then { s2 with tables := aset s2.tables (p * 8 + cohArg r) m.table } else s2) q 0 0))))
  ∧ (∀ l : List Byte, l.length = 1088 →
    let c := cohCheckImage (cohImage l)
    (c.1 = 0 ↔ ∀ k, 1 ≤ k → k ≤ 7 → ImgKeeps l k)
    ∧ (∀ k, 1 ≤ k → k ≤ 7 → (c.1 = k ↔ ¬ImgKeeps l k ∧ ∀ j, 1 ≤ j → j < k → ImgKeeps l j))
    ∧ (c.1 ≠ 0 → c.2.1 < 16 ∧ c.2.2 < 16 ∧ ¬ImgRule l c.1 c.2.1 c.2.2))
  ∧ ∀ s q r l, Head s q 0x42 (fun r => zeroBits (dwd r.dw 0) [(63, 14)] && zeroBits (dwd r.dw 1) [(63, 52), (15, 0)]
      && zeroBits (dwd r.dw 2) [(63, 27)] && zeroDwords r 3 6) r l → Calm s →
    let p := queuePart s q
    let key := p * 64 + cohArg r
    let e : RangeE := { base := bits (dwd r.dw 1) 51 16, pages := bits (dwd r.dw 2) 23 0, pid := bits (dwd r.dw 2) 26 24 }
    let meets := ∃ x ∈ s.rmap, x.1 / 64 = p ∧ x.1 ≠ key ∧ x.2.base < e.base + e.pages ∧ e.base < x.2.base + x.2.pages
    let here := e.base + e.pages ≤ 2 ^ 23 ∧ partOfDie s (e.base / 2 ^ 21) = p ∧ partOfDie s ((e.base + e.pages - 1) / 2 ^ 21) = p
    let known := e.pid < 5 ∨ ahas s.tables (p * 8 + e.pid) = true
    let i := Instr.rmapSet q
    (e.pages ≠ 0 → meets → exec i s = .next (finishHead (startHead s q) q 9 0))
    ∧ (e.pages ≠ 0 → ¬meets → ¬here → exec i s = .next (finishHead (startHead s q) q 0x0A 0))
    ∧ (e.pages = 0 ∨ (¬meets ∧ here) → ¬known → exec i s = .next (finishHead (startHead s q) q 0x0B 0))
    ∧ (e.pages = 0 ∨ (¬meets ∧ here) → known → ∃ t, exec i s = .next (finishHead t q 0 0)
      ∧ t.rmap = (if e.pages = 0 then adel s.rmap key else aset s.rmap key e)
      ∧ (∀ d ∈ t.dir, protoId t (d.1 * 32 % 2 ^ 52) = protoId s (d.1 * 32 % 2 ^ 52))
      ∧ t = { startHead s q with rmap := t.rmap, dir := t.dir, cohErrs := t.cohErrs })

/-- R230, R234, R235: PAGE_MAP of one page takes a frame for it, fills it from its source or with zeros, and a walk
then finds it; PAGE_BACK writes or clears a backing entry. Each check that fails has its status. R235, R236, R238,
R239: PAGE_UNMAP of one page zeroes and frees its frame, or defers while regions count on it; PAGE_ATTR replaces its
attributes, and migrates it where its granule changes; the frame of a POISONED page is retired; FRAME_RETIRE retires
free frames, marks a pinned one, and migrates the page of any other, or defers it. A page that is missing, pinned or
busy has its status. The order of a page record's checks is the model's reading (log 44). -/
def Obligations.PageRecords : Prop :=
  ((∀ s q r l, Head s q 0x50 (fun r => pageOk r false true false) r l →
     let i := Instr.pageMap q
     let c := pgCtx r
     let v := pgVpn r
     let src := pgSrc r
     let s1 := startHead s q
     (aget s.ctxs c = none → exec i s = .next (finishHead s1 q 5 0))
     ∧ ((aget s.ctxs c).isSome = true → pgAper r = false → src ≠ 0 → srcOk s src (pgCount r * pgBytes r) 65536 = false →
         exec i s = .next (finishHead s1 q 6 0))
     ∧ ((aget s.ctxs c).isSome = true → pgAper r = false → src = 0 → mappedIn s c v (pgCount r * spanOf (pgLarge r)) = true →
         exec i s = .next (finishHead s1 q 2 0))
     ∧ (onePage r → (aget s.ctxs c).isSome = true → mappedIn s c v 1 = false →
         (src = 0 ∨ (srcOk s src 65536 65536 = true ∧ farStatus s (queuePart s q) src = .ok [])) → chainRoom s c v 1 = true →
         (takeFrame s (queuePart s q) (pgDie r) (((diesOf s (queuePart s q)).head?).getD 0) false = none →
           exec i s = .next (finishHead s1 q 0x82 0))
         ∧ ∀ id, takeFrame s (queuePart s q) (pgDie r) (((diesOf s (queuePart s q)).head?).getD 0) false = some id →
           ∃ t f, exec i s = .next (finishHead t q 0 0) ∧ aget t.frames id = some f
             ∧ (f.vpn, f.ctx, f.key, f.st, f.perm, f.gran) = (v, c, (ctxOf s c).keySlot, .resident, pgPerm r, pgGran r)
             ∧ (f.reduce, f.accum, f.observed) = (bit (dwd r.dw 0) 25, bit (dwd r.dw 0) 26, bit (dwd r.dw 0) 27)
             ∧ (f.large, f.pincnt, f.rcnt) = (false, 0, 0) ∧ (∀ k, k ≠ id → aget t.frames k = aget s.frames k)
             ∧ (∀ o < 65536, ∃ w, walk t c (v * 65536 + o) = some w ∧ w.pa = id * 65536 + o ∧ w.key = f.key
                 ∧ w.perm = pgPerm r ∧ w.entry = id)
             ∧ (src = 0 → zeroFrame t id)
             ∧ (src ≠ 0 → s.posted = [] → Memory.wf s.mem → ∀ o < 65536,
                 readByte t f.key (id * 65536 + o) = readByte s 0 (src + o))))
   ∧ ∀ s q r l, Head s q 0x53 (fun r => pageOk r true false true) r l →
     let i := Instr.pageBack q
     let c := pgCtx r
     let k := bits (dwd r.dw 3) 5 0
     let n := pgCount r * spanOf (pgLarge r)
     let clash := ∃ e ∈ (ctxOf s c).backing, e.1 ≠ k ∧ e.2.vpn < pgVpn r + n ∧ pgVpn r < e.2.vpn + e.2.count * spanOf e.2.large
     let sound := n = 0 ∨ pgSrc r = 0 ∨ srcOk s (pgSrc r) (n * 65536) 65536 = true
     let s1 := startHead s q
     let b : Backing := { vpn := pgVpn r, count := pgCount r, large := pgLarge r, src := pgSrc r, gran := pgGran r
                          perm := pgPerm r, attr := pgAttr r, die := pgDie r }
     (aget s.ctxs c = none → exec i s = .next (finishHead s1 q 5 0))
     ∧ ((aget s.ctxs c).isSome = true → ¬sound → exec i s = .next (finishHead s1 q 6 0))
     ∧ ((aget s.ctxs c).isSome = true → sound → n ≠ 0 → clash → exec i s = .next (finishHead s1 q 9 0))
     ∧ ((aget s.ctxs c).isSome = true → sound → n = 0 ∨ ¬clash → exec i s = .next (finishHead { s1 with
         ctxs := amod s1.ctxs c fun x => { x with backing := if n = 0 then adel x.backing k else aset x.backing k b } } q 0 0)))
  ∧ ((∀ s q r l, Head s q 0x51 (fun r => pageOk r false false false) r l → r.work = 0 → onePage r → pgSrc r = 0 →
       let i := Instr.pageUnmap q
       let c := pgCtx r
       let s1 := startHead s q
       steadyHealth s →
       (aget s.ctxs c = none → exec i s = .next (finishHead s1 q 5 0))
       ∧ ((aget s.ctxs c).isSome = true → pageLink s (queuePart s q) c (pgVpn r) false = none →
           exec i s = .next (finishHead s1 q 3 0))
       ∧ ∀ k f, (aget s.ctxs c).isSome = true → pageLink s (queuePart s q) c (pgVpn r) false = some k → linkAper k = false →
         let id := linkKey k
         aget s.frames id = some f → f.large = false → f.st ≠ .requested →
         (f.pincnt ≠ 0 → exec i s = .next (finishHead s1 q 4 0))
         ∧ (f.pincnt = 0 → f.st = .resident ∨ f.st = .poisoned → aget s.pageOps id = none → f.rcnt ≠ 0 →
           exec i s = .next (setWork { s1 with
             frames := amod s1.frames id fun f => { f with st := if f.bad then f.st else .deferred },
             pageOps := aset s1.pageOps id (.deferUnmap 0 (some q)) } q 1))
         ∧ (f.pincnt = 0 → f.st = .poisoned → f.bad = true → aget s.pageOps id = none → f.rcnt = 0 → plainFrame id → Calm s →
           steadyHealth (retireFrame s id) →
           ∃ t, exec i s = .next (finishHead t q 0 0) ∧ (aget t.frames id).map Frame.st = some .retired ∧ zeroFrame t id)
         ∧ (f.pincnt = 0 → f.st = .resident → f.bad = false → aget s.pageOps id = none → aget s.pageOps (2 ^ 24 + id) = none →
           f.rcnt = 0 → plainFrame id → Calm s →
           ∃ t, exec i s = .next (finishHead t q 0 0) ∧ aget t.frames id = none ∧ zeroFrame t id
             ∧ (∀ n, n ≠ id → (aget t.frames n).map unlinked = (aget s.frames n).map unlinked)
             ∧ ∀ key pa, pa < 2 ^ 52 → pa / 65536 ≠ id → inTables pa = false → readByte t key pa = readByte s key pa))
     ∧ (∀ s q r l, Head s q 0x52 (fun r => pageOk r false false false) r l → r.work = 0 → onePage r →
       let i := Instr.pageAttr q
       let c := pgCtx r
       let s1 := startHead s q
       (aget s.ctxs c = none → exec i s = .next (finishHead s1 q 5 0))
       ∧ ((aget s.ctxs c).isSome = true → pageLink s (queuePart s q) c (pgVpn r) false = none →
           exec i s = .next (finishHead s1 q 3 0))
       ∧ ∀ k f, (aget s.ctxs c).isSome = true → pageLink s (queuePart s q) c (pgVpn r) false = some k → linkAper k = false →
         let id := linkKey k
         let new (f : Frame) : Frame := { f with
           perm := pgPerm r, reduce := bit (dwd r.dw 0) 25, accum := bit (dwd r.dw 0) 26, observed := bit (dwd r.dw 0) 27 }
         aget s.frames id = some f → f.large = false → f.st ≠ .requested →
         (f.pincnt ≠ 0 → exec i s = .next (finishHead s1 q 4 0))
         ∧ (f.pincnt = 0 → f.rcnt ≠ 0 ∨ f.st = .migrating ∨ f.st = .deferred → exec i s = .next (finishHead s1 q 8 0))
         ∧ (f.pincnt = 0 → f.rcnt = 0 → f.st = .resident → Calm s →
           (f.gran = pgGran r → exec i s = .next (finishHead { s1 with frames := amod s1.frames id new } q 0 0))
           ∧ (f.gran ≠ pgGran r → moveFrame s id none false = none → exec i s = .next (finishHead s1 q 0x82 0))
           ∧ ∀ dst, f.gran ≠ pgGran r → moveFrame s id none false = some dst → ∃ t, exec i s = .next t
             ∧ aget t.frames id = some { f with st := .migrating }
             ∧ aget t.pageOps id = some (.migrate dst (pgGran r) (some q) [])
             ∧ (queueRecs t q).head?.map QRec.work = some 1))
     ∧ (∀ s q r l, Head s q 0x54 (retireOk s q) r l → r.work = 0 → (∀ id ∈ retireIds r, frameFree s id = true) →
       steadyHealth (retireFrames s (retireIds r)) →
       exec (.frameRetire q) s = .next (finishHead (retireFrames (startHead s q) (retireIds r)) q 0 0))
     ∧ ∀ s q r l, Head s q 0x54 (retireOk s q) r l → r.work = 0 → pgCount r = 1 → pgLarge r = false →
       let i := Instr.frameRetire q
       let id := (dwd r.dw 1).toNat / 65536
       let s1 := startHead s q
       (reservedFrame id = true → steadyHealth s → exec i s = .next (finishHead s1 q 0 0))
       ∧ ∀ f, reservedFrame id = false → aget s.frames id = some f → f.st ≠ .requested → f.st ≠ .retired →
         (f.pincnt ≠ 0 → exec i s = .next (finishHead { s1 with pageOps := aset s1.pageOps (2 ^ 24 + id) .retireMark } q 4 0))
         ∧ (f.pincnt = 0 → f.st = .migrating ∨ (f.large = false ∧ ahas s.pageOps id = true) → exec i s = .next (finishHead s1 q 8 0))
         ∧ (f.pincnt = 0 → f.st = .resident → f.large = false → aget s.pageOps id = none → f.rcnt ≠ 0 → steadyHealth s →
           exec i s = .next (setWork { s1 with
             frames := amod s1.frames id fun f => { f with st := if f.bad then f.st else .deferred },
             pageOps := aset s1.pageOps id (.deferMigrate none f.gran (some q) [id]) } q 1))
         ∧ (f.pincnt = 0 → f.st = .resident → f.large = false → aget s.pageOps id = none → f.rcnt = 0 → steadyHealth s → Calm s →
           (moveFrame s id none false = none → exec i s = .next (finishHead s1 q 0x82 0))
           ∧ ∀ dst, moveFrame s id none false = some dst → ∃ t, exec i s = .next t
             ∧ aget t.frames id = some { f with st := .migrating }
             ∧ aget t.pageOps id = some (.migrate dst f.gran (some q) [id])))

/-- R225, R227, R236, R237, R239: a fill ends with its page RESIDENT, or with the page gone and the error logged. A
migration ends with the page in its new frame, byte for byte, the old one zero and free, and that of a POISONED page
retired; one that PAGE_ATTR began brings its attributes then. A source error poisons the page, a destination error
retires the frame, and the page stays where it was. A shootdown performs every buffered update of its page. That a far
page's frame waits while traffic to its module is held (log 47), and that such an event then changes nothing (log 53),
are the model's choices. -/
def Obligations.PageEngine : Prop :=
  (∀ s id ok src f, aget s.pageOps id = some (.fill src) → aget s.frames id = some f → f.large = false → plainFrame id →
    let far := if src = 0 then .ok [] else farStatus s (partOfDie s (id / 2 ^ 21)) src
    (far = .wait → exec (.pageFillComplete id ok) s = .next s)
    ∧ (ok = true → far = .ok [] → ∃ t, exec (.pageFillComplete id ok) s = .next t
      ∧ aget t.frames id = some { f with st := .resident } ∧ t.pageOps = adel s.pageOps id ∧ t.log = s.log
      ∧ (∀ k, k ≠ id → aget t.frames k = aget s.frames k)
      ∧ (src = 0 → zeroFrame t id)
      ∧ (2 ^ 39 ≤ src → src < 2 ^ 52 - 65536 → s.posted = [] → Memory.wf s.mem → ∀ o < 65536,
          readByte t f.key (id * 65536 + o) = readByte s 0 (src + o)))
    ∧ ((ok = false ∧ far = .ok []) ∨ (∃ e, far = .err e) → ∃ t, exec (.pageFillComplete id ok) s = .next t
      ∧ aget t.frames id = none ∧ t.pageOps = adel s.pageOps id ∧ t.log = s.log ++ [.fillError id] ∧ t.mem = s.mem))
  ∧ (∀ s id dst gran who f res, aget s.pageOps id = some (.migrate dst gran who []) → aget s.frames id = some f →
    f.large = false → f.st = .migrating → f.pincnt = 0 → plainFrame id → plainFrame dst → dst ≠ id → steadyHealth s →
    let i := Instr.migrationComplete id res
    (res = .ok → dst ∉ s.failing → f.bad = false → pageInError s id false = false → ∃ t g, exec i s = .next (pageDone t who 0)
      ∧ aget t.frames id = none ∧ t.pageOps = adel s.pageOps id
      ∧ (aget t.frames dst).map unlinked = some (unlinked { g with st := .resident, gran := gran })
      ∧ ((∀ q r l, who = some q → queueRecs s q = r :: l → recType r ≠ 0x52) → g = f)
      ∧ (∀ q r l, who = some q → queueRecs s q = r :: l → recType r = 0x52 → g = { f with
          perm := pgPerm r, reduce := bit (dwd r.dw 0) 25, accum := bit (dwd r.dw 0) 26, observed := bit (dwd r.dw 0) 27 })
      ∧ zeroFrame t id
      ∧ (Memory.wf s.mem → ∀ o < 65536, readByte t f.key (dst * 65536 + o) = readByte s f.key (id * 65536 + o))
      ∧ ∀ key pa, pa < 2 ^ 52 → pa / 65536 ≠ id → pa / 65536 ≠ dst → inTables pa = false → readByte t key pa = readByte s key pa)
    ∧ (res = .ok → dst ∉ s.failing → f.bad = true → pageInError s id false = false → steadyHealth (retireFrame s id) →
      ∃ t, exec i s = .next (pageDone t who 0) ∧ (aget t.frames dst).map Frame.st = some .poisoned
        ∧ (aget t.frames id).map Frame.st = some .retired ∧ zeroFrame t id)
    ∧ (res = .destError ∨ (res = .ok ∧ dst ∈ s.failing) → pageInError s id false = false → steadyHealth (retireFrame s dst) →
      ∃ t, exec i s = .next (pageDone t who 0x84)
      ∧ aget t.frames id = some { f with st := if f.bad then .poisoned else .resident } ∧ (aget t.frames dst).map Frame.st = some .retired
      ∧ t.pageOps = adel s.pageOps id ∧ t.mem = s.mem)
    ∧ (res = .sourceError ∨ pageInError s id false = true → ∃ t, exec i s = .next (pageDone t who 0x83)
      ∧ aget t.frames id = some { f with st := .poisoned, bad := true } ∧ t.pageOps = adel s.pageOps id ∧ t.mem = s.mem))
  ∧ ∀ s id, ∃ t, exec (.shootdownComplete id) s = .next t ∧ (s.upd = [] → t = s)
    ∧ (∀ f, aget s.frames id = some f → f.large = false → plainFrame id → (∀ u ∈ s.upd, u.pa % 65536 + u.size ≤ 65536) →
      ∀ u, u ∈ t.upd ↔ u ∈ s.upd ∧ u.pa / 65536 ≠ id)
    ∧ (∀ f, aget s.frames id = some f → f.large = false → plainFrame id →
      let mine := s.upd.filter fun u => u.pa / 65536 == id
      (∀ u ∈ mine, Mergeable s u) → mine.Pairwise (fun u v => ¬sameLine u v) →
      (∀ u ∈ mine, ∀ v ∈ s.upd, v.pa / 65536 ≠ id → ¬sameLine u v) →
      MergedAtHome s t mine)
    ∧ t = { s with
      mem := t.mem, bad := t.bad, latent := t.latent, frames := t.frames, dir := t.dir, upd := t.upd, lostUpd := t.lostUpd
      lostPeers := t.lostPeers, posted := t.posted, groups := t.groups
      cohErrs := t.cohErrs, books := t.books, log := t.log, ncOut := t.ncOut }
    ∧ (aRising s.groups = true → ∀ k, Woken (aget s.groups k) (aget t.groups k))

/-- R373 to R377, R399: the states of a UALink port. Each transition sets STATE, WIDTH and the counters as R375 names
them, sends an update where its action says so, and starts drain rounds for a port that is lost. A PCIe port follows
its link. R370, R372, R376, R377: a newer link-state update sets what this module knows of a port of another, one that
is not newer is dropped; drain rounds follow one another, and after the third writes posted to a peer out of reach are
lost. A request of another module is performed at home on the partition of its port, or answered with an abort, a read
or RMW of poison too; an update has no answer. Which updates are sent and which drain rounds start follows the model's
reading (log 47), as do the width of a port that is not trained (log 48), the answer to a peer (log 56), what SPLIT
refuses (log 66), an event that does not fit (log 53) and the clock of the timers (log 52). -/
def Obligations.Links : Prop :=
  ((∀ s n p w, s.uports[n]? = some p → 1 ≤ w ∧ w ≤ 3 →
     let up (b : Bool) : Port := { p with
       st := if w = 3 then .up else .degraded, width := w, swr := b, everUp := p.everUp || w == 3, fails := 0, since := s.clock }
     (p.st = .training → ∃ b on, floods s n on ∧ exec (.linkTrained n w) s = .next (told s n (up b) on))
     ∧ (p.st = .retraining → s.clock ≤ p.since + 2500000 → ∃ b on, floods s n on ∧ exec (.retrainComplete n w) s
         = .next (if w = 3 ∧ p.wasWidth = 3 then withPort s n (up b) else told s n (up b) on)))
   ∧ (∀ s n p, s.uports[n]? = some p →
     let dead (at_ : Nat) : Port := { p with st := .dead, fails := p.fails + 1, width := 0, since := at_ }
     (p.st = .training →
       let s1 := { s with clock := max s.clock (p.since + 250000000) }
       ∃ t, exec (.trainingTimeout n) s = .next t ∧ (p.everUp = true → Lost s1 t n (dead s1.clock))
         ∧ (p.everUp = false → t = { withPort s1 n (dead s1.clock) with rounds := t.rounds, collOut := t.collOut }))
     ∧ (p.st = .up ∨ p.st = .degraded → exec (.linkRetrain n) s = .next (withPort s n { p with
         st := .retraining, wasWidth := p.width, width := 0, retrains := min 65535 (p.retrains + 1), since := s.clock }))
     ∧ (p.st = .retraining →
       let s1 := { s with clock := max s.clock (p.since + 2500000) }
       ∃ t, exec (.retrainTimeout n) s = .next t ∧ Lost s1 t n (dead s1.clock))
     ∧ (p.st = .dead → p.fails < 16 →
       let s1 := { s with clock := max s.clock (p.since + 2500000000) }
       exec (.deadRetry n) s = .next (withPort s1 n { p with st := .training, since := s1.clock }))
     ∧ (p.st = .dead → 16 ≤ p.fails → ∃ t, exec (.deadRetry n) s = .next (settleHealth t)
       ∧ t = { withPort s n { p with st := .isolated, width := 0, since := s.clock } with
           rounds := t.rounds, collOut := t.collOut })
     ∧ (p.st ≠ .down ∧ p.st ≠ .isolated → ∃ t, exec (.linkDisable n) s = .next (settleHealth t)
       ∧ Lost s t n { p with st := .isolated, width := 0, since := s.clock })
     ∧ (p.st = .isolated → exec (.linkEnable n) s = .next (withPort s n { p with st := .training, fails := 0, since := s.clock })))
   ∧ ∀ s n p code st w, s.pports[n]? = some p → n < 2 → [LinkSt.down, .training, .up, .degraded, .retraining][code]? = some st → w ≤ 5 →
     let carries := st = .up ∨ st = .degraded
     (carries → w < 3 → exec (.pcieLinkChange n code w) s = .next s)
     ∧ ((carries → 3 ≤ w) → exec (.pcieLinkChange n code w) s = .next { s with pports := s.pports.set n { p with
         st := st, width := if st = .up ∨ st = .degraded then w else 0, since := s.clock
         retrains := if st = .retraining ∧ p.st ≠ .retraining then min 65535 (p.retrains + 1) else p.retrains } }))
  ∧ ((∀ s origin plane st seq, origin < 512 → plane < 18 → st ≤ 6 → origin ≠ s.podPos →
       let i := Instr.lsuReceived origin plane st seq
       let t := { s with reach := asetD s.reach (origin * 18 + plane) st 0, lastLsu := aset s.lastLsu origin seq }
       (seq ≤ agetD s.lastLsu origin 0 → exec i s = .next s)
       ∧ (agetD s.lastLsu origin 0 < seq → st < 5 → exec i s = .next t)
       ∧ (agetD s.lastLsu origin 0 < seq → 5 ≤ st → ∃ u, exec i s = .next u ∧ u = { t with
           drains := s.drains ++ [⟨plane, 1, s.clock, some origin⟩], rounds := u.rounds, collOut := u.collOut }))
     ∧ (∀ s n l d r, s.drains = l ++ d :: r → d.plane = n → (∀ x ∈ l, x.plane ≠ n) →
       let t := d.since + 250000
       let at_ := max s.clock t
       (d.round < 3 → d ∉ r → exec (.drainRoundEnd n) s = .next { s with
         clock := at_, drains := l ++ { d with round := d.round + 1, since := t } :: r })
       ∧ (3 ≤ d.round → (∀ x ∈ allColls s, (roundsOf s x.1 x.2.1).busy = false) →
         let left (w : Posted) : Bool := decide (wayTo { s with clock := at_, drains := l ++ r } w.part w.pa ≠ .lost)
         exec (.drainRoundEnd n) s = .next { s with
           clock := at_, drains := l ++ r, posted := s.posted.filter left
           lostPeers := s.lostPeers ++ (s.posted.filter fun w => !left w).map fun w => (w.grp, w.peer) }))
     ∧ ∀ s n p src a op, s.uports[n]? = some p → p.st = .up ∨ p.st = .degraded → src < 512 → src ≠ s.podPos → uaOk (a % 2 ^ 39) op = true →
       let pa := a % 2 ^ 39
       let i := Instr.ualinkRequest n src a op
       let answered (t : State) (l : Option (List Byte)) : Prop := t = { s with
         mem := t.mem, dir := t.dir, cohErrs := t.cohErrs, uaOut := s.uaOut ++ [(src, l)] }
       let silent (t : State) : Prop := t = { s with mem := t.mem, dir := t.dir, cohErrs := t.cohErrs }
       (s.part = .split → homeDie pa / 2 ≠ n / 9 → exec i s = .next { s with uaOut := s.uaOut ++ [(src, none)] })
       ∧ ((s.part = .split → homeDie pa / 2 = n / 9) → pageLogged s pa = none → inError s pa (uaLen op) = true →
         (∃ m, op = .read m) ∨ (∃ o wide v c, op = .atomic o wide v c) →
         exec i s = .next { findErrors s pa (uaLen op) with uaOut := s.uaOut ++ [(src, none)] })
       ∧ ((s.part = .split → homeDie pa / 2 = n / 9) → Calm s → pageLogged s pa = none →
         (∀ j < uaLen op, inTables (pa + j) = false) → inError s pa (uaLen op) = false →
         let bytes (m : Nat) : List Byte := (List.range m).map fun j => readByte s 0 (pa + j)
         let same (t : State) : Prop := ∀ key x, (∀ j < uaLen op, memKey key x ≠ memKey 0 (pa + j)) → readByte t key x = readByte s key x
         (∀ m, op = .read m → Answers s pa evNcrd → ∃ t, exec i s = .next t ∧ answered t (some (bytes m))
           ∧ ∀ key x, readByte t key x = readByte s key x)
         ∧ (∀ l, op = .write l → Takes s pa evNcwr → ∃ t, exec i s = .next t ∧ answered t (some []) ∧ same t
           ∧ ∀ j < l.length, readByte t 0 (pa + j) = (l[j]?).getD 0)
         ∧ (∀ o wide v c, op = .atomic o wide v c → Takes s pa evAtom →
           let m := if wide then 4 else 8
           ∃ t x, exec i s = .next t ∧ answered t (some (bytes m)) ∧ same t
             ∧ atomic o (8 * m) (numAt s 0 pa m) (v.toNat % 2 ^ (8 * m)) (c.toNat % 2 ^ (8 * m)) x
             ∧ ∀ j < m, readByte t 0 (pa + j) = BitVec.ofNat 8 (x / 256 ^ j))
         ∧ (∀ o wide v, op = .update o wide v → Takes s pa (updEv s pa) →
           let m := if wide then 4 else 8
           ∃ t x, exec i s = .next t ∧ silent t ∧ same t
             ∧ atomic o (8 * m) (numAt s 0 pa m) (v.toNat % 2 ^ (8 * m)) 0 x
             ∧ ∀ j < m, readByte t 0 (pa + j) = BitVec.ofNat 8 (x / 256 ^ j))
         ∧ ∀ im, op = .cell im → Takes s pa evPutm → ∃ t, exec i s = .next t ∧ silent t ∧ same t
             ∧ ∀ j < 128, readByte t 0 (pa + j) = ((mergeCell (imageAt s 0 pa) im)[j]?).getD 0))

/-- R382 to R385: a close writes its number to CLOSE, takes the contributions of the open round, and sends its
partials to their reducers, its own among them; the last of the partials to come in lets a reducer send the merged
images of its locations and acknowledge; the last acknowledgement ends the round: FLAG is written, and the close
completes. R384, R387, R388: a merged image of a round is written to its location, a cell as it is and an element
rounded, or lands in the accumulator of a block that waits for it; a switch slot sends what it holds to the reducer.
R385, R390: a round whose time is over ends in ERR_TIMEOUT, and one of which a rank's context was destroyed in
ERR_ABORTED; where no round is in progress the next close ends so. A rank that is suspended stops the timer, and one
that resumes gets what was held for it. The messages between modules (log 27), what is discarded (log 28), what a
failed round leaves (log 13), a round whose entry no longer fits (log 76), the close's count of the open round (log
57) and the clock of the timers (log 52) are the model's choices. -/
def Obligations.CollectiveRounds : Prop :=
  ((∀ s c slot r l e x t, Head s (.ep c slot) 0x03 closeOk r l → closeOf s (.ep c slot) r = some (c, e, x) → r.work = 0 → Calm s →
     let q := QRef.ep c slot
     let o := roundsOf s c e
     o.completed = o.closed → o.failed = none → o.suspended = [] → o.selfSuspended = false → o.todo = [] → o.acked = false →
     o.ending = none → o.reduced = o.closed → x.myRank < x.nrank → ¬allIn x o.fin → (∀ k < x.nrank, k ≠ x.myRank → rankGone s x k = false) →
     aget (ctxOf s c).colls e = some x →
     x.close.toNat % 8 = 0 → AgentReaches s q c x.close.toNat 8 true t →
     ∃ s2 read, Served (startHead s q) s2 read ∧ Written s t 8 (byteOf (dw (o.closed + 1))) read
       ∧ let opened := setRounds (setWork s2 q 1) c e { o with
           closed := o.closed + 1, slot := slot, closedC := o.openC, openC := [], failed := none, left := 0, closedAt := s.clock
           due := if x.timeout = 0 then none else some (s.clock + nsClocks (x.timeout * 1000)) }
         (roundFits s c x = true → exec (.collectiveClose q) s = .next (sendPartials opened c e x))
         ∧ (roundFits s c x = false → exec (.collectiveClose q) s = .next (failRound opened c e 0x80)))
   ∧ (∀ s c e x, let r := roundsOf s c e
     x.swred = false → r.suspended = [] → aRising r.closedC = true → r.reduced < r.closed →
     let u := sendPartials s c e x
     let far (loc : Nat) : Bool := reducerOf x (cellAt s c x loc) loc != x.myRank
     u.collOut = s.collOut
         ++ (r.closedC.filter fun p => far p.1).map (fun p => .part c e r.closed p.1 (reducerOf x (cellAt s c x p.1) p.1) p.2.image)
         ++ ((List.range x.nrank).filter (· != x.myRank)).map (fun k => .partsEnd c e r.closed k)
       ∧ (∀ p ∈ r.closedC, far p.1 = false → (agetD r.merged p.1 (0, LA.zero)).1 &&& (1#512 <<< x.myRank) = 0 →
           agetD (roundsOf u c e).merged p.1 (0, LA.zero) = ((agetD r.merged p.1 (0, LA.zero)).1 ||| (1#512 <<< x.myRank),
             (agetD r.merged p.1 (0, LA.zero)).2.merge p.2))
       ∧ u = { s with collOut := u.collOut, rounds := u.rounds })
   ∧ (∀ s c e x r round loc rank mask image, aget (ctxOf s c).colls e = some x → roundsOf s c e = r → r.ending = none →
     r.todo = [] → r.acked = false → (r.completed < r.closed → r.reduced < r.closed) → round = r.reduced + 1 → rank < x.nrank → mask.toNat < 2 ^ x.nrank →
     let i := Instr.partialReceived c e round loc rank mask image
     let m := if mask = 0 then 1#512 <<< rank else mask
     let old := agetD r.merged loc (0, LA.zero)
     (image.length = 128 → locOk s c x loc = true → reducerOf x (cellAt s c x loc) loc = x.myRank → ¬allIn x r.fin →
       let got := if old.1 &&& m ≠ 0 then r else { r with merged := aset r.merged loc (old.1 ||| m, old.2.mergeImage image) }
       exec i s = .next (setRounds s c e
         (if m.getLsbD x.myRank then { got with slots := r.slots.filter (· != loc) } else got)))
     ∧ (image = [] →
       let fin := r.fin ||| mask ||| (1#512 <<< rank)
       (¬allIn x fin → exec i s = .next (setRounds s c e { r with fin := fin }))
       ∧ (allIn x fin → r.reduced < r.closed → r.completed < r.closed → x.rooted = true → x.root ≠ x.myRank → x.root < x.nrank →
         r.suspended = [] → r.slots = [] → ¬allIn x r.acks →
         exec i s = .next { setRounds s c e { r with fin := 0, merged := [], reduced := r.closed, acked := true } with
           collOut := s.collOut ++ r.merged.map (fun p => .merged c e r.closed p.1 x.root p.2.2.image)
             ++ [.mergedEnd c e r.closed x.root]
             ++ ((List.range x.nrank).filter (· != x.myRank)).map fun k => .ack c e r.closed k })))
   ∧ (∀ s c e x r n loc rank mask image, aget (ctxOf s c).colls e = some x → roundsOf s c e = r →
     let i := Instr.partialReceived c e n loc rank mask image
     (n ≤ r.reduced → exec i s = .next s)
     ∧ (r.reduced + 1 < n → rank < x.nrank → mask.toNat < 2 ^ x.nrank →
       image = [] ∨ (image.length = 128 ∧ locOk s c x loc = true ∧ reducerOf x (cellAt s c x loc) loc = x.myRank) →
       exec i s = .next (setRounds s c e { r with early := r.early ++ [⟨n, loc, rank, mask, image⟩] })))
   ∧ (∀ s c e x r round rank, InRound s c e x r → round = r.closed → rank < x.nrank → r.acked = true → r.todo = [] → r.reduced = r.closed →
     let acks := r.acks ||| (1#512 <<< rank)
     (¬allIn x acks → exec (.deliveryAck c e round rank) s = .next (setRounds s c e { r with acks := acks }))
     ∧ (allIn x acks → Calm s → ∃ t, exec (.deliveryAck c e round rank) s = .next t ∧ EndsRound s t c e x r 0)))
  ∧ ((∀ s c e x r loc image, InRound s c e x r → r.selfSuspended = true →
       exec (.mergedImageReceived c e r.closed loc image) s
         = .next (setRounds s c e { r with inbox := r.inbox ++ [⟨r.closed, loc, image⟩] }))
     ∧ (∀ s c e x r loc image, InRound s c e x r → r.selfSuspended = false → receives x x.myRank = true → r.todo = [] → r.acked = false →
       r.reduced = r.closed → ¬allIn x r.deliv → loc ∉ r.written →
       let i := Instr.mergedImageReceived c e r.closed loc image
       let lands := s.blocks.filterMap fun b => (landingLa b.2 c e loc).map fun a => (b.1, a)
       let after := { r with slots := r.slots.filter (· != loc), written := r.written ++ [loc] }
       (∀ t, image.length = 128 → locOk s c x loc = true → x.rooted = true ∨ lands = [] → Calm s →
         let data := locData s c x loc image
         let va := locVa s c x loc
         AgentReaches s (.ep c r.slot) c va data.length true t → paKind t.pa = .hbm → wayTo s (collPart s x) t.pa = .free → va % 65536 + data.length ≤ 65536 →
         ∃ s2 read, exec i s = .next (setRounds s2 c e after) ∧ Served s s2 read
           ∧ Written s t data.length (fun j => (data[j]?).getD 0) read)
       ∧ (∀ k a, image.length = 128 → locOk s c x loc = true → x.rooted = false → lands = [(k, a)] →
         exec i s = .next (setRounds { s with blocks := amod s.blocks k fun b =>
           { b with las := asetD b.las a ((agetD b.las a LA.zero).mergeImage image) LA.zero } } c e after))
       ∧ (image = [] → loc < x.nrank → ¬allIn x (r.deliv ||| (1#512 <<< loc)) →
         exec i s = .next (setRounds s c e { r with deliv := r.deliv ||| (1#512 <<< loc) })))
     ∧ ∀ s c e x r loc, aget (ctxOf s c).colls e = some x → roundsOf s c e = r → loc ∈ r.slots → r.suspended ≠ [] ∨ r.selfSuspended = true →
       let s1 := { s with clock := max s.clock (r.suspAt + 2500000) }
       let left := { r with slots := r.slots.filter (· != loc) }
       r.completed = r.closed ∨ (r.completed < r.closed ∧ r.ending = none ∧ r.todo = [] ∧ r.acked = false ∧ r.reduced = r.closed ∧ ¬allIn x r.deliv
         ∧ receives x x.myRank = true) →
       exec (.slotRelease c e loc) s = .next (setRounds s1 c e left))
  ∧ ((∀ s c e x r i st, Calm s → aget (ctxOf s c).colls e = some x → roundsOf s c e = r →
       (i = .roundTimeout c e ∧ st = 0x85) ∨ (∃ k, i = Instr.abortReceived c e k ∧ st = if k < x.nrank then 0x86 else 0x80) →
       let t0 := max s.clock (r.due.getD 0)
       let s1 := if st = 0x85 then { s with clock := t0 } else s
       (st = 0x85 → r.due.isSome = true) →
       (r.completed = r.closed → r.failed = none → exec i s = .next (setRounds s1 c e
         { r with failed := some st, due := if st = 0x85 then none else r.due }))
       ∧ (InRound s c e x r → receives x x.myRank = false → ∃ t, exec i s = .next t ∧ EndsRound s1 t c e x
           { r with merged := if r.reduced < r.closed then [] else r.merged, fin := if r.reduced < r.closed then 0 else r.fin, inbox := [] } st))
     ∧ ∀ s c e x r k, aget (ctxOf s c).colls e = some x → roundsOf s c e = r → k < x.nrank →
       (k ∈ r.suspended → exec (.suspendReceived c e k) s = .next s)
       ∧ (k ∉ r.suspended → exec (.suspendReceived c e k) s = .next (setRounds s c e { r with
           due := none, left := (match r.due with
             | some t => t - s.clock + 1
             | none => r.left)
           suspended := r.suspended ++ [k], suspAt := s.clock }))
       ∧ (k ∈ r.suspended → ∃ y, exec (.resumeReceived c e k) s = .next { setRounds s c e y with
           collOut := s.collOut ++ r.heldOut.filter fun m => m.to == some k }
         ∧ y.suspended = r.suspended.filter (· != k) ∧ y.heldOut = r.heldOut.filter (fun m => m.to != some k)
         ∧ (y.suspended = [] → r.selfSuspended = false → r.left ≠ 0 → y.due = some (s.clock + (r.left - 1)) ∧ y.left = 0)
         ∧ (y.suspended ≠ [] ∨ r.left = 0 → y.due = r.due ∧ y.left = r.left)))

/-- R399, R401, R402: HEALTH_QUERY writes its report; REHEARSAL_CFG sets the schedule; a rehearsal takes a core that
is not gone, one at a time on a die, is skipped after 10 s where the core stays busy, and ends with the self-test,
whose failure retires the core. The health state moves only toward FAILED. R16, R129, R396, R402: CORE_RETIRE retires
an idle core at once, and drains a busy one; a core that is gone is refused. A withdrawn core is retired, the groups
of its clusters take CLUSTER_LOST, and those on it halt. That the rehearsal of a core that is gone is skipped (log
30), and that its timers act once the clock has reached their deadlines (log 52), are the model's choices. -/
def Obligations.CoreHealth : Prop :=
  ((∀ s q r l, Head s q 0x60 (fun r => zeroBits (dwd r.dw 0) [(63, 8)] && addrOk (dwd r.dw 1) && (dwd r.dw 1).toNat % 64 == 0
       && zeroDwords r 2 6) r l → Calm s →
     let c := queueCtx s q
     let dst (j : Nat) : Nat := (dwd r.dw 1).toNat + j
     spanOpen s q c 128 dst true → ∃ s2 read, exec (.healthQuery q) s = .next (finishHead s2 q 0 0)
       ∧ Served (startHead s q) s2 read ∧ Placed s c 128 dst (fun j => byteOf (reportDword s (queueDie s q) (j / 8)) (j % 8)) read)
   ∧ (∀ s q r l, Head s q 0x63 (fun r => zeroBits (dwd r.dw 0) [(63, 9)] && zeroDwords r 1 6) r l →
     exec (.rehearsalCfg q) s = .next (finishHead { startHead s q with rehearseOn := bit (dwd r.dw 0) 8 } q 0 0))
   ∧ (∀ s q r l, Head s q 0x61 (coreRecOk s q) r l → r.work = 0 →
     let core := recCore r
     (coreGone s core = true → exec (.rehearse q) s = .next (finishHead (startHead s q) q 1 0))
     ∧ (coreGone s core = false → (∃ e ∈ s.rehearsing, e.1 / 40 = core / 40) → exec (.rehearse q) s = .next (startHead s q))
     ∧ (coreGone s core = false → (∀ e ∈ s.rehearsing, e.1 / 40 ≠ core / 40) → ∃ t, exec (.rehearse q) s = .next t
       ∧ Begins (setWork (startHead s q) q 1) t core (some q)))
   ∧ (∀ s core, s.rehearseOn = true → core < 160 → coreGone s core = false → (∀ e ∈ s.rehearsing, e.1 / 40 ≠ core / 40) →
     let last := match aget s.rehearseLast (core / 40) with
       | some t => t + 5400000000000
       | none => 0
     ∃ t, exec (.rehearsalStart core) s = .next t
       ∧ Begins { s with clock := max s.clock (max last (agetD s.rehearseDue core 0)) } t core none)
   ∧ (∀ s core x, aget s.rehearsing core = some x →
     let ends (s : State) (st : Nat) : State := match x.who with
       | some q => finishHead { s with rehearsing := adel s.rehearsing core } q st 0
       | none => { s with rehearsing := adel s.rehearsing core }
     (coreBusy s core = true →
       let at_ := max s.clock (x.since + 25000000000)
       exec (.rehearsalSkip core) s = .next (ends { s with
         clock := at_, skips := s.skips ++ [at_], rehearseDue := aset s.rehearseDue core (at_ + 9000000000000) } 1))
     ∧ (coreBusy s core = false → exec (.selfTestComplete core true) s = .next (ends s 0)
       ∧ (core ∉ s.draining → ∃ t, exec (.selfTestComplete core false) s = .next t ∧ core ∈ t.retired)))
   ∧ ∀ s, (Health.code (healthNow s) ≤ Health.code s.health → settleHealth s = s)
     ∧ (Health.code s.health < Health.code (healthNow s) → (settleHealth s).health = healthNow s
       ∧ (healthNow s ≠ .failed → settleHealth s = { s with health := healthNow s, log := s.log ++ [.health (healthNow s)] })))
  ∧ ((∀ s q r l, Head s q 0x62 (coreRecOk s q) r l →
       let core := recCore r
       (coreGone s core = true → exec (.coreRetire q) s = .next (finishHead (startHead s q) q (if r.work = 1 then 0 else 3) 0))
       ∧ (coreGone s core = false → core ∉ s.draining → coreBusy s core = false →
           ∃ t, exec (.coreRetire q) s = .next (finishHead t q 0 0) ∧ core ∈ t.retired ∧ coreGone t core = true)
       ∧ (coreGone s core = false → coreBusy s core = true → ∃ t, exec (.coreRetire q) s = .next t ∧ core ∈ t.draining))
     ∧ ∀ s core, core < 160 → coreGone s core = false → aRising s.blocks = true → aRising s.groups = true →
       ∃ t, exec (.coreWithdrawal core) s = .next t ∧ core ∈ t.retired
         ∧ ∀ k g b b2 k2, aget s.groups k = some g → aget s.blocks g.blk = some b → g.st ≠ .exited → g.st ≠ .halted →
           aget s.blocks k2 = some b2 → b2.core = core → b2.st = .placed → b2.clu = b.clu →
           aget t.groups k = none ∨ ∃ h, aget t.groups k = some h ∧ TrapSet h .clusterLost (dw ((logOfCore s core).getD 255)) g.pc
             ∧ ((b.core = core ∧ b.st = .placed) ∨ g.st = .saved → h.st = .halted))

/-- R15 to R18, R21, R25, R27, R398, R399, R403: a cold reset wipes the module, keeps its record, puts the partition
mode set into force and starts clocks and ports anew, FAILED where a stack or the self-test fails; a thermal shutdown
leaves nothing to run; a valid life-cycle command wipes and moves on, any other is refused; a warm reset, of one die
or all four, is over within 40 ms, frees the contexts it touched, defines the others, and keeps what memory holds. The
log entry of a refused command (log 65), what R398 and R131 leave to be read together (log 49), the L2's share of a
warm reset (log 29), the wipe of a life-cycle command (log 31), the context that stays (log 7), the schedule on which
rehearsals are on again (log 6) and that other sets of dies are no warm reset (log 53) are the model's choices. -/
def Obligations.Resets : Prop :=
  (∀ s, ∃ t, exec .coldReset s = .next t ∧ Blank s t ∧ KeepsRecord s t ∧ t.life = s.life ∧ t.shut = false
    ∧ t.ctxs = [(0, Ctx.system)] ∧ t.keys = [(0, { retiring := false, bytes := [] })]
    ∧ (t.part, t.partCfg) = (s.partCfg, s.partCfg) ∧ (t.clock, t.era) = (0, s.era + s.clock)
    ∧ t.uports = List.replicate 18 { st := .training, width := 0 } ∧ t.pports = List.replicate 2 { st := .down, width := 0 }
    ∧ t.drains = [] ∧ t.reach = [] ∧ t.rehearseOn = true ∧ Health.code s.health ≤ Health.code t.health
    ∧ (s.postFailed = true ∨ s.unusable ≠ 0 → t.health = .failed)
    ∧ ∀ p n, p < 2 → n < 8192 → aget t.queues (p * 8192 + n) = if n = 0 ∧ partOfPort t p ≠ none then some HostQ.zero else none)
  ∧ (∀ s die, die < 4 → ∃ t, exec (.thermalShutdown die) s = .next t ∧ Blank s t ∧ KeepsRecord s t ∧ t.shut = true
    ∧ t.queues = [] ∧ t.ctxs = [] ∧ t.keys = [] ∧ t.log = s.log ++ [.shutdown die])
  ∧ (∀ s die, die < 4 → exec (.junctionWarning die) s = .next { s with log := s.log ++ [.junction die] })
  ∧ (∀ s target, ∀ valid : Bool,
    let may := valid = true ∧ (s.life, target) ∈ lifeSteps
    (¬may → exec (.lifeCycleCommand target valid) s = .next { s with log := s.log ++ [.refused 1] })
    ∧ (may → ∃ t, exec (.lifeCycleCommand target valid) s = .next t ∧ Blank s t ∧ KeepsRecord s t ∧ t.life = target
      ∧ t.part = s.part ∧ t.shut = s.shut ∧ (s.shut = false → t.ctxs = [(0, Ctx.system)])))
  ∧ (∀ s dies, s.shut = true ∨ dies.toNat ∉ [1, 2, 4, 8, 15] → exec (.warmReset dies) s = .next s)
  ∧ ∀ s dies, s.shut = false → dies.toNat ∈ [1, 2, 4, 8, 15] → s.launches = [] → s.upd = [] → s.eps = [] → s.evq = [] → s.draining = [] → (∀ e ∈ s.queues, e.2.recs = []) →
    ∃ t, exec (.warmReset dies) s = .next t ∧ (t.dir, t.rmap, t.tables, t.books) = ([], [], [], [])
      ∧ t.warmAt = s.warmAt ++ [s.era + s.clock] ∧ t.latches = [] ∧ (∀ p, aget t.drops (p * 8192) = none)
      ∧ s.clock ≤ t.resetUntil ∧ t.resetUntil ≤ s.clock + 100000000
      ∧ (∀ c, c ≠ 0 → touched s dies c = true → aget t.ctxs c = none)
      ∧ (∀ c x, c ≠ 0 → touched s dies c = false → aget s.ctxs c = some x → ∃ y, aget t.ctxs c = some y ∧ y.st = .defined
        ∧ y.why = .none ∧ y.pins = [])
      ∧ ((∀ e ∈ s.ctxs, touched s dies e.1 = false) → t.mem = s.mem)

/-- R8, R21, R26, R374, R404 to R407: the controller's commands and the book registers. A book that is armed reserves
its frames, one that cannot sets AERR; SEAL appends the count and closes it; TAIL moves on by whole records to HEAD at
most; a write to BAR0 acts on the book of its die where the port owns that, and a read of LSTAT, PLANES or a book
register returns its fields, SEAL as 0. A firmware image counts only where its key has the fused hash, and a
measurement comes with the identity key and certificate and a signature (log 64). The log entries of refusals (log
65), the digests and sensors (log 14) and SEAL's and ARM's order in one write (log 50) are the model's choices. -/
def Obligations.Management : Prop :=
  (∀ s m, exec (.partitionModeSet m) s = .next { s with partCfg := m })
  ∧ (∀ s image version, ∀ valid : Bool, let t := { s with freeCtr := s.freeCtr + 1 }
    exec (.firmwareUpdate image version valid) s = .next (
      if valid = true ∧ Config.imageKey s.freeCtr image version = s.keyHash ∧ s.fused ≤ version then
        { t with firmware := aset s.firmware image version }
      else { t with log := s.log ++ [.refused 0] }))
  ∧ (∀ s sensor, ∃ v, exec (.pldmMonitoring sensor) s
      = .next { s with freeCtr := s.freeCtr + 1, answers := s.answers ++ [.pldm sensor v] }
      ∧ (sensor = 0 → v = dw (Health.code s.health)))
  ∧ (∀ s index, (1 ≤ index ∧ index ≤ 5 → ∃ v, exec (.spdmMeasurements index) s
        = .next { s with answers := s.answers ++ [.measure index v (Config.identityKey s.identity)
            (Config.certificate s.identity) (Config.signature s.identity index v)] })
      ∧ (¬(1 ≤ index ∧ index ≤ 5) → exec (.spdmMeasurements index) s = .next { s with log := s.log ++ [.refused 2] }))
  ∧ (∀ s die, die < 4 →
    let b := bookOf s die
    let ids := (List.range b.pages).map (b.base + ·)
    let may := 1 ≤ b.pages ∧ b.pages ≤ 16384 ∧ b.base / 2 ^ 21 = die ∧ (b.base + b.pages - 1) / 2 ^ 21 = die
      ∧ ∀ id ∈ ids, frameFree s id = true
    (b.arm = true → exec (.bookArm die) s = .next s)
    ∧ (b.arm = false → b.held = none → ¬may → exec (.bookArm die) s = .next (setBook s die { b with aerr := true }))
    ∧ (b.arm = false → b.held = none → may → ∃ t, exec (.bookArm die) s = .next t
      ∧ bookOf t die = { b with arm := true, aerr := false, sealed := false, held := some (b.base, b.pages), head := 0, tail := 0 }
      ∧ t = { s with books := t.books, frames := t.frames }
      ∧ ∀ id, aget t.frames id = if id ∈ ids then some Frame.retiredEntry else aget s.frames id)
    ∧ (∀ f n, b.held = some (f, n) → ∃ t, exec (.bookDisarm die) s = .next t ∧ bookOf t die = { b with arm := false, held := none }
      ∧ ∀ id, aget t.frames id = if f ≤ id ∧ id < f + n then none else aget s.frames id)
    ∧ (b.held = none → exec (.bookDisarm die) s = .next (setBook s die { b with arm := false }))
    ∧ (b.arm = false → exec (.bookSeal die) s = .next s)
    ∧ (b.arm = true →
      let at_ := b.base * 65536 + b.head % (b.pages * 65536)
      inError s at_ 32 = false → (∀ j < 32, inTables (at_ + j) = false) →
      ∃ t, exec (.bookSeal die) s = .next t ∧ t = { s with mem := t.mem, books := t.books }
        ∧ bookOf t die = { b with arm := false, sealed := true, head := b.head + 32, count := b.count + 1 }
        ∧ recordAt t at_ 0 = (5 * 2 ^ 60 + die * 2 ^ 58 + b.count % 2 ^ 32) % 2 ^ 64 ∧ recordAt t at_ 1 = s.clock * 2 / 5 % 2 ^ 64
        ∧ recordAt t at_ 2 = b.count % 2 ^ 64 ∧ recordAt t at_ 3 = 0)
    ∧ ∀ v : Dword, exec (.bookTailWrite die v) s = .next (
        if v.toNat % 32 = 0 ∧ b.tail ≤ v.toNat ∧ v.toNat ≤ b.head then setBook s die { b with tail := v.toNat } else s))
  ∧ (∀ s port,
    let shows (x : Dword) (p : Port) : Prop := bits x 63 61 = linkCode p.st ∧ bits x 60 58 = p.width % 8 ∧ bit x 57 = p.swr
      ∧ bits x 31 0 = p.lseq % 2 ^ 32 ∧ (p.retrains < 2 ^ 16 → bits x 47 32 = p.retrains)
    (∀ n p, n < 18 → s.uports[n]? = some p → p.width < 8 → p.retrains < 2 ^ 16 → shows (barRead s port (0x1000 + 8 * n)) p)
    ∧ (∀ n p, n < 2 → s.pports[n]? = some p → p.width < 8 → p.retrains < 2 ^ 16 → shows (barRead s port (0x1100 + 8 * n)) p)
    ∧ (∀ pos p n, pos < 512 → partOfPort s port = some p →
      ((barRead s port (0x2000 + 8 * pos)).toNat.testBit n = true ↔ n ∈ planesTo s p pos))
    ∧ ∀ die, die < 4 →
      let b := bookOf s die
      let at_ (o : Nat) : Dword := barRead s port (0x3000 + 0x40 * die + o)
      (partOfPort s port = some (partOfDie s die) →
        (bit (at_ 0) 0, bit (at_ 0) 1, bit (at_ 0) 2, bit (at_ 0) 3, bits (at_ 0) 63 4) = (b.arm, false, b.sealed, b.aerr, 0)
        ∧ (at_ 0x08, at_ 0x10, at_ 0x18, at_ 0x20) = (dw (b.base * 65536), dw b.pages, dw b.head, dw b.tail))
      ∧ (partOfPort s port ≠ some (partOfDie s die) → ∀ o < 0x40, at_ o = 0))
  ∧ ∀ s port off v,
    let die := (off - 0x3000) / 0x40
    let b := bookOf s die
    let i := Instr.registerWrite port off v
    let mine := 0x3000 ≤ off ∧ off < 0x3100 ∧ partOfPort s port = some (partOfDie s die)
    (¬mine → exec i s = .next s)
    ∧ (mine → off % 0x40 = 0 → bit v 1 = true → b.arm = false → exec i s = .next s)
    ∧ (mine → off % 0x40 = 0 → exec i s = if bit v 1 = true then exec (.bookSeal die) s
        else if bit v 0 = true then exec (.bookArm die) s else exec (.bookDisarm die) s)
    ∧ (mine → off % 0x40 = 8 → exec i s = .next (if b.arm = true then s else setBook s die { b with base := bits v 51 16 }))
    ∧ (mine → off % 0x40 = 16 → exec i s = .next (if b.arm = true then s else setBook s die { b with pages := bits v 14 0 }))
    ∧ (mine → off % 0x40 = 32 → exec i s = exec (.bookTailWrite die v) s)
    ∧ (mine → off % 0x40 ∉ [0, 8, 16, 32] → exec i s = .next s)

/-- R31 to R56, R68, R298, R301, R303: what the functions of FADD and its companions, of CVT and of LARND deliver. Of
operands that are no NaN the exact result, an infinity or a value, is rounded once in the mode in force, with the
flags of R38, R39 and R46, and what R45 and R56 call invalid gives the default NaN with NV. FRNDN and its companions
give an integral value. CVT rounds as R48 to R54 say, into D8 to the nearest code, and keeps what fits of a NaN. LARND
delivers the rows of R68. That an integer that does not fit is cut from its sign-extended pattern is the model's
reading of R52 (log 77). -/
def Obligations.RoundedResults : Prop :=
  ((∀ f mode ftz x y, x < 2 ^ fpBits f → y < 2 ^ fpBits f → fpIsNaN f x = false → fpIsNaN f y = false →
     let t := termOf f ftz x
     let u := termOf f ftz y
     let invalid := (nanCode f, ({ nv := true } : Flg))
     let neg := t.neg != u.neg
     Summed f mode ftz t u (fpAdd f mode ftz x y)
     ∧ Summed f mode ftz t (u.flip true) (fpSub f mode ftz x y)
     ∧ (∀ p, t.times u = some p → Delivered f mode ftz p (fpMul f mode ftz x y))
     ∧ (t.times u = none → fpMul f mode ftz x y = invalid)
     ∧ (∀ c, c < 2 ^ fpBits f → ∀ negP negC : Bool,
       (t.times u = none → fpIsNaN f c = false → fpFused f mode ftz negP negC x y c = invalid)
       ∧ (t.times u = none → (fpFused f mode ftz negP negC x y c).2.nv = true)
       ∧ ∀ p, t.times u = some p → fpIsNaN f c = false →
         Summed f mode ftz (p.flip negP) ((termOf f ftz c).flip negC) (fpFused f mode ftz negP negC x y c))
     ∧ (let r := fpDiv f mode ftz x y
       (t.inf = true → u.inf = true → r = invalid)
       ∧ (t.inf = true → u.inf = false → r = (signed f neg (infCode f), {}))
       ∧ (t.inf = false → u.inf = true → r = (signed f neg 0, {}))
       ∧ (t.inf = false → u.inf = false → u.val = 0 →
         r = if t.val = 0 then invalid else (signed f neg (infCode f), { dz := true }))
       ∧ (t.inf = false → u.inf = false → u.val ≠ 0 →
         Delivered f mode ftz { inf := false, neg := neg, val := t.val / u.val } r)))
   ∧ (∀ f mode ftz x, x < 2 ^ fpBits f → fpIsNaN f x = false →
     let t := termOf f ftz x
     let invalid := (nanCode f, ({ nv := true } : Flg))
     let below := t.neg = true ∧ (t.inf = true ∨ t.val ≠ 0)
     let zero := t.inf = false ∧ t.val = 0
     let infinite (neg : Bool) : Nat := signed f neg (infCode f)
     (∀ y, y < 2 ^ fpBits f → Delivered f mode ftz { t with val := t.val * 2 ^ sext (fpBits f) y } (fpScale f mode ftz x y))
     ∧ (let r := fpRnd f mode ftz x
       r.2 = {} ∧ (t.inf = true → r.1 = x)
       ∧ (t.inf = false → ∃ n m : Nat, RoundsTo mode t.neg t.val.abs n ∧ m < infCode f ∧ magOf f m = n ∧ r.1 = signed f t.neg m))
     ∧ (t.inf = true → fpRcp f ftz x = (signed f t.neg 0, {}))
     ∧ (zero → fpRcp f ftz x = (infinite t.neg, { dz := true }))
     ∧ (t.inf = false → t.val ≠ 0 → Delivered f .rn ftz { t with val := 1 / t.val } (fpRcp f ftz x))
     ∧ (zero → fpRsq f ftz x = (infinite t.neg, { dz := true }) ∧ fpSqrt f ftz x = (signed f t.neg 0, {})
       ∧ fpExp2 f mode ftz x = (fpBias f * 2 ^ fpFrac f, {}) ∧ fpLog2 f ftz x = (infinite true, { dz := true }))
     ∧ (below → fpRsq f ftz x = invalid ∧ fpSqrt f ftz x = invalid ∧ fpLog2 f ftz x = invalid)
     ∧ (t.inf = true → t.neg = true → fpExp2 f mode ftz x = (0, {}))
     ∧ (t.inf = true → t.neg = false → fpRsq f ftz x = (0, {}) ∧ fpSqrt f ftz x = (x, {}) ∧ fpExp2 f mode ftz x = (x, {})
       ∧ fpLog2 f ftz x = (x, {}))))
  ∧ (∀ src dst mode sat asc bsc x, x < 2 ^ numBits src →
    let r := convert src dst mode sat asc bsc x
    (cvtSrc src asc x = .nan →
      (∀ fs fd, numFp src = some fs → numFp dst = some fd →
        let fr := x % 2 ^ fpFrac fs ||| 2 ^ (fpFrac fs - 1)
        r = (signed fd (signBit fs x) (infCode fd
          + if fpFrac fs ≤ fpFrac fd then fr * 2 ^ (fpFrac fd - fpFrac fs) else fr / 2 ^ (fpFrac fs - fpFrac fd)),
          { nv := fpIsSNaN fs x }))
      ∧ (∀ fd, src = .d8 → numFp dst = some fd → r = (nanCode fd, {}))
      ∧ (dst = .d8 → r = (0x80, { nv := decide (src ≠ .d8) }))
      ∧ (IntFmt dst → r = (0, { nv := true })))
    ∧ (∀ t, cvtSrc src asc x = .num t →
      (∀ f, src = dst → numFp src = some f →
        (t.inf = true → r = (x, {}))
        ∧ (t.inf = false → ∃ n m : Nat, RoundsTo mode t.neg t.val.abs n ∧ m < infCode f ∧ magOf f m = n
          ∧ r = (signed f t.neg m, { nx := decide ((n : Rat) ≠ t.val.abs) })))
      ∧ (IntFmt src → IntFmt dst →
        let z := intOf src x
        r = (imod (numBits dst) (if sat then max (least dst) (min (largest dst) z) else z), {}))
      ∧ (src ≠ dst ∨ numFp src = none → ¬(IntFmt src ∧ IntFmt dst) → Becomes dst mode sat bsc t r)))
  ∧ ∀ g f mode (a : LA),
    let r := roundLa g f mode a
    let bad := a.nan = true ∨ a.invalid = true ∨ a.ovf = true ∨ guardOf a.n ≠ 0 ∨ (a.pinf = true ∧ a.ninf = true)
    let v : Rat := (a.n : Rat) / 2 ^ 298
    (bad → r = (match numFp f with
      | some fp => nanCode fp
      | none => if f = .d8 then 0x80 else 0, { nv := true }))
    ∧ (¬bad → a.pinf = true ∨ a.ninf = true → r = match numFp f with
      | some fp => (signed fp a.ninf (infCode fp), {})
      | none => if f = .d8 then (if a.ninf then 0x87 else 0x07, { ov := true, nx := true })
        else (imod (numBits f) (if a.ninf then least f else largest f), { nv := true }))
    ∧ (¬bad → a.pinf = false → a.ninf = false →
      (a.n = 0 → r = match numFp f with
        | some fp => (signed fp (mode = .rd) 0, {})
        | none => (0, {}))
      ∧ (a.n ≠ 0 → Becomes f mode (fmtSat g.fmt) (fmtBsc g.fmt) { inf := false, neg := a.n < 0, val := v } r))
end

