-- ==== Sys2Proof/Laws/Maps.lean ====
section
/-! SUPPORT. Laws of sparse maps: read after write, and the canonical form. They hold of every list, rising or not. -/

namespace Sys2Proof.Machine

variable {V : Type}

@[simp] theorem aget_nil (k : Nat) : aget ([] : AMap V) k = none := rfl

theorem aget_cons (a : Nat) (v : V) (r : AMap V) (k : Nat) :
    aget ((a, v) :: r) k = if a = k then some v else aget r k := rfl

@[simp] theorem aget_adel_same (m : AMap V) (k : Nat) : aget (adel m k) k = none := by
  induction m with
  | nil => rfl
  | cons p r ih =>
    obtain ⟨a, w⟩ := p
    by_cases h : a = k <;> simp [adel, aget, h, ih]

theorem aget_adel_other (m : AMap V) {k j : Nat} (h : k ≠ j) : aget (adel m k) j = aget m j := by
  induction m with
  | nil => rfl
  | cons p r ih =>
    obtain ⟨a, w⟩ := p
    by_cases hk : a = k
    · subst hk
      simp [adel, aget, h, ih]
    · simp [adel, aget, hk, ih]

@[simp] theorem aget_amod_same (m : AMap V) (k : Nat) (f : V → V) : aget (amod m k f) k = (aget m k).map f := by
  induction m with
  | nil => rfl
  | cons p r ih =>
    obtain ⟨a, w⟩ := p
    by_cases h : a = k <;> simp [amod, aget, h, ih]

theorem aget_amod_other (m : AMap V) {k j : Nat} (f : V → V) (h : k ≠ j) : aget (amod m k f) j = aget m j := by
  induction m with
  | nil => rfl
  | cons p r ih =>
    obtain ⟨a, w⟩ := p
    by_cases hk : a = k
    · subst hk
      simp [amod, aget, h]
    · by_cases hj : a = j
      · subst hj
        simp [amod, aget, hk]
      · simp [amod, aget, hk, hj, ih]

theorem amod_some {m : AMap V} {k : Nat} (f : V → V) {v : V} (h : aget m k = some v) :
    aget (amod m k f) k = some (f v) := by simp [h]

theorem ahas_iff (m : AMap V) (k : Nat) : ahas m k = true ↔ ∃ v, aget m k = some v := by
  simp [ahas, Option.isSome_iff_exists]

theorem aget_ains_same (m : AMap V) (k : Nat) (v : V) (h : aget m k = none) : aget (ains m k v) k = some v := by
  induction m with
  | nil => simp [ains, aget]
  | cons p r ih =>
    obtain ⟨a, w⟩ := p
    by_cases ha : a = k
    · simp [aget, ha] at h
    · simp only [aget, ha, if_false] at h
      by_cases hk : k < a <;> simp [ains, aget, hk, ha, ih h]

theorem aget_ains_other (m : AMap V) {k j : Nat} (v : V) (h : k ≠ j) : aget (ains m k v) j = aget m j := by
  induction m with
  | nil => simp [ains, aget, h]
  | cons p r ih =>
    obtain ⟨a, w⟩ := p
    by_cases hk : k < a <;> simp [ains, aget, hk, h, ih]

@[simp] theorem aget_aset_same (m : AMap V) (k : Nat) (v : V) : aget (aset m k v) k = some v := by
  unfold aset
  split
  · rename_i h
    obtain ⟨x, hx⟩ := (ahas_iff m k).1 h
    simp [hx]
  · rename_i h
    exact aget_ains_same m k v (by simpa [ahas] using h)

theorem aget_aset_other (m : AMap V) {k j : Nat} (v : V) (h : k ≠ j) : aget (aset m k v) j = aget m j := by
  unfold aset
  split
  · exact aget_amod_other _ _ h
  · exact aget_ains_other _ _ h

/-- Changing a listed key sets it. -/
theorem amod_eq_aset {m : AMap V} {k : Nat} {x : V} (f : V → V) (h : aget m k = some x) :
    amod m k f = aset m k (f x) := by
  have hh : ahas m k = true := (ahas_iff m k).2 ⟨x, h⟩
  simp only [aset, hh, if_true]
  clear hh
  induction m with
  | nil => rfl
  | cons p r ih =>
    obtain ⟨a, w⟩ := p
    by_cases ha : a = k
    · simp only [aget, ha, if_true, Option.some.injEq] at h
      simp [amod, ha, h]
    · simp only [aget, ha, if_false] at h
      simp [amod, ha, ih h]

/-- Changing a listed key twice. -/
theorem amod_amod (m : AMap V) (k : Nat) (f g : V → V) : amod (amod m k f) k g = amod m k fun v => g (f v) := by
  induction m with
  | nil => rfl
  | cons p r ih =>
    obtain ⟨a, w⟩ := p
    by_cases ha : a = k <;> simp [amod, ha, ih]

theorem amod_ains (m : AMap V) (k : Nat) (v w : V) (h : aget m k = none) :
    amod (ains m k v) k (fun _ => w) = ains m k w := by
  induction m with
  | nil => simp [ains, amod]
  | cons p r ih =>
    obtain ⟨a, u⟩ := p
    by_cases ha : a = k
    · simp [aget, ha] at h
    · simp only [aget, ha, if_false] at h
      by_cases hk : k < a <;> simp [ains, amod, hk, ha, ih h]

/-- Setting a key twice leaves the second value. -/
theorem aset_aset (m : AMap V) (k : Nat) (v w : V) : aset (aset m k v) k w = aset m k w := by
  rw [← amod_eq_aset (fun _ => w) (aget_aset_same m k v)]
  by_cases h : ahas m k = true
  · simp [aset, h, amod_amod]
  · have hn : aget m k = none := by simpa [ahas] using h
    simp [aset, h, amod_ains m k v w hn]

theorem agetD_def (m : AMap V) (k : Nat) (d : V) : agetD m k d = (aget m k).getD d := rfl

section Default
variable [DecidableEq V]

@[simp] theorem agetD_asetD_same (m : AMap V) (k : Nat) (v d : V) : agetD (asetD m k v d) k d = v := by
  unfold asetD
  split <;> simp_all [agetD]

theorem agetD_asetD_other (m : AMap V) {k j : Nat} (v d : V) (h : k ≠ j) :
    agetD (asetD m k v d) j d = agetD m j d := by
  unfold asetD
  split <;> simp [agetD, aget_adel_other _ h, aget_aset_other _ _ h]

theorem agetD_asetD (m : AMap V) (k j : Nat) (v d : V) :
    agetD (asetD m k v d) j d = if k = j then v else agetD m j d := by
  split
  · subst_vars; simp
  · exact agetD_asetD_other _ _ _ ‹_›

end Default

/-! The canonical form. -/

/-- Every key of a map is above a bound. -/
def aAbove (n : Nat) (m : AMap V) : Bool := m.all fun p => n < p.1

theorem aRising_cons (a : Nat) (v : V) (r : AMap V) : aRising ((a, v) :: r) = (aAbove a r && aRising r) := by
  induction r generalizing a v with
  | nil => rfl
  | cons p r ih =>
    obtain ⟨b, w⟩ := p
    have hb := ih b w
    simp only [aRising] at hb ⊢
    simp only [aAbove, List.all_cons]
    rw [hb]
    by_cases h : a < b
    · simp only [h, decide_true, Bool.true_and]
      by_cases h2 : aAbove b r = true
      · have : (r.all fun p => decide (a < p.1)) = true := by
          simp only [aAbove, List.all_eq_true, decide_eq_true_eq] at h2 ⊢
          intro x hx
          have := h2 x hx
          omega
        simp [this, h2]
      · simp only [Bool.not_eq_true] at h2
        simp [h2]
    · simp [h]

theorem aAbove_ains {n k : Nat} {m : AMap V} (v : V) (h : aAbove n m = true) (hk : n < k) :
    aAbove n (ains m k v) = true := by
  induction m with
  | nil => simp [ains, aAbove, hk]
  | cons p r ih =>
    obtain ⟨a, w⟩ := p
    simp only [aAbove, List.all_cons, Bool.and_eq_true, decide_eq_true_eq] at h ih ⊢
    unfold ains
    split
    · simp [hk, h.1]; simpa using h.2
    · simp [h.1]; simpa using ih h.2

theorem aAbove_amod (n k : Nat) (m : AMap V) (f : V → V) : aAbove n (amod m k f) = aAbove n m := by
  induction m with
  | nil => rfl
  | cons p r ih =>
    obtain ⟨a, w⟩ := p
    simp only [aAbove, List.all_cons] at ih ⊢
    by_cases ha : a = k <;> simp [amod, ha, ih]

/-- Changing values leaves the keys as they are. -/
theorem aRising_amod (k : Nat) (m : AMap V) (f : V → V) : aRising (amod m k f) = aRising m := by
  induction m with
  | nil => rfl
  | cons p r ih =>
    obtain ⟨a, w⟩ := p
    by_cases ha : a = k
    · simp [amod, ha, aRising_cons]
    · simp [amod, ha, aRising_cons, ih, aAbove_amod]

theorem aRising_ains {k : Nat} {m : AMap V} (v : V) (h : aRising m = true) (hn : aget m k = none) :
    aRising (ains m k v) = true := by
  induction m with
  | nil => rfl
  | cons p r ih =>
    obtain ⟨a, w⟩ := p
    rw [aRising_cons, Bool.and_eq_true] at h
    have ha : a ≠ k := fun e => by simp [aget, e] at hn
    simp only [aget, ha, if_false] at hn
    unfold ains
    split
    · rename_i hk
      rw [aRising_cons, aRising_cons]
      simp only [aAbove, List.all_cons, Bool.and_eq_true, decide_eq_true_eq]
      refine ⟨⟨hk, ?_⟩, h⟩
      have := h.1
      simp only [aAbove, List.all_eq_true, decide_eq_true_eq] at this ⊢
      intro x hx
      have := this x hx
      omega
    · rename_i h1
      rw [aRising_cons, Bool.and_eq_true]
      exact ⟨aAbove_ains v h.1 (by omega), ih h.2 hn⟩

theorem aRising_aset {k : Nat} {m : AMap V} (v : V) (h : aRising m = true) : aRising (aset m k v) = true := by
  unfold aset
  split
  · rw [aRising_amod]; exact h
  · rename_i hk
    exact aRising_ains v h (by simpa [ahas] using hk)

theorem aRising_filter {m : AMap V} (p : Nat × V → Bool) (h : aRising m = true) : aRising (m.filter p) = true := by
  induction m with
  | nil => rfl
  | cons q r ih =>
    obtain ⟨a, w⟩ := q
    rw [aRising_cons, Bool.and_eq_true] at h
    simp only [List.filter_cons]
    split
    · rw [aRising_cons, Bool.and_eq_true]
      refine ⟨?_, ih h.2⟩
      have := h.1
      simp only [aAbove, List.all_eq_true, decide_eq_true_eq] at this ⊢
      intro x hx
      exact this x (List.mem_filter.1 hx).1
    · exact ih h.2

theorem adel_eq_filter (m : AMap V) (k : Nat) : adel m k = m.filter fun p => p.1 ≠ k := by
  induction m with
  | nil => rfl
  | cons q r ih =>
    obtain ⟨a, w⟩ := q
    by_cases h : a = k <;> simp [adel, h, ih]

theorem mem_ains {m : AMap V} {k : Nat} {v : V} {x : Nat × V} (h : x ∈ ains m k v) : x = (k, v) ∨ x ∈ m := by
  induction m with
  | nil => simpa [ains] using h
  | cons q r ih =>
    obtain ⟨a, w⟩ := q
    unfold ains at h
    split at h
    · simpa using h
    · simp only [List.mem_cons] at h ⊢
      rcases h with h | h
      · exact Or.inr (Or.inl h)
      · rcases ih h with h | h
        · exact Or.inl h
        · exact Or.inr (Or.inr h)

theorem mem_amod_const {m : AMap V} {k : Nat} {v : V} {x : Nat × V} (h : x ∈ amod m k fun _ => v) :
    x = (k, v) ∨ x ∈ m := by
  induction m with
  | nil => simp [amod] at h
  | cons q r ih =>
    obtain ⟨a, w⟩ := q
    by_cases ha : a = k
    · simp only [amod, ha, if_true, List.mem_cons] at h ⊢
      rcases h with h | h
      · exact Or.inl h
      · exact Or.inr (Or.inr h)
    · simp only [amod, ha, if_false, List.mem_cons] at h ⊢
      rcases h with h | h
      · exact Or.inr (Or.inl h)
      · rcases ih h with h | h
        · exact Or.inl h
        · exact Or.inr (Or.inr h)

theorem mem_aset {m : AMap V} {k : Nat} {v : V} {x : Nat × V} (h : x ∈ aset m k v) : x = (k, v) ∨ x ∈ m := by
  unfold aset at h
  split at h
  · exact mem_amod_const h
  · exact mem_ains h

section Default
variable [DecidableEq V]

theorem aCanon_filter {d : V} {m : AMap V} (p : Nat × V → Bool) (h : aCanon d m = true) :
    aCanon d (m.filter p) = true := by
  simp only [aCanon, Bool.and_eq_true, List.all_eq_true] at h ⊢
  exact ⟨aRising_filter p h.1, fun x hx => h.2 x (List.mem_filter.1 hx).1⟩

/-- A write keeps the canonical form. -/
theorem aCanon_asetD {d : V} {m : AMap V} (k : Nat) (v : V) (h : aCanon d m = true) :
    aCanon d (asetD m k v d) = true := by
  unfold asetD
  split
  · rw [adel_eq_filter]
    exact aCanon_filter _ h
  · rename_i hv
    simp only [aCanon, Bool.and_eq_true, List.all_eq_true] at h ⊢
    refine ⟨aRising_aset v h.1, fun x hx => ?_⟩
    rcases mem_aset hx with h1 | h1
    · subst h1; simpa using hv
    · exact h.2 x h1

end Default

end Sys2Proof.Machine
end

