-- ==== Sys2Proof/Laws/State.lean ====
section
/-! SUPPORT. What the updates of one field leave in each field of the machine. -/

namespace Sys2Proof.Machine

variable (s : State)

@[simp] theorem setGroup_clock (k : Nat) (g : Group) : (setGroup s k g).clock = s.clock := rfl
@[simp] theorem setGroup_era (k : Nat) (g : Group) : (setGroup s k g).era = s.era := rfl
@[simp] theorem setGroup_freeCtr (k : Nat) (g : Group) : (setGroup s k g).freeCtr = s.freeCtr := rfl
@[simp] theorem setGroup_turns (k : Nat) (g : Group) : (setGroup s k g).turns = s.turns := rfl
@[simp] theorem setGroup_rr (k : Nat) (g : Group) : (setGroup s k g).rr = s.rr := rfl
@[simp] theorem setGroup_flip (k : Nat) (g : Group) : (setGroup s k g).flip = s.flip := rfl
@[simp] theorem setGroup_cur (k : Nat) (g : Group) : (setGroup s k g).cur = s.cur := rfl
@[simp] theorem setGroup_nextId (k : Nat) (g : Group) : (setGroup s k g).nextId = s.nextId := rfl
@[simp] theorem setGroup_shut (k : Nat) (g : Group) : (setGroup s k g).shut = s.shut := rfl
@[simp] theorem setGroup_resetUntil (k : Nat) (g : Group) : (setGroup s k g).resetUntil = s.resetUntil := rfl
@[simp] theorem setGroup_mem (k : Nat) (g : Group) : (setGroup s k g).mem = s.mem := rfl
@[simp] theorem setGroup_bad (k : Nat) (g : Group) : (setGroup s k g).bad = s.bad := rfl
@[simp] theorem setGroup_latent (k : Nat) (g : Group) : (setGroup s k g).latent = s.latent := rfl
@[simp] theorem setGroup_failing (k : Nat) (g : Group) : (setGroup s k g).failing = s.failing := rfl
@[simp] theorem setGroup_anchors (k : Nat) (g : Group) : (setGroup s k g).anchors = s.anchors := rfl
@[simp] theorem setGroup_frames (k : Nat) (g : Group) : (setGroup s k g).frames = s.frames := rfl
@[simp] theorem setGroup_aperts (k : Nat) (g : Group) : (setGroup s k g).aperts = s.aperts := rfl
@[simp] theorem setGroup_pageOps (k : Nat) (g : Group) : (setGroup s k g).pageOps = s.pageOps := rfl
@[simp] theorem setGroup_ctxs (k : Nat) (g : Group) : (setGroup s k g).ctxs = s.ctxs := rfl
@[simp] theorem setGroup_keys (k : Nat) (g : Group) : (setGroup s k g).keys = s.keys := rfl
@[simp] theorem setGroup_queues (k : Nat) (g : Group) : (setGroup s k g).queues = s.queues := rfl
@[simp] theorem setGroup_drops (k : Nat) (g : Group) : (setGroup s k g).drops = s.drops := rfl
@[simp] theorem setGroup_eps (k : Nat) (g : Group) : (setGroup s k g).eps = s.eps := rfl
@[simp] theorem setGroup_launches (k : Nat) (g : Group) : (setGroup s k g).launches = s.launches := rfl
@[simp] theorem setGroup_clusters (k : Nat) (g : Group) : (setGroup s k g).clusters = s.clusters := rfl
@[simp] theorem setGroup_blocks (k : Nat) (g : Group) : (setGroup s k g).blocks = s.blocks := rfl
@[simp] theorem setGroup_groups (k : Nat) (g : Group) : (setGroup s k g).groups = aset s.groups k g := rfl
@[simp] theorem setGroup_latches (k : Nat) (g : Group) : (setGroup s k g).latches = s.latches := rfl
@[simp] theorem setGroup_rot (k : Nat) (g : Group) : (setGroup s k g).rot = s.rot := rfl
@[simp] theorem setGroup_samples (k : Nat) (g : Group) : (setGroup s k g).samples = s.samples := rfl
@[simp] theorem setGroup_part (k : Nat) (g : Group) : (setGroup s k g).part = s.part := rfl
@[simp] theorem setGroup_partCfg (k : Nat) (g : Group) : (setGroup s k g).partCfg = s.partCfg := rfl
@[simp] theorem setGroup_lastBay (k : Nat) (g : Group) : (setGroup s k g).lastBay = s.lastBay := rfl
@[simp] theorem setGroup_fuse (k : Nat) (g : Group) : (setGroup s k g).fuse = s.fuse := rfl
@[simp] theorem setGroup_retired (k : Nat) (g : Group) : (setGroup s k g).retired = s.retired := rfl
@[simp] theorem setGroup_retiredFrames (k : Nat) (g : Group) : (setGroup s k g).retiredFrames = s.retiredFrames := rfl
@[simp] theorem setGroup_ltp (k : Nat) (g : Group) : (setGroup s k g).ltp = s.ltp := rfl
@[simp] theorem setGroup_draining (k : Nat) (g : Group) : (setGroup s k g).draining = s.draining := rfl
@[simp] theorem setGroup_life (k : Nat) (g : Group) : (setGroup s k g).life = s.life := rfl
@[simp] theorem setGroup_firmware (k : Nat) (g : Group) : (setGroup s k g).firmware = s.firmware := rfl
@[simp] theorem setGroup_fused (k : Nat) (g : Group) : (setGroup s k g).fused = s.fused := rfl
@[simp] theorem setGroup_keyHash (k : Nat) (g : Group) : (setGroup s k g).keyHash = s.keyHash := rfl
@[simp] theorem setGroup_identity (k : Nat) (g : Group) : (setGroup s k g).identity = s.identity := rfl
@[simp] theorem setGroup_log (k : Nat) (g : Group) : (setGroup s k g).log = s.log := rfl
@[simp] theorem setGroup_answers (k : Nat) (g : Group) : (setGroup s k g).answers = s.answers := rfl
@[simp] theorem setGroup_dir (k : Nat) (g : Group) : (setGroup s k g).dir = s.dir := rfl
@[simp] theorem setGroup_rmap (k : Nat) (g : Group) : (setGroup s k g).rmap = s.rmap := rfl
@[simp] theorem setGroup_tables (k : Nat) (g : Group) : (setGroup s k g).tables = s.tables := rfl
@[simp] theorem setGroup_cohErrs (k : Nat) (g : Group) : (setGroup s k g).cohErrs = s.cohErrs := rfl
@[simp] theorem setGroup_upd (k : Nat) (g : Group) : (setGroup s k g).upd = s.upd := rfl
@[simp] theorem setGroup_posted (k : Nat) (g : Group) : (setGroup s k g).posted = s.posted := rfl
@[simp] theorem setGroup_lostPeers (k : Nat) (g : Group) : (setGroup s k g).lostPeers = s.lostPeers := rfl
@[simp] theorem setGroup_lostUpd (k : Nat) (g : Group) : (setGroup s k g).lostUpd = s.lostUpd := rfl
@[simp] theorem setGroup_ncOut (k : Nat) (g : Group) : (setGroup s k g).ncOut = s.ncOut := rfl
@[simp] theorem setGroup_podSplit (k : Nat) (g : Group) : (setGroup s k g).podSplit = s.podSplit := rfl
@[simp] theorem setGroup_uports (k : Nat) (g : Group) : (setGroup s k g).uports = s.uports := rfl
@[simp] theorem setGroup_pports (k : Nat) (g : Group) : (setGroup s k g).pports = s.pports := rfl
@[simp] theorem setGroup_drains (k : Nat) (g : Group) : (setGroup s k g).drains = s.drains := rfl
@[simp] theorem setGroup_uaOut (k : Nat) (g : Group) : (setGroup s k g).uaOut = s.uaOut := rfl
@[simp] theorem setGroup_podPos (k : Nat) (g : Group) : (setGroup s k g).podPos = s.podPos := rfl
@[simp] theorem setGroup_reach (k : Nat) (g : Group) : (setGroup s k g).reach = s.reach := rfl
@[simp] theorem setGroup_lastLsu (k : Nat) (g : Group) : (setGroup s k g).lastLsu = s.lastLsu := rfl
@[simp] theorem setGroup_lsuSeq (k : Nat) (g : Group) : (setGroup s k g).lsuSeq = s.lsuSeq := rfl
@[simp] theorem setGroup_lsuOut (k : Nat) (g : Group) : (setGroup s k g).lsuOut = s.lsuOut := rfl
@[simp] theorem setGroup_rounds (k : Nat) (g : Group) : (setGroup s k g).rounds = s.rounds := rfl
@[simp] theorem setGroup_collOut (k : Nat) (g : Group) : (setGroup s k g).collOut = s.collOut := rfl
@[simp] theorem setGroup_health (k : Nat) (g : Group) : (setGroup s k g).health = s.health := rfl
@[simp] theorem setGroup_warmAt (k : Nat) (g : Group) : (setGroup s k g).warmAt = s.warmAt := rfl
@[simp] theorem setGroup_rehearsing (k : Nat) (g : Group) : (setGroup s k g).rehearsing = s.rehearsing := rfl
@[simp] theorem setGroup_rehearseOn (k : Nat) (g : Group) : (setGroup s k g).rehearseOn = s.rehearseOn := rfl
@[simp] theorem setGroup_rehearseDue (k : Nat) (g : Group) : (setGroup s k g).rehearseDue = s.rehearseDue := rfl
@[simp] theorem setGroup_rehearseLast (k : Nat) (g : Group) : (setGroup s k g).rehearseLast = s.rehearseLast := rfl
@[simp] theorem setGroup_skips (k : Nat) (g : Group) : (setGroup s k g).skips = s.skips := rfl
@[simp] theorem setGroup_sigErrs (k : Nat) (g : Group) : (setGroup s k g).sigErrs = s.sigErrs := rfl
@[simp] theorem setGroup_sramErrs (k : Nat) (g : Group) : (setGroup s k g).sramErrs = s.sramErrs := rfl
@[simp] theorem setGroup_ecc (k : Nat) (g : Group) : (setGroup s k g).ecc = s.ecc := rfl
@[simp] theorem setGroup_softErrs (k : Nat) (g : Group) : (setGroup s k g).softErrs = s.softErrs := rfl
@[simp] theorem setGroup_frameErrs (k : Nat) (g : Group) : (setGroup s k g).frameErrs = s.frameErrs := rfl
@[simp] theorem setGroup_lineErrs (k : Nat) (g : Group) : (setGroup s k g).lineErrs = s.lineErrs := rfl
@[simp] theorem setGroup_unusable (k : Nat) (g : Group) : (setGroup s k g).unusable = s.unusable := rfl
@[simp] theorem setGroup_postFailed (k : Nat) (g : Group) : (setGroup s k g).postFailed = s.postFailed := rfl
@[simp] theorem setGroup_wiping (k : Nat) (g : Group) : (setGroup s k g).wiping = s.wiping := rfl
@[simp] theorem setGroup_evq (k : Nat) (g : Group) : (setGroup s k g).evq = s.evq := rfl
@[simp] theorem setGroup_lateDone (k : Nat) (g : Group) : (setGroup s k g).lateDone = s.lateDone := rfl
@[simp] theorem setGroup_books (k : Nat) (g : Group) : (setGroup s k g).books = s.books := rfl
@[simp] theorem setGroup_stale (k : Nat) (g : Group) : (setGroup s k g).stale = s.stale := rfl
@[simp] theorem setGroup_served (k : Nat) (g : Group) : (setGroup s k g).served = s.served := rfl
@[simp] theorem setGroup_gangs (k : Nat) (g : Group) : (setGroup s k g).gangs = s.gangs := rfl

@[simp] theorem setBlock_clock (k : Nat) (b : Block) : (setBlock s k b).clock = s.clock := rfl
@[simp] theorem setBlock_era (k : Nat) (b : Block) : (setBlock s k b).era = s.era := rfl
@[simp] theorem setBlock_freeCtr (k : Nat) (b : Block) : (setBlock s k b).freeCtr = s.freeCtr := rfl
@[simp] theorem setBlock_turns (k : Nat) (b : Block) : (setBlock s k b).turns = s.turns := rfl
@[simp] theorem setBlock_rr (k : Nat) (b : Block) : (setBlock s k b).rr = s.rr := rfl
@[simp] theorem setBlock_flip (k : Nat) (b : Block) : (setBlock s k b).flip = s.flip := rfl
@[simp] theorem setBlock_cur (k : Nat) (b : Block) : (setBlock s k b).cur = s.cur := rfl
@[simp] theorem setBlock_nextId (k : Nat) (b : Block) : (setBlock s k b).nextId = s.nextId := rfl
@[simp] theorem setBlock_shut (k : Nat) (b : Block) : (setBlock s k b).shut = s.shut := rfl
@[simp] theorem setBlock_resetUntil (k : Nat) (b : Block) : (setBlock s k b).resetUntil = s.resetUntil := rfl
@[simp] theorem setBlock_mem (k : Nat) (b : Block) : (setBlock s k b).mem = s.mem := rfl
@[simp] theorem setBlock_bad (k : Nat) (b : Block) : (setBlock s k b).bad = s.bad := rfl
@[simp] theorem setBlock_latent (k : Nat) (b : Block) : (setBlock s k b).latent = s.latent := rfl
@[simp] theorem setBlock_failing (k : Nat) (b : Block) : (setBlock s k b).failing = s.failing := rfl
@[simp] theorem setBlock_anchors (k : Nat) (b : Block) : (setBlock s k b).anchors = s.anchors := rfl
@[simp] theorem setBlock_frames (k : Nat) (b : Block) : (setBlock s k b).frames = s.frames := rfl
@[simp] theorem setBlock_aperts (k : Nat) (b : Block) : (setBlock s k b).aperts = s.aperts := rfl
@[simp] theorem setBlock_pageOps (k : Nat) (b : Block) : (setBlock s k b).pageOps = s.pageOps := rfl
@[simp] theorem setBlock_ctxs (k : Nat) (b : Block) : (setBlock s k b).ctxs = s.ctxs := rfl
@[simp] theorem setBlock_keys (k : Nat) (b : Block) : (setBlock s k b).keys = s.keys := rfl
@[simp] theorem setBlock_queues (k : Nat) (b : Block) : (setBlock s k b).queues = s.queues := rfl
@[simp] theorem setBlock_drops (k : Nat) (b : Block) : (setBlock s k b).drops = s.drops := rfl
@[simp] theorem setBlock_eps (k : Nat) (b : Block) : (setBlock s k b).eps = s.eps := rfl
@[simp] theorem setBlock_launches (k : Nat) (b : Block) : (setBlock s k b).launches = s.launches := rfl
@[simp] theorem setBlock_clusters (k : Nat) (b : Block) : (setBlock s k b).clusters = s.clusters := rfl
@[simp] theorem setBlock_blocks (k : Nat) (b : Block) : (setBlock s k b).blocks = aset s.blocks k b := rfl
@[simp] theorem setBlock_groups (k : Nat) (b : Block) : (setBlock s k b).groups = s.groups := rfl
@[simp] theorem setBlock_latches (k : Nat) (b : Block) : (setBlock s k b).latches = s.latches := rfl
@[simp] theorem setBlock_rot (k : Nat) (b : Block) : (setBlock s k b).rot = s.rot := rfl
@[simp] theorem setBlock_samples (k : Nat) (b : Block) : (setBlock s k b).samples = s.samples := rfl
@[simp] theorem setBlock_part (k : Nat) (b : Block) : (setBlock s k b).part = s.part := rfl
@[simp] theorem setBlock_partCfg (k : Nat) (b : Block) : (setBlock s k b).partCfg = s.partCfg := rfl
@[simp] theorem setBlock_lastBay (k : Nat) (b : Block) : (setBlock s k b).lastBay = s.lastBay := rfl
@[simp] theorem setBlock_fuse (k : Nat) (b : Block) : (setBlock s k b).fuse = s.fuse := rfl
@[simp] theorem setBlock_retired (k : Nat) (b : Block) : (setBlock s k b).retired = s.retired := rfl
@[simp] theorem setBlock_retiredFrames (k : Nat) (b : Block) : (setBlock s k b).retiredFrames = s.retiredFrames := rfl
@[simp] theorem setBlock_ltp (k : Nat) (b : Block) : (setBlock s k b).ltp = s.ltp := rfl
@[simp] theorem setBlock_draining (k : Nat) (b : Block) : (setBlock s k b).draining = s.draining := rfl
@[simp] theorem setBlock_life (k : Nat) (b : Block) : (setBlock s k b).life = s.life := rfl
@[simp] theorem setBlock_firmware (k : Nat) (b : Block) : (setBlock s k b).firmware = s.firmware := rfl
@[simp] theorem setBlock_fused (k : Nat) (b : Block) : (setBlock s k b).fused = s.fused := rfl
@[simp] theorem setBlock_keyHash (k : Nat) (b : Block) : (setBlock s k b).keyHash = s.keyHash := rfl
@[simp] theorem setBlock_identity (k : Nat) (b : Block) : (setBlock s k b).identity = s.identity := rfl
@[simp] theorem setBlock_log (k : Nat) (b : Block) : (setBlock s k b).log = s.log := rfl
@[simp] theorem setBlock_answers (k : Nat) (b : Block) : (setBlock s k b).answers = s.answers := rfl
@[simp] theorem setBlock_dir (k : Nat) (b : Block) : (setBlock s k b).dir = s.dir := rfl
@[simp] theorem setBlock_rmap (k : Nat) (b : Block) : (setBlock s k b).rmap = s.rmap := rfl
@[simp] theorem setBlock_tables (k : Nat) (b : Block) : (setBlock s k b).tables = s.tables := rfl
@[simp] theorem setBlock_cohErrs (k : Nat) (b : Block) : (setBlock s k b).cohErrs = s.cohErrs := rfl
@[simp] theorem setBlock_upd (k : Nat) (b : Block) : (setBlock s k b).upd = s.upd := rfl
@[simp] theorem setBlock_posted (k : Nat) (b : Block) : (setBlock s k b).posted = s.posted := rfl
@[simp] theorem setBlock_lostPeers (k : Nat) (b : Block) : (setBlock s k b).lostPeers = s.lostPeers := rfl
@[simp] theorem setBlock_lostUpd (k : Nat) (b : Block) : (setBlock s k b).lostUpd = s.lostUpd := rfl
@[simp] theorem setBlock_ncOut (k : Nat) (b : Block) : (setBlock s k b).ncOut = s.ncOut := rfl
@[simp] theorem setBlock_podSplit (k : Nat) (b : Block) : (setBlock s k b).podSplit = s.podSplit := rfl
@[simp] theorem setBlock_uports (k : Nat) (b : Block) : (setBlock s k b).uports = s.uports := rfl
@[simp] theorem setBlock_pports (k : Nat) (b : Block) : (setBlock s k b).pports = s.pports := rfl
@[simp] theorem setBlock_drains (k : Nat) (b : Block) : (setBlock s k b).drains = s.drains := rfl
@[simp] theorem setBlock_uaOut (k : Nat) (b : Block) : (setBlock s k b).uaOut = s.uaOut := rfl
@[simp] theorem setBlock_podPos (k : Nat) (b : Block) : (setBlock s k b).podPos = s.podPos := rfl
@[simp] theorem setBlock_reach (k : Nat) (b : Block) : (setBlock s k b).reach = s.reach := rfl
@[simp] theorem setBlock_lastLsu (k : Nat) (b : Block) : (setBlock s k b).lastLsu = s.lastLsu := rfl
@[simp] theorem setBlock_lsuSeq (k : Nat) (b : Block) : (setBlock s k b).lsuSeq = s.lsuSeq := rfl
@[simp] theorem setBlock_lsuOut (k : Nat) (b : Block) : (setBlock s k b).lsuOut = s.lsuOut := rfl
@[simp] theorem setBlock_rounds (k : Nat) (b : Block) : (setBlock s k b).rounds = s.rounds := rfl
@[simp] theorem setBlock_collOut (k : Nat) (b : Block) : (setBlock s k b).collOut = s.collOut := rfl
@[simp] theorem setBlock_health (k : Nat) (b : Block) : (setBlock s k b).health = s.health := rfl
@[simp] theorem setBlock_warmAt (k : Nat) (b : Block) : (setBlock s k b).warmAt = s.warmAt := rfl
@[simp] theorem setBlock_rehearsing (k : Nat) (b : Block) : (setBlock s k b).rehearsing = s.rehearsing := rfl
@[simp] theorem setBlock_rehearseOn (k : Nat) (b : Block) : (setBlock s k b).rehearseOn = s.rehearseOn := rfl
@[simp] theorem setBlock_rehearseDue (k : Nat) (b : Block) : (setBlock s k b).rehearseDue = s.rehearseDue := rfl
@[simp] theorem setBlock_rehearseLast (k : Nat) (b : Block) : (setBlock s k b).rehearseLast = s.rehearseLast := rfl
@[simp] theorem setBlock_skips (k : Nat) (b : Block) : (setBlock s k b).skips = s.skips := rfl
@[simp] theorem setBlock_sigErrs (k : Nat) (b : Block) : (setBlock s k b).sigErrs = s.sigErrs := rfl
@[simp] theorem setBlock_sramErrs (k : Nat) (b : Block) : (setBlock s k b).sramErrs = s.sramErrs := rfl
@[simp] theorem setBlock_ecc (k : Nat) (b : Block) : (setBlock s k b).ecc = s.ecc := rfl
@[simp] theorem setBlock_softErrs (k : Nat) (b : Block) : (setBlock s k b).softErrs = s.softErrs := rfl
@[simp] theorem setBlock_frameErrs (k : Nat) (b : Block) : (setBlock s k b).frameErrs = s.frameErrs := rfl
@[simp] theorem setBlock_lineErrs (k : Nat) (b : Block) : (setBlock s k b).lineErrs = s.lineErrs := rfl
@[simp] theorem setBlock_unusable (k : Nat) (b : Block) : (setBlock s k b).unusable = s.unusable := rfl
@[simp] theorem setBlock_postFailed (k : Nat) (b : Block) : (setBlock s k b).postFailed = s.postFailed := rfl
@[simp] theorem setBlock_wiping (k : Nat) (b : Block) : (setBlock s k b).wiping = s.wiping := rfl
@[simp] theorem setBlock_evq (k : Nat) (b : Block) : (setBlock s k b).evq = s.evq := rfl
@[simp] theorem setBlock_lateDone (k : Nat) (b : Block) : (setBlock s k b).lateDone = s.lateDone := rfl
@[simp] theorem setBlock_books (k : Nat) (b : Block) : (setBlock s k b).books = s.books := rfl
@[simp] theorem setBlock_stale (k : Nat) (b : Block) : (setBlock s k b).stale = s.stale := rfl
@[simp] theorem setBlock_served (k : Nat) (b : Block) : (setBlock s k b).served = s.served := rfl
@[simp] theorem setBlock_gangs (k : Nat) (b : Block) : (setBlock s k b).gangs = s.gangs := rfl

@[simp] theorem modGroup_clock (k : Nat) (f : Group → Group) : (modGroup s k f).clock = s.clock := rfl
@[simp] theorem modGroup_era (k : Nat) (f : Group → Group) : (modGroup s k f).era = s.era := rfl
@[simp] theorem modGroup_freeCtr (k : Nat) (f : Group → Group) : (modGroup s k f).freeCtr = s.freeCtr := rfl
@[simp] theorem modGroup_turns (k : Nat) (f : Group → Group) : (modGroup s k f).turns = s.turns := rfl
@[simp] theorem modGroup_rr (k : Nat) (f : Group → Group) : (modGroup s k f).rr = s.rr := rfl
@[simp] theorem modGroup_flip (k : Nat) (f : Group → Group) : (modGroup s k f).flip = s.flip := rfl
@[simp] theorem modGroup_cur (k : Nat) (f : Group → Group) : (modGroup s k f).cur = s.cur := rfl
@[simp] theorem modGroup_nextId (k : Nat) (f : Group → Group) : (modGroup s k f).nextId = s.nextId := rfl
@[simp] theorem modGroup_shut (k : Nat) (f : Group → Group) : (modGroup s k f).shut = s.shut := rfl
@[simp] theorem modGroup_resetUntil (k : Nat) (f : Group → Group) : (modGroup s k f).resetUntil = s.resetUntil := rfl
@[simp] theorem modGroup_mem (k : Nat) (f : Group → Group) : (modGroup s k f).mem = s.mem := rfl
@[simp] theorem modGroup_bad (k : Nat) (f : Group → Group) : (modGroup s k f).bad = s.bad := rfl
@[simp] theorem modGroup_latent (k : Nat) (f : Group → Group) : (modGroup s k f).latent = s.latent := rfl
@[simp] theorem modGroup_failing (k : Nat) (f : Group → Group) : (modGroup s k f).failing = s.failing := rfl
@[simp] theorem modGroup_anchors (k : Nat) (f : Group → Group) : (modGroup s k f).anchors = s.anchors := rfl
@[simp] theorem modGroup_frames (k : Nat) (f : Group → Group) : (modGroup s k f).frames = s.frames := rfl
@[simp] theorem modGroup_aperts (k : Nat) (f : Group → Group) : (modGroup s k f).aperts = s.aperts := rfl
@[simp] theorem modGroup_pageOps (k : Nat) (f : Group → Group) : (modGroup s k f).pageOps = s.pageOps := rfl
@[simp] theorem modGroup_ctxs (k : Nat) (f : Group → Group) : (modGroup s k f).ctxs = s.ctxs := rfl
@[simp] theorem modGroup_keys (k : Nat) (f : Group → Group) : (modGroup s k f).keys = s.keys := rfl
@[simp] theorem modGroup_queues (k : Nat) (f : Group → Group) : (modGroup s k f).queues = s.queues := rfl
@[simp] theorem modGroup_drops (k : Nat) (f : Group → Group) : (modGroup s k f).drops = s.drops := rfl
@[simp] theorem modGroup_eps (k : Nat) (f : Group → Group) : (modGroup s k f).eps = s.eps := rfl
@[simp] theorem modGroup_launches (k : Nat) (f : Group → Group) : (modGroup s k f).launches = s.launches := rfl
@[simp] theorem modGroup_clusters (k : Nat) (f : Group → Group) : (modGroup s k f).clusters = s.clusters := rfl
@[simp] theorem modGroup_blocks (k : Nat) (f : Group → Group) : (modGroup s k f).blocks = s.blocks := rfl
@[simp] theorem modGroup_groups (k : Nat) (f : Group → Group) : (modGroup s k f).groups = amod s.groups k f := rfl
@[simp] theorem modGroup_latches (k : Nat) (f : Group → Group) : (modGroup s k f).latches = s.latches := rfl
@[simp] theorem modGroup_rot (k : Nat) (f : Group → Group) : (modGroup s k f).rot = s.rot := rfl
@[simp] theorem modGroup_samples (k : Nat) (f : Group → Group) : (modGroup s k f).samples = s.samples := rfl
@[simp] theorem modGroup_part (k : Nat) (f : Group → Group) : (modGroup s k f).part = s.part := rfl
@[simp] theorem modGroup_partCfg (k : Nat) (f : Group → Group) : (modGroup s k f).partCfg = s.partCfg := rfl
@[simp] theorem modGroup_lastBay (k : Nat) (f : Group → Group) : (modGroup s k f).lastBay = s.lastBay := rfl
@[simp] theorem modGroup_fuse (k : Nat) (f : Group → Group) : (modGroup s k f).fuse = s.fuse := rfl
@[simp] theorem modGroup_retired (k : Nat) (f : Group → Group) : (modGroup s k f).retired = s.retired := rfl
@[simp] theorem modGroup_retiredFrames (k : Nat) (f : Group → Group) : (modGroup s k f).retiredFrames = s.retiredFrames := rfl
@[simp] theorem modGroup_ltp (k : Nat) (f : Group → Group) : (modGroup s k f).ltp = s.ltp := rfl
@[simp] theorem modGroup_draining (k : Nat) (f : Group → Group) : (modGroup s k f).draining = s.draining := rfl
@[simp] theorem modGroup_life (k : Nat) (f : Group → Group) : (modGroup s k f).life = s.life := rfl
@[simp] theorem modGroup_firmware (k : Nat) (f : Group → Group) : (modGroup s k f).firmware = s.firmware := rfl
@[simp] theorem modGroup_fused (k : Nat) (f : Group → Group) : (modGroup s k f).fused = s.fused := rfl
@[simp] theorem modGroup_keyHash (k : Nat) (f : Group → Group) : (modGroup s k f).keyHash = s.keyHash := rfl
@[simp] theorem modGroup_identity (k : Nat) (f : Group → Group) : (modGroup s k f).identity = s.identity := rfl
@[simp] theorem modGroup_log (k : Nat) (f : Group → Group) : (modGroup s k f).log = s.log := rfl
@[simp] theorem modGroup_answers (k : Nat) (f : Group → Group) : (modGroup s k f).answers = s.answers := rfl
@[simp] theorem modGroup_dir (k : Nat) (f : Group → Group) : (modGroup s k f).dir = s.dir := rfl
@[simp] theorem modGroup_rmap (k : Nat) (f : Group → Group) : (modGroup s k f).rmap = s.rmap := rfl
@[simp] theorem modGroup_tables (k : Nat) (f : Group → Group) : (modGroup s k f).tables = s.tables := rfl
@[simp] theorem modGroup_cohErrs (k : Nat) (f : Group → Group) : (modGroup s k f).cohErrs = s.cohErrs := rfl
@[simp] theorem modGroup_upd (k : Nat) (f : Group → Group) : (modGroup s k f).upd = s.upd := rfl
@[simp] theorem modGroup_posted (k : Nat) (f : Group → Group) : (modGroup s k f).posted = s.posted := rfl
@[simp] theorem modGroup_lostPeers (k : Nat) (f : Group → Group) : (modGroup s k f).lostPeers = s.lostPeers := rfl
@[simp] theorem modGroup_lostUpd (k : Nat) (f : Group → Group) : (modGroup s k f).lostUpd = s.lostUpd := rfl
@[simp] theorem modGroup_ncOut (k : Nat) (f : Group → Group) : (modGroup s k f).ncOut = s.ncOut := rfl
@[simp] theorem modGroup_podSplit (k : Nat) (f : Group → Group) : (modGroup s k f).podSplit = s.podSplit := rfl
@[simp] theorem modGroup_uports (k : Nat) (f : Group → Group) : (modGroup s k f).uports = s.uports := rfl
@[simp] theorem modGroup_pports (k : Nat) (f : Group → Group) : (modGroup s k f).pports = s.pports := rfl
@[simp] theorem modGroup_drains (k : Nat) (f : Group → Group) : (modGroup s k f).drains = s.drains := rfl
@[simp] theorem modGroup_uaOut (k : Nat) (f : Group → Group) : (modGroup s k f).uaOut = s.uaOut := rfl
@[simp] theorem modGroup_podPos (k : Nat) (f : Group → Group) : (modGroup s k f).podPos = s.podPos := rfl
@[simp] theorem modGroup_reach (k : Nat) (f : Group → Group) : (modGroup s k f).reach = s.reach := rfl
@[simp] theorem modGroup_lastLsu (k : Nat) (f : Group → Group) : (modGroup s k f).lastLsu = s.lastLsu := rfl
@[simp] theorem modGroup_lsuSeq (k : Nat) (f : Group → Group) : (modGroup s k f).lsuSeq = s.lsuSeq := rfl
@[simp] theorem modGroup_lsuOut (k : Nat) (f : Group → Group) : (modGroup s k f).lsuOut = s.lsuOut := rfl
@[simp] theorem modGroup_rounds (k : Nat) (f : Group → Group) : (modGroup s k f).rounds = s.rounds := rfl
@[simp] theorem modGroup_collOut (k : Nat) (f : Group → Group) : (modGroup s k f).collOut = s.collOut := rfl
@[simp] theorem modGroup_health (k : Nat) (f : Group → Group) : (modGroup s k f).health = s.health := rfl
@[simp] theorem modGroup_warmAt (k : Nat) (f : Group → Group) : (modGroup s k f).warmAt = s.warmAt := rfl
@[simp] theorem modGroup_rehearsing (k : Nat) (f : Group → Group) : (modGroup s k f).rehearsing = s.rehearsing := rfl
@[simp] theorem modGroup_rehearseOn (k : Nat) (f : Group → Group) : (modGroup s k f).rehearseOn = s.rehearseOn := rfl
@[simp] theorem modGroup_rehearseDue (k : Nat) (f : Group → Group) : (modGroup s k f).rehearseDue = s.rehearseDue := rfl
@[simp] theorem modGroup_rehearseLast (k : Nat) (f : Group → Group) : (modGroup s k f).rehearseLast = s.rehearseLast := rfl
@[simp] theorem modGroup_skips (k : Nat) (f : Group → Group) : (modGroup s k f).skips = s.skips := rfl
@[simp] theorem modGroup_sigErrs (k : Nat) (f : Group → Group) : (modGroup s k f).sigErrs = s.sigErrs := rfl
@[simp] theorem modGroup_sramErrs (k : Nat) (f : Group → Group) : (modGroup s k f).sramErrs = s.sramErrs := rfl
@[simp] theorem modGroup_ecc (k : Nat) (f : Group → Group) : (modGroup s k f).ecc = s.ecc := rfl
@[simp] theorem modGroup_softErrs (k : Nat) (f : Group → Group) : (modGroup s k f).softErrs = s.softErrs := rfl
@[simp] theorem modGroup_frameErrs (k : Nat) (f : Group → Group) : (modGroup s k f).frameErrs = s.frameErrs := rfl
@[simp] theorem modGroup_lineErrs (k : Nat) (f : Group → Group) : (modGroup s k f).lineErrs = s.lineErrs := rfl
@[simp] theorem modGroup_unusable (k : Nat) (f : Group → Group) : (modGroup s k f).unusable = s.unusable := rfl
@[simp] theorem modGroup_postFailed (k : Nat) (f : Group → Group) : (modGroup s k f).postFailed = s.postFailed := rfl
@[simp] theorem modGroup_wiping (k : Nat) (f : Group → Group) : (modGroup s k f).wiping = s.wiping := rfl
@[simp] theorem modGroup_evq (k : Nat) (f : Group → Group) : (modGroup s k f).evq = s.evq := rfl
@[simp] theorem modGroup_lateDone (k : Nat) (f : Group → Group) : (modGroup s k f).lateDone = s.lateDone := rfl
@[simp] theorem modGroup_books (k : Nat) (f : Group → Group) : (modGroup s k f).books = s.books := rfl
@[simp] theorem modGroup_stale (k : Nat) (f : Group → Group) : (modGroup s k f).stale = s.stale := rfl
@[simp] theorem modGroup_served (k : Nat) (f : Group → Group) : (modGroup s k f).served = s.served := rfl
@[simp] theorem modGroup_gangs (k : Nat) (f : Group → Group) : (modGroup s k f).gangs = s.gangs := rfl

@[simp] theorem setRounds_clock (c e : Nat) (r : Rounds) : (setRounds s c e r).clock = s.clock := rfl
@[simp] theorem setRounds_era (c e : Nat) (r : Rounds) : (setRounds s c e r).era = s.era := rfl
@[simp] theorem setRounds_freeCtr (c e : Nat) (r : Rounds) : (setRounds s c e r).freeCtr = s.freeCtr := rfl
@[simp] theorem setRounds_turns (c e : Nat) (r : Rounds) : (setRounds s c e r).turns = s.turns := rfl
@[simp] theorem setRounds_rr (c e : Nat) (r : Rounds) : (setRounds s c e r).rr = s.rr := rfl
@[simp] theorem setRounds_flip (c e : Nat) (r : Rounds) : (setRounds s c e r).flip = s.flip := rfl
@[simp] theorem setRounds_cur (c e : Nat) (r : Rounds) : (setRounds s c e r).cur = s.cur := rfl
@[simp] theorem setRounds_nextId (c e : Nat) (r : Rounds) : (setRounds s c e r).nextId = s.nextId := rfl
@[simp] theorem setRounds_shut (c e : Nat) (r : Rounds) : (setRounds s c e r).shut = s.shut := rfl
@[simp] theorem setRounds_resetUntil (c e : Nat) (r : Rounds) : (setRounds s c e r).resetUntil = s.resetUntil := rfl
@[simp] theorem setRounds_mem (c e : Nat) (r : Rounds) : (setRounds s c e r).mem = s.mem := rfl
@[simp] theorem setRounds_bad (c e : Nat) (r : Rounds) : (setRounds s c e r).bad = s.bad := rfl
@[simp] theorem setRounds_latent (c e : Nat) (r : Rounds) : (setRounds s c e r).latent = s.latent := rfl
@[simp] theorem setRounds_failing (c e : Nat) (r : Rounds) : (setRounds s c e r).failing = s.failing := rfl
@[simp] theorem setRounds_anchors (c e : Nat) (r : Rounds) : (setRounds s c e r).anchors = s.anchors := rfl
@[simp] theorem setRounds_frames (c e : Nat) (r : Rounds) : (setRounds s c e r).frames = s.frames := rfl
@[simp] theorem setRounds_aperts (c e : Nat) (r : Rounds) : (setRounds s c e r).aperts = s.aperts := rfl
@[simp] theorem setRounds_pageOps (c e : Nat) (r : Rounds) : (setRounds s c e r).pageOps = s.pageOps := rfl
@[simp] theorem setRounds_ctxs (c e : Nat) (r : Rounds) : (setRounds s c e r).ctxs = s.ctxs := rfl
@[simp] theorem setRounds_keys (c e : Nat) (r : Rounds) : (setRounds s c e r).keys = s.keys := rfl
@[simp] theorem setRounds_queues (c e : Nat) (r : Rounds) : (setRounds s c e r).queues = s.queues := rfl
@[simp] theorem setRounds_drops (c e : Nat) (r : Rounds) : (setRounds s c e r).drops = s.drops := rfl
@[simp] theorem setRounds_eps (c e : Nat) (r : Rounds) : (setRounds s c e r).eps = s.eps := rfl
@[simp] theorem setRounds_launches (c e : Nat) (r : Rounds) : (setRounds s c e r).launches = s.launches := rfl
@[simp] theorem setRounds_clusters (c e : Nat) (r : Rounds) : (setRounds s c e r).clusters = s.clusters := rfl
@[simp] theorem setRounds_blocks (c e : Nat) (r : Rounds) : (setRounds s c e r).blocks = s.blocks := rfl
@[simp] theorem setRounds_groups (c e : Nat) (r : Rounds) : (setRounds s c e r).groups = s.groups := rfl
@[simp] theorem setRounds_latches (c e : Nat) (r : Rounds) : (setRounds s c e r).latches = s.latches := rfl
@[simp] theorem setRounds_rot (c e : Nat) (r : Rounds) : (setRounds s c e r).rot = s.rot := rfl
@[simp] theorem setRounds_samples (c e : Nat) (r : Rounds) : (setRounds s c e r).samples = s.samples := rfl
@[simp] theorem setRounds_part (c e : Nat) (r : Rounds) : (setRounds s c e r).part = s.part := rfl
@[simp] theorem setRounds_partCfg (c e : Nat) (r : Rounds) : (setRounds s c e r).partCfg = s.partCfg := rfl
@[simp] theorem setRounds_lastBay (c e : Nat) (r : Rounds) : (setRounds s c e r).lastBay = s.lastBay := rfl
@[simp] theorem setRounds_fuse (c e : Nat) (r : Rounds) : (setRounds s c e r).fuse = s.fuse := rfl
@[simp] theorem setRounds_retired (c e : Nat) (r : Rounds) : (setRounds s c e r).retired = s.retired := rfl
@[simp] theorem setRounds_retiredFrames (c e : Nat) (r : Rounds) : (setRounds s c e r).retiredFrames = s.retiredFrames := rfl
@[simp] theorem setRounds_ltp (c e : Nat) (r : Rounds) : (setRounds s c e r).ltp = s.ltp := rfl
@[simp] theorem setRounds_draining (c e : Nat) (r : Rounds) : (setRounds s c e r).draining = s.draining := rfl
@[simp] theorem setRounds_life (c e : Nat) (r : Rounds) : (setRounds s c e r).life = s.life := rfl
@[simp] theorem setRounds_firmware (c e : Nat) (r : Rounds) : (setRounds s c e r).firmware = s.firmware := rfl
@[simp] theorem setRounds_fused (c e : Nat) (r : Rounds) : (setRounds s c e r).fused = s.fused := rfl
@[simp] theorem setRounds_keyHash (c e : Nat) (r : Rounds) : (setRounds s c e r).keyHash = s.keyHash := rfl
@[simp] theorem setRounds_identity (c e : Nat) (r : Rounds) : (setRounds s c e r).identity = s.identity := rfl
@[simp] theorem setRounds_log (c e : Nat) (r : Rounds) : (setRounds s c e r).log = s.log := rfl
@[simp] theorem setRounds_answers (c e : Nat) (r : Rounds) : (setRounds s c e r).answers = s.answers := rfl
@[simp] theorem setRounds_dir (c e : Nat) (r : Rounds) : (setRounds s c e r).dir = s.dir := rfl
@[simp] theorem setRounds_rmap (c e : Nat) (r : Rounds) : (setRounds s c e r).rmap = s.rmap := rfl
@[simp] theorem setRounds_tables (c e : Nat) (r : Rounds) : (setRounds s c e r).tables = s.tables := rfl
@[simp] theorem setRounds_cohErrs (c e : Nat) (r : Rounds) : (setRounds s c e r).cohErrs = s.cohErrs := rfl
@[simp] theorem setRounds_upd (c e : Nat) (r : Rounds) : (setRounds s c e r).upd = s.upd := rfl
@[simp] theorem setRounds_posted (c e : Nat) (r : Rounds) : (setRounds s c e r).posted = s.posted := rfl
@[simp] theorem setRounds_lostPeers (c e : Nat) (r : Rounds) : (setRounds s c e r).lostPeers = s.lostPeers := rfl
@[simp] theorem setRounds_lostUpd (c e : Nat) (r : Rounds) : (setRounds s c e r).lostUpd = s.lostUpd := rfl
@[simp] theorem setRounds_ncOut (c e : Nat) (r : Rounds) : (setRounds s c e r).ncOut = s.ncOut := rfl
@[simp] theorem setRounds_podSplit (c e : Nat) (r : Rounds) : (setRounds s c e r).podSplit = s.podSplit := rfl
@[simp] theorem setRounds_uports (c e : Nat) (r : Rounds) : (setRounds s c e r).uports = s.uports := rfl
@[simp] theorem setRounds_pports (c e : Nat) (r : Rounds) : (setRounds s c e r).pports = s.pports := rfl
@[simp] theorem setRounds_drains (c e : Nat) (r : Rounds) : (setRounds s c e r).drains = s.drains := rfl
@[simp] theorem setRounds_uaOut (c e : Nat) (r : Rounds) : (setRounds s c e r).uaOut = s.uaOut := rfl
@[simp] theorem setRounds_podPos (c e : Nat) (r : Rounds) : (setRounds s c e r).podPos = s.podPos := rfl
@[simp] theorem setRounds_reach (c e : Nat) (r : Rounds) : (setRounds s c e r).reach = s.reach := rfl
@[simp] theorem setRounds_lastLsu (c e : Nat) (r : Rounds) : (setRounds s c e r).lastLsu = s.lastLsu := rfl
@[simp] theorem setRounds_lsuSeq (c e : Nat) (r : Rounds) : (setRounds s c e r).lsuSeq = s.lsuSeq := rfl
@[simp] theorem setRounds_lsuOut (c e : Nat) (r : Rounds) : (setRounds s c e r).lsuOut = s.lsuOut := rfl
@[simp] theorem setRounds_rounds (c e : Nat) (r : Rounds) : (setRounds s c e r).rounds = asetD s.rounds (c * 512 + e) r {} := rfl
@[simp] theorem setRounds_collOut (c e : Nat) (r : Rounds) : (setRounds s c e r).collOut = s.collOut := rfl
@[simp] theorem setRounds_health (c e : Nat) (r : Rounds) : (setRounds s c e r).health = s.health := rfl
@[simp] theorem setRounds_warmAt (c e : Nat) (r : Rounds) : (setRounds s c e r).warmAt = s.warmAt := rfl
@[simp] theorem setRounds_rehearsing (c e : Nat) (r : Rounds) : (setRounds s c e r).rehearsing = s.rehearsing := rfl
@[simp] theorem setRounds_rehearseOn (c e : Nat) (r : Rounds) : (setRounds s c e r).rehearseOn = s.rehearseOn := rfl
@[simp] theorem setRounds_rehearseDue (c e : Nat) (r : Rounds) : (setRounds s c e r).rehearseDue = s.rehearseDue := rfl
@[simp] theorem setRounds_rehearseLast (c e : Nat) (r : Rounds) : (setRounds s c e r).rehearseLast = s.rehearseLast := rfl
@[simp] theorem setRounds_skips (c e : Nat) (r : Rounds) : (setRounds s c e r).skips = s.skips := rfl
@[simp] theorem setRounds_sigErrs (c e : Nat) (r : Rounds) : (setRounds s c e r).sigErrs = s.sigErrs := rfl
@[simp] theorem setRounds_sramErrs (c e : Nat) (r : Rounds) : (setRounds s c e r).sramErrs = s.sramErrs := rfl
@[simp] theorem setRounds_ecc (c e : Nat) (r : Rounds) : (setRounds s c e r).ecc = s.ecc := rfl
@[simp] theorem setRounds_softErrs (c e : Nat) (r : Rounds) : (setRounds s c e r).softErrs = s.softErrs := rfl
@[simp] theorem setRounds_frameErrs (c e : Nat) (r : Rounds) : (setRounds s c e r).frameErrs = s.frameErrs := rfl
@[simp] theorem setRounds_lineErrs (c e : Nat) (r : Rounds) : (setRounds s c e r).lineErrs = s.lineErrs := rfl
@[simp] theorem setRounds_unusable (c e : Nat) (r : Rounds) : (setRounds s c e r).unusable = s.unusable := rfl
@[simp] theorem setRounds_postFailed (c e : Nat) (r : Rounds) : (setRounds s c e r).postFailed = s.postFailed := rfl
@[simp] theorem setRounds_wiping (c e : Nat) (r : Rounds) : (setRounds s c e r).wiping = s.wiping := rfl
@[simp] theorem setRounds_evq (c e : Nat) (r : Rounds) : (setRounds s c e r).evq = s.evq := rfl
@[simp] theorem setRounds_lateDone (c e : Nat) (r : Rounds) : (setRounds s c e r).lateDone = s.lateDone := rfl
@[simp] theorem setRounds_books (c e : Nat) (r : Rounds) : (setRounds s c e r).books = s.books := rfl
@[simp] theorem setRounds_stale (c e : Nat) (r : Rounds) : (setRounds s c e r).stale = s.stale := rfl
@[simp] theorem setRounds_served (c e : Nat) (r : Rounds) : (setRounds s c e r).served = s.served := rfl
@[simp] theorem setRounds_gangs (c e : Nat) (r : Rounds) : (setRounds s c e r).gangs = s.gangs := rfl

@[simp] theorem setDir_clock (key pa : Nat) (d : DirE) : (setDir s key pa d).clock = s.clock := rfl
@[simp] theorem setDir_era (key pa : Nat) (d : DirE) : (setDir s key pa d).era = s.era := rfl
@[simp] theorem setDir_freeCtr (key pa : Nat) (d : DirE) : (setDir s key pa d).freeCtr = s.freeCtr := rfl
@[simp] theorem setDir_turns (key pa : Nat) (d : DirE) : (setDir s key pa d).turns = s.turns := rfl
@[simp] theorem setDir_rr (key pa : Nat) (d : DirE) : (setDir s key pa d).rr = s.rr := rfl
@[simp] theorem setDir_flip (key pa : Nat) (d : DirE) : (setDir s key pa d).flip = s.flip := rfl
@[simp] theorem setDir_cur (key pa : Nat) (d : DirE) : (setDir s key pa d).cur = s.cur := rfl
@[simp] theorem setDir_nextId (key pa : Nat) (d : DirE) : (setDir s key pa d).nextId = s.nextId := rfl
@[simp] theorem setDir_shut (key pa : Nat) (d : DirE) : (setDir s key pa d).shut = s.shut := rfl
@[simp] theorem setDir_resetUntil (key pa : Nat) (d : DirE) : (setDir s key pa d).resetUntil = s.resetUntil := rfl
@[simp] theorem setDir_mem (key pa : Nat) (d : DirE) : (setDir s key pa d).mem = s.mem := rfl
@[simp] theorem setDir_bad (key pa : Nat) (d : DirE) : (setDir s key pa d).bad = s.bad := rfl
@[simp] theorem setDir_latent (key pa : Nat) (d : DirE) : (setDir s key pa d).latent = s.latent := rfl
@[simp] theorem setDir_failing (key pa : Nat) (d : DirE) : (setDir s key pa d).failing = s.failing := rfl
@[simp] theorem setDir_anchors (key pa : Nat) (d : DirE) : (setDir s key pa d).anchors = s.anchors := rfl
@[simp] theorem setDir_frames (key pa : Nat) (d : DirE) : (setDir s key pa d).frames = s.frames := rfl
@[simp] theorem setDir_aperts (key pa : Nat) (d : DirE) : (setDir s key pa d).aperts = s.aperts := rfl
@[simp] theorem setDir_pageOps (key pa : Nat) (d : DirE) : (setDir s key pa d).pageOps = s.pageOps := rfl
@[simp] theorem setDir_ctxs (key pa : Nat) (d : DirE) : (setDir s key pa d).ctxs = s.ctxs := rfl
@[simp] theorem setDir_keys (key pa : Nat) (d : DirE) : (setDir s key pa d).keys = s.keys := rfl
@[simp] theorem setDir_queues (key pa : Nat) (d : DirE) : (setDir s key pa d).queues = s.queues := rfl
@[simp] theorem setDir_drops (key pa : Nat) (d : DirE) : (setDir s key pa d).drops = s.drops := rfl
@[simp] theorem setDir_eps (key pa : Nat) (d : DirE) : (setDir s key pa d).eps = s.eps := rfl
@[simp] theorem setDir_launches (key pa : Nat) (d : DirE) : (setDir s key pa d).launches = s.launches := rfl
@[simp] theorem setDir_clusters (key pa : Nat) (d : DirE) : (setDir s key pa d).clusters = s.clusters := rfl
@[simp] theorem setDir_blocks (key pa : Nat) (d : DirE) : (setDir s key pa d).blocks = s.blocks := rfl
@[simp] theorem setDir_groups (key pa : Nat) (d : DirE) : (setDir s key pa d).groups = s.groups := rfl
@[simp] theorem setDir_latches (key pa : Nat) (d : DirE) : (setDir s key pa d).latches = s.latches := rfl
@[simp] theorem setDir_rot (key pa : Nat) (d : DirE) : (setDir s key pa d).rot = s.rot := rfl
@[simp] theorem setDir_samples (key pa : Nat) (d : DirE) : (setDir s key pa d).samples = s.samples := rfl
@[simp] theorem setDir_part (key pa : Nat) (d : DirE) : (setDir s key pa d).part = s.part := rfl
@[simp] theorem setDir_partCfg (key pa : Nat) (d : DirE) : (setDir s key pa d).partCfg = s.partCfg := rfl
@[simp] theorem setDir_lastBay (key pa : Nat) (d : DirE) : (setDir s key pa d).lastBay = s.lastBay := rfl
@[simp] theorem setDir_fuse (key pa : Nat) (d : DirE) : (setDir s key pa d).fuse = s.fuse := rfl
@[simp] theorem setDir_retired (key pa : Nat) (d : DirE) : (setDir s key pa d).retired = s.retired := rfl
@[simp] theorem setDir_retiredFrames (key pa : Nat) (d : DirE) : (setDir s key pa d).retiredFrames = s.retiredFrames := rfl
@[simp] theorem setDir_ltp (key pa : Nat) (d : DirE) : (setDir s key pa d).ltp = s.ltp := rfl
@[simp] theorem setDir_draining (key pa : Nat) (d : DirE) : (setDir s key pa d).draining = s.draining := rfl
@[simp] theorem setDir_life (key pa : Nat) (d : DirE) : (setDir s key pa d).life = s.life := rfl
@[simp] theorem setDir_firmware (key pa : Nat) (d : DirE) : (setDir s key pa d).firmware = s.firmware := rfl
@[simp] theorem setDir_fused (key pa : Nat) (d : DirE) : (setDir s key pa d).fused = s.fused := rfl
@[simp] theorem setDir_keyHash (key pa : Nat) (d : DirE) : (setDir s key pa d).keyHash = s.keyHash := rfl
@[simp] theorem setDir_identity (key pa : Nat) (d : DirE) : (setDir s key pa d).identity = s.identity := rfl
@[simp] theorem setDir_log (key pa : Nat) (d : DirE) : (setDir s key pa d).log = s.log := rfl
@[simp] theorem setDir_answers (key pa : Nat) (d : DirE) : (setDir s key pa d).answers = s.answers := rfl
@[simp] theorem setDir_dir (key pa : Nat) (d : DirE) : (setDir s key pa d).dir = asetD s.dir (dirKey key pa) d {} := rfl
@[simp] theorem setDir_rmap (key pa : Nat) (d : DirE) : (setDir s key pa d).rmap = s.rmap := rfl
@[simp] theorem setDir_tables (key pa : Nat) (d : DirE) : (setDir s key pa d).tables = s.tables := rfl
@[simp] theorem setDir_cohErrs (key pa : Nat) (d : DirE) : (setDir s key pa d).cohErrs = s.cohErrs := rfl
@[simp] theorem setDir_upd (key pa : Nat) (d : DirE) : (setDir s key pa d).upd = s.upd := rfl
@[simp] theorem setDir_posted (key pa : Nat) (d : DirE) : (setDir s key pa d).posted = s.posted := rfl
@[simp] theorem setDir_lostPeers (key pa : Nat) (d : DirE) : (setDir s key pa d).lostPeers = s.lostPeers := rfl
@[simp] theorem setDir_lostUpd (key pa : Nat) (d : DirE) : (setDir s key pa d).lostUpd = s.lostUpd := rfl
@[simp] theorem setDir_ncOut (key pa : Nat) (d : DirE) : (setDir s key pa d).ncOut = s.ncOut := rfl
@[simp] theorem setDir_podSplit (key pa : Nat) (d : DirE) : (setDir s key pa d).podSplit = s.podSplit := rfl
@[simp] theorem setDir_uports (key pa : Nat) (d : DirE) : (setDir s key pa d).uports = s.uports := rfl
@[simp] theorem setDir_pports (key pa : Nat) (d : DirE) : (setDir s key pa d).pports = s.pports := rfl
@[simp] theorem setDir_drains (key pa : Nat) (d : DirE) : (setDir s key pa d).drains = s.drains := rfl
@[simp] theorem setDir_uaOut (key pa : Nat) (d : DirE) : (setDir s key pa d).uaOut = s.uaOut := rfl
@[simp] theorem setDir_podPos (key pa : Nat) (d : DirE) : (setDir s key pa d).podPos = s.podPos := rfl
@[simp] theorem setDir_reach (key pa : Nat) (d : DirE) : (setDir s key pa d).reach = s.reach := rfl
@[simp] theorem setDir_lastLsu (key pa : Nat) (d : DirE) : (setDir s key pa d).lastLsu = s.lastLsu := rfl
@[simp] theorem setDir_lsuSeq (key pa : Nat) (d : DirE) : (setDir s key pa d).lsuSeq = s.lsuSeq := rfl
@[simp] theorem setDir_lsuOut (key pa : Nat) (d : DirE) : (setDir s key pa d).lsuOut = s.lsuOut := rfl
@[simp] theorem setDir_rounds (key pa : Nat) (d : DirE) : (setDir s key pa d).rounds = s.rounds := rfl
@[simp] theorem setDir_collOut (key pa : Nat) (d : DirE) : (setDir s key pa d).collOut = s.collOut := rfl
@[simp] theorem setDir_health (key pa : Nat) (d : DirE) : (setDir s key pa d).health = s.health := rfl
@[simp] theorem setDir_warmAt (key pa : Nat) (d : DirE) : (setDir s key pa d).warmAt = s.warmAt := rfl
@[simp] theorem setDir_rehearsing (key pa : Nat) (d : DirE) : (setDir s key pa d).rehearsing = s.rehearsing := rfl
@[simp] theorem setDir_rehearseOn (key pa : Nat) (d : DirE) : (setDir s key pa d).rehearseOn = s.rehearseOn := rfl
@[simp] theorem setDir_rehearseDue (key pa : Nat) (d : DirE) : (setDir s key pa d).rehearseDue = s.rehearseDue := rfl
@[simp] theorem setDir_rehearseLast (key pa : Nat) (d : DirE) : (setDir s key pa d).rehearseLast = s.rehearseLast := rfl
@[simp] theorem setDir_skips (key pa : Nat) (d : DirE) : (setDir s key pa d).skips = s.skips := rfl
@[simp] theorem setDir_sigErrs (key pa : Nat) (d : DirE) : (setDir s key pa d).sigErrs = s.sigErrs := rfl
@[simp] theorem setDir_sramErrs (key pa : Nat) (d : DirE) : (setDir s key pa d).sramErrs = s.sramErrs := rfl
@[simp] theorem setDir_ecc (key pa : Nat) (d : DirE) : (setDir s key pa d).ecc = s.ecc := rfl
@[simp] theorem setDir_softErrs (key pa : Nat) (d : DirE) : (setDir s key pa d).softErrs = s.softErrs := rfl
@[simp] theorem setDir_frameErrs (key pa : Nat) (d : DirE) : (setDir s key pa d).frameErrs = s.frameErrs := rfl
@[simp] theorem setDir_lineErrs (key pa : Nat) (d : DirE) : (setDir s key pa d).lineErrs = s.lineErrs := rfl
@[simp] theorem setDir_unusable (key pa : Nat) (d : DirE) : (setDir s key pa d).unusable = s.unusable := rfl
@[simp] theorem setDir_postFailed (key pa : Nat) (d : DirE) : (setDir s key pa d).postFailed = s.postFailed := rfl
@[simp] theorem setDir_wiping (key pa : Nat) (d : DirE) : (setDir s key pa d).wiping = s.wiping := rfl
@[simp] theorem setDir_evq (key pa : Nat) (d : DirE) : (setDir s key pa d).evq = s.evq := rfl
@[simp] theorem setDir_lateDone (key pa : Nat) (d : DirE) : (setDir s key pa d).lateDone = s.lateDone := rfl
@[simp] theorem setDir_books (key pa : Nat) (d : DirE) : (setDir s key pa d).books = s.books := rfl
@[simp] theorem setDir_stale (key pa : Nat) (d : DirE) : (setDir s key pa d).stale = s.stale := rfl
@[simp] theorem setDir_served (key pa : Nat) (d : DirE) : (setDir s key pa d).served = s.served := rfl
@[simp] theorem setDir_gangs (key pa : Nat) (d : DirE) : (setDir s key pa d).gangs = s.gangs := rfl

@[simp] theorem setBook_clock (die : Nat) (b : Book) : (setBook s die b).clock = s.clock := rfl
@[simp] theorem setBook_era (die : Nat) (b : Book) : (setBook s die b).era = s.era := rfl
@[simp] theorem setBook_freeCtr (die : Nat) (b : Book) : (setBook s die b).freeCtr = s.freeCtr := rfl
@[simp] theorem setBook_turns (die : Nat) (b : Book) : (setBook s die b).turns = s.turns := rfl
@[simp] theorem setBook_rr (die : Nat) (b : Book) : (setBook s die b).rr = s.rr := rfl
@[simp] theorem setBook_flip (die : Nat) (b : Book) : (setBook s die b).flip = s.flip := rfl
@[simp] theorem setBook_cur (die : Nat) (b : Book) : (setBook s die b).cur = s.cur := rfl
@[simp] theorem setBook_nextId (die : Nat) (b : Book) : (setBook s die b).nextId = s.nextId := rfl
@[simp] theorem setBook_shut (die : Nat) (b : Book) : (setBook s die b).shut = s.shut := rfl
@[simp] theorem setBook_resetUntil (die : Nat) (b : Book) : (setBook s die b).resetUntil = s.resetUntil := rfl
@[simp] theorem setBook_mem (die : Nat) (b : Book) : (setBook s die b).mem = s.mem := rfl
@[simp] theorem setBook_bad (die : Nat) (b : Book) : (setBook s die b).bad = s.bad := rfl
@[simp] theorem setBook_latent (die : Nat) (b : Book) : (setBook s die b).latent = s.latent := rfl
@[simp] theorem setBook_failing (die : Nat) (b : Book) : (setBook s die b).failing = s.failing := rfl
@[simp] theorem setBook_anchors (die : Nat) (b : Book) : (setBook s die b).anchors = s.anchors := rfl
@[simp] theorem setBook_frames (die : Nat) (b : Book) : (setBook s die b).frames = s.frames := rfl
@[simp] theorem setBook_aperts (die : Nat) (b : Book) : (setBook s die b).aperts = s.aperts := rfl
@[simp] theorem setBook_pageOps (die : Nat) (b : Book) : (setBook s die b).pageOps = s.pageOps := rfl
@[simp] theorem setBook_ctxs (die : Nat) (b : Book) : (setBook s die b).ctxs = s.ctxs := rfl
@[simp] theorem setBook_keys (die : Nat) (b : Book) : (setBook s die b).keys = s.keys := rfl
@[simp] theorem setBook_queues (die : Nat) (b : Book) : (setBook s die b).queues = s.queues := rfl
@[simp] theorem setBook_drops (die : Nat) (b : Book) : (setBook s die b).drops = s.drops := rfl
@[simp] theorem setBook_eps (die : Nat) (b : Book) : (setBook s die b).eps = s.eps := rfl
@[simp] theorem setBook_launches (die : Nat) (b : Book) : (setBook s die b).launches = s.launches := rfl
@[simp] theorem setBook_clusters (die : Nat) (b : Book) : (setBook s die b).clusters = s.clusters := rfl
@[simp] theorem setBook_blocks (die : Nat) (b : Book) : (setBook s die b).blocks = s.blocks := rfl
@[simp] theorem setBook_groups (die : Nat) (b : Book) : (setBook s die b).groups = s.groups := rfl
@[simp] theorem setBook_latches (die : Nat) (b : Book) : (setBook s die b).latches = s.latches := rfl
@[simp] theorem setBook_rot (die : Nat) (b : Book) : (setBook s die b).rot = s.rot := rfl
@[simp] theorem setBook_samples (die : Nat) (b : Book) : (setBook s die b).samples = s.samples := rfl
@[simp] theorem setBook_part (die : Nat) (b : Book) : (setBook s die b).part = s.part := rfl
@[simp] theorem setBook_partCfg (die : Nat) (b : Book) : (setBook s die b).partCfg = s.partCfg := rfl
@[simp] theorem setBook_lastBay (die : Nat) (b : Book) : (setBook s die b).lastBay = s.lastBay := rfl
@[simp] theorem setBook_fuse (die : Nat) (b : Book) : (setBook s die b).fuse = s.fuse := rfl
@[simp] theorem setBook_retired (die : Nat) (b : Book) : (setBook s die b).retired = s.retired := rfl
@[simp] theorem setBook_retiredFrames (die : Nat) (b : Book) : (setBook s die b).retiredFrames = s.retiredFrames := rfl
@[simp] theorem setBook_ltp (die : Nat) (b : Book) : (setBook s die b).ltp = s.ltp := rfl
@[simp] theorem setBook_draining (die : Nat) (b : Book) : (setBook s die b).draining = s.draining := rfl
@[simp] theorem setBook_life (die : Nat) (b : Book) : (setBook s die b).life = s.life := rfl
@[simp] theorem setBook_firmware (die : Nat) (b : Book) : (setBook s die b).firmware = s.firmware := rfl
@[simp] theorem setBook_fused (die : Nat) (b : Book) : (setBook s die b).fused = s.fused := rfl
@[simp] theorem setBook_keyHash (die : Nat) (b : Book) : (setBook s die b).keyHash = s.keyHash := rfl
@[simp] theorem setBook_identity (die : Nat) (b : Book) : (setBook s die b).identity = s.identity := rfl
@[simp] theorem setBook_log (die : Nat) (b : Book) : (setBook s die b).log = s.log := rfl
@[simp] theorem setBook_answers (die : Nat) (b : Book) : (setBook s die b).answers = s.answers := rfl
@[simp] theorem setBook_dir (die : Nat) (b : Book) : (setBook s die b).dir = s.dir := rfl
@[simp] theorem setBook_rmap (die : Nat) (b : Book) : (setBook s die b).rmap = s.rmap := rfl
@[simp] theorem setBook_tables (die : Nat) (b : Book) : (setBook s die b).tables = s.tables := rfl
@[simp] theorem setBook_cohErrs (die : Nat) (b : Book) : (setBook s die b).cohErrs = s.cohErrs := rfl
@[simp] theorem setBook_upd (die : Nat) (b : Book) : (setBook s die b).upd = s.upd := rfl
@[simp] theorem setBook_posted (die : Nat) (b : Book) : (setBook s die b).posted = s.posted := rfl
@[simp] theorem setBook_lostPeers (die : Nat) (b : Book) : (setBook s die b).lostPeers = s.lostPeers := rfl
@[simp] theorem setBook_lostUpd (die : Nat) (b : Book) : (setBook s die b).lostUpd = s.lostUpd := rfl
@[simp] theorem setBook_ncOut (die : Nat) (b : Book) : (setBook s die b).ncOut = s.ncOut := rfl
@[simp] theorem setBook_podSplit (die : Nat) (b : Book) : (setBook s die b).podSplit = s.podSplit := rfl
@[simp] theorem setBook_uports (die : Nat) (b : Book) : (setBook s die b).uports = s.uports := rfl
@[simp] theorem setBook_pports (die : Nat) (b : Book) : (setBook s die b).pports = s.pports := rfl
@[simp] theorem setBook_drains (die : Nat) (b : Book) : (setBook s die b).drains = s.drains := rfl
@[simp] theorem setBook_uaOut (die : Nat) (b : Book) : (setBook s die b).uaOut = s.uaOut := rfl
@[simp] theorem setBook_podPos (die : Nat) (b : Book) : (setBook s die b).podPos = s.podPos := rfl
@[simp] theorem setBook_reach (die : Nat) (b : Book) : (setBook s die b).reach = s.reach := rfl
@[simp] theorem setBook_lastLsu (die : Nat) (b : Book) : (setBook s die b).lastLsu = s.lastLsu := rfl
@[simp] theorem setBook_lsuSeq (die : Nat) (b : Book) : (setBook s die b).lsuSeq = s.lsuSeq := rfl
@[simp] theorem setBook_lsuOut (die : Nat) (b : Book) : (setBook s die b).lsuOut = s.lsuOut := rfl
@[simp] theorem setBook_rounds (die : Nat) (b : Book) : (setBook s die b).rounds = s.rounds := rfl
@[simp] theorem setBook_collOut (die : Nat) (b : Book) : (setBook s die b).collOut = s.collOut := rfl
@[simp] theorem setBook_health (die : Nat) (b : Book) : (setBook s die b).health = s.health := rfl
@[simp] theorem setBook_warmAt (die : Nat) (b : Book) : (setBook s die b).warmAt = s.warmAt := rfl
@[simp] theorem setBook_rehearsing (die : Nat) (b : Book) : (setBook s die b).rehearsing = s.rehearsing := rfl
@[simp] theorem setBook_rehearseOn (die : Nat) (b : Book) : (setBook s die b).rehearseOn = s.rehearseOn := rfl
@[simp] theorem setBook_rehearseDue (die : Nat) (b : Book) : (setBook s die b).rehearseDue = s.rehearseDue := rfl
@[simp] theorem setBook_rehearseLast (die : Nat) (b : Book) : (setBook s die b).rehearseLast = s.rehearseLast := rfl
@[simp] theorem setBook_skips (die : Nat) (b : Book) : (setBook s die b).skips = s.skips := rfl
@[simp] theorem setBook_sigErrs (die : Nat) (b : Book) : (setBook s die b).sigErrs = s.sigErrs := rfl
@[simp] theorem setBook_sramErrs (die : Nat) (b : Book) : (setBook s die b).sramErrs = s.sramErrs := rfl
@[simp] theorem setBook_ecc (die : Nat) (b : Book) : (setBook s die b).ecc = s.ecc := rfl
@[simp] theorem setBook_softErrs (die : Nat) (b : Book) : (setBook s die b).softErrs = s.softErrs := rfl
@[simp] theorem setBook_frameErrs (die : Nat) (b : Book) : (setBook s die b).frameErrs = s.frameErrs := rfl
@[simp] theorem setBook_lineErrs (die : Nat) (b : Book) : (setBook s die b).lineErrs = s.lineErrs := rfl
@[simp] theorem setBook_unusable (die : Nat) (b : Book) : (setBook s die b).unusable = s.unusable := rfl
@[simp] theorem setBook_postFailed (die : Nat) (b : Book) : (setBook s die b).postFailed = s.postFailed := rfl
@[simp] theorem setBook_wiping (die : Nat) (b : Book) : (setBook s die b).wiping = s.wiping := rfl
@[simp] theorem setBook_evq (die : Nat) (b : Book) : (setBook s die b).evq = s.evq := rfl
@[simp] theorem setBook_lateDone (die : Nat) (b : Book) : (setBook s die b).lateDone = s.lateDone := rfl
@[simp] theorem setBook_books (die : Nat) (b : Book) : (setBook s die b).books = asetD s.books die b {} := rfl
@[simp] theorem setBook_stale (die : Nat) (b : Book) : (setBook s die b).stale = s.stale := rfl
@[simp] theorem setBook_served (die : Nat) (b : Book) : (setBook s die b).served = s.served := rfl
@[simp] theorem setBook_gangs (die : Nat) (b : Book) : (setBook s die b).gangs = s.gangs := rfl

@[simp] theorem modPort_clock (n : Nat) (f : Port → Port) : (modPort s n f).clock = s.clock := rfl
@[simp] theorem modPort_era (n : Nat) (f : Port → Port) : (modPort s n f).era = s.era := rfl
@[simp] theorem modPort_freeCtr (n : Nat) (f : Port → Port) : (modPort s n f).freeCtr = s.freeCtr := rfl
@[simp] theorem modPort_turns (n : Nat) (f : Port → Port) : (modPort s n f).turns = s.turns := rfl
@[simp] theorem modPort_rr (n : Nat) (f : Port → Port) : (modPort s n f).rr = s.rr := rfl
@[simp] theorem modPort_flip (n : Nat) (f : Port → Port) : (modPort s n f).flip = s.flip := rfl
@[simp] theorem modPort_cur (n : Nat) (f : Port → Port) : (modPort s n f).cur = s.cur := rfl
@[simp] theorem modPort_nextId (n : Nat) (f : Port → Port) : (modPort s n f).nextId = s.nextId := rfl
@[simp] theorem modPort_shut (n : Nat) (f : Port → Port) : (modPort s n f).shut = s.shut := rfl
@[simp] theorem modPort_resetUntil (n : Nat) (f : Port → Port) : (modPort s n f).resetUntil = s.resetUntil := rfl
@[simp] theorem modPort_mem (n : Nat) (f : Port → Port) : (modPort s n f).mem = s.mem := rfl
@[simp] theorem modPort_bad (n : Nat) (f : Port → Port) : (modPort s n f).bad = s.bad := rfl
@[simp] theorem modPort_latent (n : Nat) (f : Port → Port) : (modPort s n f).latent = s.latent := rfl
@[simp] theorem modPort_failing (n : Nat) (f : Port → Port) : (modPort s n f).failing = s.failing := rfl
@[simp] theorem modPort_anchors (n : Nat) (f : Port → Port) : (modPort s n f).anchors = s.anchors := rfl
@[simp] theorem modPort_frames (n : Nat) (f : Port → Port) : (modPort s n f).frames = s.frames := rfl
@[simp] theorem modPort_aperts (n : Nat) (f : Port → Port) : (modPort s n f).aperts = s.aperts := rfl
@[simp] theorem modPort_pageOps (n : Nat) (f : Port → Port) : (modPort s n f).pageOps = s.pageOps := rfl
@[simp] theorem modPort_ctxs (n : Nat) (f : Port → Port) : (modPort s n f).ctxs = s.ctxs := rfl
@[simp] theorem modPort_keys (n : Nat) (f : Port → Port) : (modPort s n f).keys = s.keys := rfl
@[simp] theorem modPort_queues (n : Nat) (f : Port → Port) : (modPort s n f).queues = s.queues := rfl
@[simp] theorem modPort_drops (n : Nat) (f : Port → Port) : (modPort s n f).drops = s.drops := rfl
@[simp] theorem modPort_eps (n : Nat) (f : Port → Port) : (modPort s n f).eps = s.eps := rfl
@[simp] theorem modPort_launches (n : Nat) (f : Port → Port) : (modPort s n f).launches = s.launches := rfl
@[simp] theorem modPort_clusters (n : Nat) (f : Port → Port) : (modPort s n f).clusters = s.clusters := rfl
@[simp] theorem modPort_blocks (n : Nat) (f : Port → Port) : (modPort s n f).blocks = s.blocks := rfl
@[simp] theorem modPort_groups (n : Nat) (f : Port → Port) : (modPort s n f).groups = s.groups := rfl
@[simp] theorem modPort_latches (n : Nat) (f : Port → Port) : (modPort s n f).latches = s.latches := rfl
@[simp] theorem modPort_rot (n : Nat) (f : Port → Port) : (modPort s n f).rot = s.rot := rfl
@[simp] theorem modPort_samples (n : Nat) (f : Port → Port) : (modPort s n f).samples = s.samples := rfl
@[simp] theorem modPort_part (n : Nat) (f : Port → Port) : (modPort s n f).part = s.part := rfl
@[simp] theorem modPort_partCfg (n : Nat) (f : Port → Port) : (modPort s n f).partCfg = s.partCfg := rfl
@[simp] theorem modPort_lastBay (n : Nat) (f : Port → Port) : (modPort s n f).lastBay = s.lastBay := rfl
@[simp] theorem modPort_fuse (n : Nat) (f : Port → Port) : (modPort s n f).fuse = s.fuse := rfl
@[simp] theorem modPort_retired (n : Nat) (f : Port → Port) : (modPort s n f).retired = s.retired := rfl
@[simp] theorem modPort_retiredFrames (n : Nat) (f : Port → Port) : (modPort s n f).retiredFrames = s.retiredFrames := rfl
@[simp] theorem modPort_ltp (n : Nat) (f : Port → Port) : (modPort s n f).ltp = s.ltp := rfl
@[simp] theorem modPort_draining (n : Nat) (f : Port → Port) : (modPort s n f).draining = s.draining := rfl
@[simp] theorem modPort_life (n : Nat) (f : Port → Port) : (modPort s n f).life = s.life := rfl
@[simp] theorem modPort_firmware (n : Nat) (f : Port → Port) : (modPort s n f).firmware = s.firmware := rfl
@[simp] theorem modPort_fused (n : Nat) (f : Port → Port) : (modPort s n f).fused = s.fused := rfl
@[simp] theorem modPort_keyHash (n : Nat) (f : Port → Port) : (modPort s n f).keyHash = s.keyHash := rfl
@[simp] theorem modPort_identity (n : Nat) (f : Port → Port) : (modPort s n f).identity = s.identity := rfl
@[simp] theorem modPort_log (n : Nat) (f : Port → Port) : (modPort s n f).log = s.log := rfl
@[simp] theorem modPort_answers (n : Nat) (f : Port → Port) : (modPort s n f).answers = s.answers := rfl
@[simp] theorem modPort_dir (n : Nat) (f : Port → Port) : (modPort s n f).dir = s.dir := rfl
@[simp] theorem modPort_rmap (n : Nat) (f : Port → Port) : (modPort s n f).rmap = s.rmap := rfl
@[simp] theorem modPort_tables (n : Nat) (f : Port → Port) : (modPort s n f).tables = s.tables := rfl
@[simp] theorem modPort_cohErrs (n : Nat) (f : Port → Port) : (modPort s n f).cohErrs = s.cohErrs := rfl
@[simp] theorem modPort_upd (n : Nat) (f : Port → Port) : (modPort s n f).upd = s.upd := rfl
@[simp] theorem modPort_posted (n : Nat) (f : Port → Port) : (modPort s n f).posted = s.posted := rfl
@[simp] theorem modPort_lostPeers (n : Nat) (f : Port → Port) : (modPort s n f).lostPeers = s.lostPeers := rfl
@[simp] theorem modPort_lostUpd (n : Nat) (f : Port → Port) : (modPort s n f).lostUpd = s.lostUpd := rfl
@[simp] theorem modPort_ncOut (n : Nat) (f : Port → Port) : (modPort s n f).ncOut = s.ncOut := rfl
@[simp] theorem modPort_podSplit (n : Nat) (f : Port → Port) : (modPort s n f).podSplit = s.podSplit := rfl
@[simp] theorem modPort_uports (n : Nat) (f : Port → Port) : (modPort s n f).uports = s.uports.modify n f := rfl
@[simp] theorem modPort_pports (n : Nat) (f : Port → Port) : (modPort s n f).pports = s.pports := rfl
@[simp] theorem modPort_drains (n : Nat) (f : Port → Port) : (modPort s n f).drains = s.drains := rfl
@[simp] theorem modPort_uaOut (n : Nat) (f : Port → Port) : (modPort s n f).uaOut = s.uaOut := rfl
@[simp] theorem modPort_podPos (n : Nat) (f : Port → Port) : (modPort s n f).podPos = s.podPos := rfl
@[simp] theorem modPort_reach (n : Nat) (f : Port → Port) : (modPort s n f).reach = s.reach := rfl
@[simp] theorem modPort_lastLsu (n : Nat) (f : Port → Port) : (modPort s n f).lastLsu = s.lastLsu := rfl
@[simp] theorem modPort_lsuSeq (n : Nat) (f : Port → Port) : (modPort s n f).lsuSeq = s.lsuSeq := rfl
@[simp] theorem modPort_lsuOut (n : Nat) (f : Port → Port) : (modPort s n f).lsuOut = s.lsuOut := rfl
@[simp] theorem modPort_rounds (n : Nat) (f : Port → Port) : (modPort s n f).rounds = s.rounds := rfl
@[simp] theorem modPort_collOut (n : Nat) (f : Port → Port) : (modPort s n f).collOut = s.collOut := rfl
@[simp] theorem modPort_health (n : Nat) (f : Port → Port) : (modPort s n f).health = s.health := rfl
@[simp] theorem modPort_warmAt (n : Nat) (f : Port → Port) : (modPort s n f).warmAt = s.warmAt := rfl
@[simp] theorem modPort_rehearsing (n : Nat) (f : Port → Port) : (modPort s n f).rehearsing = s.rehearsing := rfl
@[simp] theorem modPort_rehearseOn (n : Nat) (f : Port → Port) : (modPort s n f).rehearseOn = s.rehearseOn := rfl
@[simp] theorem modPort_rehearseDue (n : Nat) (f : Port → Port) : (modPort s n f).rehearseDue = s.rehearseDue := rfl
@[simp] theorem modPort_rehearseLast (n : Nat) (f : Port → Port) : (modPort s n f).rehearseLast = s.rehearseLast := rfl
@[simp] theorem modPort_skips (n : Nat) (f : Port → Port) : (modPort s n f).skips = s.skips := rfl
@[simp] theorem modPort_sigErrs (n : Nat) (f : Port → Port) : (modPort s n f).sigErrs = s.sigErrs := rfl
@[simp] theorem modPort_sramErrs (n : Nat) (f : Port → Port) : (modPort s n f).sramErrs = s.sramErrs := rfl
@[simp] theorem modPort_ecc (n : Nat) (f : Port → Port) : (modPort s n f).ecc = s.ecc := rfl
@[simp] theorem modPort_softErrs (n : Nat) (f : Port → Port) : (modPort s n f).softErrs = s.softErrs := rfl
@[simp] theorem modPort_frameErrs (n : Nat) (f : Port → Port) : (modPort s n f).frameErrs = s.frameErrs := rfl
@[simp] theorem modPort_lineErrs (n : Nat) (f : Port → Port) : (modPort s n f).lineErrs = s.lineErrs := rfl
@[simp] theorem modPort_unusable (n : Nat) (f : Port → Port) : (modPort s n f).unusable = s.unusable := rfl
@[simp] theorem modPort_postFailed (n : Nat) (f : Port → Port) : (modPort s n f).postFailed = s.postFailed := rfl
@[simp] theorem modPort_wiping (n : Nat) (f : Port → Port) : (modPort s n f).wiping = s.wiping := rfl
@[simp] theorem modPort_evq (n : Nat) (f : Port → Port) : (modPort s n f).evq = s.evq := rfl
@[simp] theorem modPort_lateDone (n : Nat) (f : Port → Port) : (modPort s n f).lateDone = s.lateDone := rfl
@[simp] theorem modPort_books (n : Nat) (f : Port → Port) : (modPort s n f).books = s.books := rfl
@[simp] theorem modPort_stale (n : Nat) (f : Port → Port) : (modPort s n f).stale = s.stale := rfl
@[simp] theorem modPort_served (n : Nat) (f : Port → Port) : (modPort s n f).served = s.served := rfl
@[simp] theorem modPort_gangs (n : Nat) (f : Port → Port) : (modPort s n f).gangs = s.gangs := rfl

@[simp] theorem upTo_clock (t : Nat) : (s.upTo t).clock = max s.clock t := rfl
@[simp] theorem upTo_era (t : Nat) : (s.upTo t).era = s.era := rfl
@[simp] theorem upTo_freeCtr (t : Nat) : (s.upTo t).freeCtr = s.freeCtr := rfl
@[simp] theorem upTo_turns (t : Nat) : (s.upTo t).turns = s.turns := rfl
@[simp] theorem upTo_rr (t : Nat) : (s.upTo t).rr = s.rr := rfl
@[simp] theorem upTo_flip (t : Nat) : (s.upTo t).flip = s.flip := rfl
@[simp] theorem upTo_cur (t : Nat) : (s.upTo t).cur = s.cur := rfl
@[simp] theorem upTo_nextId (t : Nat) : (s.upTo t).nextId = s.nextId := rfl
@[simp] theorem upTo_shut (t : Nat) : (s.upTo t).shut = s.shut := rfl
@[simp] theorem upTo_resetUntil (t : Nat) : (s.upTo t).resetUntil = s.resetUntil := rfl
@[simp] theorem upTo_mem (t : Nat) : (s.upTo t).mem = s.mem := rfl
@[simp] theorem upTo_bad (t : Nat) : (s.upTo t).bad = s.bad := rfl
@[simp] theorem upTo_latent (t : Nat) : (s.upTo t).latent = s.latent := rfl
@[simp] theorem upTo_failing (t : Nat) : (s.upTo t).failing = s.failing := rfl
@[simp] theorem upTo_anchors (t : Nat) : (s.upTo t).anchors = s.anchors := rfl
@[simp] theorem upTo_frames (t : Nat) : (s.upTo t).frames = s.frames := rfl
@[simp] theorem upTo_aperts (t : Nat) : (s.upTo t).aperts = s.aperts := rfl
@[simp] theorem upTo_pageOps (t : Nat) : (s.upTo t).pageOps = s.pageOps := rfl
@[simp] theorem upTo_ctxs (t : Nat) : (s.upTo t).ctxs = s.ctxs := rfl
@[simp] theorem upTo_keys (t : Nat) : (s.upTo t).keys = s.keys := rfl
@[simp] theorem upTo_queues (t : Nat) : (s.upTo t).queues = s.queues := rfl
@[simp] theorem upTo_drops (t : Nat) : (s.upTo t).drops = s.drops := rfl
@[simp] theorem upTo_eps (t : Nat) : (s.upTo t).eps = s.eps := rfl
@[simp] theorem upTo_launches (t : Nat) : (s.upTo t).launches = s.launches := rfl
@[simp] theorem upTo_clusters (t : Nat) : (s.upTo t).clusters = s.clusters := rfl
@[simp] theorem upTo_blocks (t : Nat) : (s.upTo t).blocks = s.blocks := rfl
@[simp] theorem upTo_groups (t : Nat) : (s.upTo t).groups = s.groups := rfl
@[simp] theorem upTo_latches (t : Nat) : (s.upTo t).latches = s.latches := rfl
@[simp] theorem upTo_rot (t : Nat) : (s.upTo t).rot = s.rot := rfl
@[simp] theorem upTo_samples (t : Nat) : (s.upTo t).samples = s.samples := rfl
@[simp] theorem upTo_part (t : Nat) : (s.upTo t).part = s.part := rfl
@[simp] theorem upTo_partCfg (t : Nat) : (s.upTo t).partCfg = s.partCfg := rfl
@[simp] theorem upTo_lastBay (t : Nat) : (s.upTo t).lastBay = s.lastBay := rfl
@[simp] theorem upTo_fuse (t : Nat) : (s.upTo t).fuse = s.fuse := rfl
@[simp] theorem upTo_retired (t : Nat) : (s.upTo t).retired = s.retired := rfl
@[simp] theorem upTo_retiredFrames (t : Nat) : (s.upTo t).retiredFrames = s.retiredFrames := rfl
@[simp] theorem upTo_ltp (t : Nat) : (s.upTo t).ltp = s.ltp := rfl
@[simp] theorem upTo_draining (t : Nat) : (s.upTo t).draining = s.draining := rfl
@[simp] theorem upTo_life (t : Nat) : (s.upTo t).life = s.life := rfl
@[simp] theorem upTo_firmware (t : Nat) : (s.upTo t).firmware = s.firmware := rfl
@[simp] theorem upTo_fused (t : Nat) : (s.upTo t).fused = s.fused := rfl
@[simp] theorem upTo_keyHash (t : Nat) : (s.upTo t).keyHash = s.keyHash := rfl
@[simp] theorem upTo_identity (t : Nat) : (s.upTo t).identity = s.identity := rfl
@[simp] theorem upTo_log (t : Nat) : (s.upTo t).log = s.log := rfl
@[simp] theorem upTo_answers (t : Nat) : (s.upTo t).answers = s.answers := rfl
@[simp] theorem upTo_dir (t : Nat) : (s.upTo t).dir = s.dir := rfl
@[simp] theorem upTo_rmap (t : Nat) : (s.upTo t).rmap = s.rmap := rfl
@[simp] theorem upTo_tables (t : Nat) : (s.upTo t).tables = s.tables := rfl
@[simp] theorem upTo_cohErrs (t : Nat) : (s.upTo t).cohErrs = s.cohErrs := rfl
@[simp] theorem upTo_upd (t : Nat) : (s.upTo t).upd = s.upd := rfl
@[simp] theorem upTo_posted (t : Nat) : (s.upTo t).posted = s.posted := rfl
@[simp] theorem upTo_lostPeers (t : Nat) : (s.upTo t).lostPeers = s.lostPeers := rfl
@[simp] theorem upTo_lostUpd (t : Nat) : (s.upTo t).lostUpd = s.lostUpd := rfl
@[simp] theorem upTo_ncOut (t : Nat) : (s.upTo t).ncOut = s.ncOut := rfl
@[simp] theorem upTo_podSplit (t : Nat) : (s.upTo t).podSplit = s.podSplit := rfl
@[simp] theorem upTo_uports (t : Nat) : (s.upTo t).uports = s.uports := rfl
@[simp] theorem upTo_pports (t : Nat) : (s.upTo t).pports = s.pports := rfl
@[simp] theorem upTo_drains (t : Nat) : (s.upTo t).drains = s.drains := rfl
@[simp] theorem upTo_uaOut (t : Nat) : (s.upTo t).uaOut = s.uaOut := rfl
@[simp] theorem upTo_podPos (t : Nat) : (s.upTo t).podPos = s.podPos := rfl
@[simp] theorem upTo_reach (t : Nat) : (s.upTo t).reach = s.reach := rfl
@[simp] theorem upTo_lastLsu (t : Nat) : (s.upTo t).lastLsu = s.lastLsu := rfl
@[simp] theorem upTo_lsuSeq (t : Nat) : (s.upTo t).lsuSeq = s.lsuSeq := rfl
@[simp] theorem upTo_lsuOut (t : Nat) : (s.upTo t).lsuOut = s.lsuOut := rfl
@[simp] theorem upTo_rounds (t : Nat) : (s.upTo t).rounds = s.rounds := rfl
@[simp] theorem upTo_collOut (t : Nat) : (s.upTo t).collOut = s.collOut := rfl
@[simp] theorem upTo_health (t : Nat) : (s.upTo t).health = s.health := rfl
@[simp] theorem upTo_warmAt (t : Nat) : (s.upTo t).warmAt = s.warmAt := rfl
@[simp] theorem upTo_rehearsing (t : Nat) : (s.upTo t).rehearsing = s.rehearsing := rfl
@[simp] theorem upTo_rehearseOn (t : Nat) : (s.upTo t).rehearseOn = s.rehearseOn := rfl
@[simp] theorem upTo_rehearseDue (t : Nat) : (s.upTo t).rehearseDue = s.rehearseDue := rfl
@[simp] theorem upTo_rehearseLast (t : Nat) : (s.upTo t).rehearseLast = s.rehearseLast := rfl
@[simp] theorem upTo_skips (t : Nat) : (s.upTo t).skips = s.skips := rfl
@[simp] theorem upTo_sigErrs (t : Nat) : (s.upTo t).sigErrs = s.sigErrs := rfl
@[simp] theorem upTo_sramErrs (t : Nat) : (s.upTo t).sramErrs = s.sramErrs := rfl
@[simp] theorem upTo_ecc (t : Nat) : (s.upTo t).ecc = s.ecc := rfl
@[simp] theorem upTo_softErrs (t : Nat) : (s.upTo t).softErrs = s.softErrs := rfl
@[simp] theorem upTo_frameErrs (t : Nat) : (s.upTo t).frameErrs = s.frameErrs := rfl
@[simp] theorem upTo_lineErrs (t : Nat) : (s.upTo t).lineErrs = s.lineErrs := rfl
@[simp] theorem upTo_unusable (t : Nat) : (s.upTo t).unusable = s.unusable := rfl
@[simp] theorem upTo_postFailed (t : Nat) : (s.upTo t).postFailed = s.postFailed := rfl
@[simp] theorem upTo_wiping (t : Nat) : (s.upTo t).wiping = s.wiping := rfl
@[simp] theorem upTo_evq (t : Nat) : (s.upTo t).evq = s.evq := rfl
@[simp] theorem upTo_lateDone (t : Nat) : (s.upTo t).lateDone = s.lateDone := rfl
@[simp] theorem upTo_books (t : Nat) : (s.upTo t).books = s.books := rfl
@[simp] theorem upTo_stale (t : Nat) : (s.upTo t).stale = s.stale := rfl
@[simp] theorem upTo_served (t : Nat) : (s.upTo t).served = s.served := rfl
@[simp] theorem upTo_gangs (t : Nat) : (s.upTo t).gangs = s.gangs := rfl

@[simp] theorem countErr_clock (die : Nat) : (countErr s die).clock = s.clock := rfl
@[simp] theorem countErr_era (die : Nat) : (countErr s die).era = s.era := rfl
@[simp] theorem countErr_freeCtr (die : Nat) : (countErr s die).freeCtr = s.freeCtr := rfl
@[simp] theorem countErr_turns (die : Nat) : (countErr s die).turns = s.turns := rfl
@[simp] theorem countErr_rr (die : Nat) : (countErr s die).rr = s.rr := rfl
@[simp] theorem countErr_flip (die : Nat) : (countErr s die).flip = s.flip := rfl
@[simp] theorem countErr_cur (die : Nat) : (countErr s die).cur = s.cur := rfl
@[simp] theorem countErr_nextId (die : Nat) : (countErr s die).nextId = s.nextId := rfl
@[simp] theorem countErr_shut (die : Nat) : (countErr s die).shut = s.shut := rfl
@[simp] theorem countErr_resetUntil (die : Nat) : (countErr s die).resetUntil = s.resetUntil := rfl
@[simp] theorem countErr_mem (die : Nat) : (countErr s die).mem = s.mem := rfl
@[simp] theorem countErr_bad (die : Nat) : (countErr s die).bad = s.bad := rfl
@[simp] theorem countErr_latent (die : Nat) : (countErr s die).latent = s.latent := rfl
@[simp] theorem countErr_failing (die : Nat) : (countErr s die).failing = s.failing := rfl
@[simp] theorem countErr_anchors (die : Nat) : (countErr s die).anchors = s.anchors := rfl
@[simp] theorem countErr_frames (die : Nat) : (countErr s die).frames = s.frames := rfl
@[simp] theorem countErr_aperts (die : Nat) : (countErr s die).aperts = s.aperts := rfl
@[simp] theorem countErr_pageOps (die : Nat) : (countErr s die).pageOps = s.pageOps := rfl
@[simp] theorem countErr_ctxs (die : Nat) : (countErr s die).ctxs = s.ctxs := rfl
@[simp] theorem countErr_keys (die : Nat) : (countErr s die).keys = s.keys := rfl
@[simp] theorem countErr_queues (die : Nat) : (countErr s die).queues = s.queues := rfl
@[simp] theorem countErr_drops (die : Nat) : (countErr s die).drops = s.drops := rfl
@[simp] theorem countErr_eps (die : Nat) : (countErr s die).eps = s.eps := rfl
@[simp] theorem countErr_launches (die : Nat) : (countErr s die).launches = s.launches := rfl
@[simp] theorem countErr_clusters (die : Nat) : (countErr s die).clusters = s.clusters := rfl
@[simp] theorem countErr_blocks (die : Nat) : (countErr s die).blocks = s.blocks := rfl
@[simp] theorem countErr_groups (die : Nat) : (countErr s die).groups = s.groups := rfl
@[simp] theorem countErr_latches (die : Nat) : (countErr s die).latches = s.latches := rfl
@[simp] theorem countErr_rot (die : Nat) : (countErr s die).rot = s.rot := rfl
@[simp] theorem countErr_samples (die : Nat) : (countErr s die).samples = s.samples := rfl
@[simp] theorem countErr_part (die : Nat) : (countErr s die).part = s.part := rfl
@[simp] theorem countErr_partCfg (die : Nat) : (countErr s die).partCfg = s.partCfg := rfl
@[simp] theorem countErr_lastBay (die : Nat) : (countErr s die).lastBay = s.lastBay := rfl
@[simp] theorem countErr_fuse (die : Nat) : (countErr s die).fuse = s.fuse := rfl
@[simp] theorem countErr_retired (die : Nat) : (countErr s die).retired = s.retired := rfl
@[simp] theorem countErr_retiredFrames (die : Nat) : (countErr s die).retiredFrames = s.retiredFrames := rfl
@[simp] theorem countErr_ltp (die : Nat) : (countErr s die).ltp = s.ltp := rfl
@[simp] theorem countErr_draining (die : Nat) : (countErr s die).draining = s.draining := rfl
@[simp] theorem countErr_life (die : Nat) : (countErr s die).life = s.life := rfl
@[simp] theorem countErr_firmware (die : Nat) : (countErr s die).firmware = s.firmware := rfl
@[simp] theorem countErr_fused (die : Nat) : (countErr s die).fused = s.fused := rfl
@[simp] theorem countErr_keyHash (die : Nat) : (countErr s die).keyHash = s.keyHash := rfl
@[simp] theorem countErr_identity (die : Nat) : (countErr s die).identity = s.identity := rfl
@[simp] theorem countErr_log (die : Nat) : (countErr s die).log = s.log := rfl
@[simp] theorem countErr_answers (die : Nat) : (countErr s die).answers = s.answers := rfl
@[simp] theorem countErr_dir (die : Nat) : (countErr s die).dir = s.dir := rfl
@[simp] theorem countErr_rmap (die : Nat) : (countErr s die).rmap = s.rmap := rfl
@[simp] theorem countErr_tables (die : Nat) : (countErr s die).tables = s.tables := rfl
@[simp] theorem countErr_cohErrs (die : Nat) : (countErr s die).cohErrs = aset s.cohErrs die (agetD s.cohErrs die 0 + 1) := rfl
@[simp] theorem countErr_upd (die : Nat) : (countErr s die).upd = s.upd := rfl
@[simp] theorem countErr_posted (die : Nat) : (countErr s die).posted = s.posted := rfl
@[simp] theorem countErr_lostPeers (die : Nat) : (countErr s die).lostPeers = s.lostPeers := rfl
@[simp] theorem countErr_lostUpd (die : Nat) : (countErr s die).lostUpd = s.lostUpd := rfl
@[simp] theorem countErr_ncOut (die : Nat) : (countErr s die).ncOut = s.ncOut := rfl
@[simp] theorem countErr_podSplit (die : Nat) : (countErr s die).podSplit = s.podSplit := rfl
@[simp] theorem countErr_uports (die : Nat) : (countErr s die).uports = s.uports := rfl
@[simp] theorem countErr_pports (die : Nat) : (countErr s die).pports = s.pports := rfl
@[simp] theorem countErr_drains (die : Nat) : (countErr s die).drains = s.drains := rfl
@[simp] theorem countErr_uaOut (die : Nat) : (countErr s die).uaOut = s.uaOut := rfl
@[simp] theorem countErr_podPos (die : Nat) : (countErr s die).podPos = s.podPos := rfl
@[simp] theorem countErr_reach (die : Nat) : (countErr s die).reach = s.reach := rfl
@[simp] theorem countErr_lastLsu (die : Nat) : (countErr s die).lastLsu = s.lastLsu := rfl
@[simp] theorem countErr_lsuSeq (die : Nat) : (countErr s die).lsuSeq = s.lsuSeq := rfl
@[simp] theorem countErr_lsuOut (die : Nat) : (countErr s die).lsuOut = s.lsuOut := rfl
@[simp] theorem countErr_rounds (die : Nat) : (countErr s die).rounds = s.rounds := rfl
@[simp] theorem countErr_collOut (die : Nat) : (countErr s die).collOut = s.collOut := rfl
@[simp] theorem countErr_health (die : Nat) : (countErr s die).health = s.health := rfl
@[simp] theorem countErr_warmAt (die : Nat) : (countErr s die).warmAt = s.warmAt := rfl
@[simp] theorem countErr_rehearsing (die : Nat) : (countErr s die).rehearsing = s.rehearsing := rfl
@[simp] theorem countErr_rehearseOn (die : Nat) : (countErr s die).rehearseOn = s.rehearseOn := rfl
@[simp] theorem countErr_rehearseDue (die : Nat) : (countErr s die).rehearseDue = s.rehearseDue := rfl
@[simp] theorem countErr_rehearseLast (die : Nat) : (countErr s die).rehearseLast = s.rehearseLast := rfl
@[simp] theorem countErr_skips (die : Nat) : (countErr s die).skips = s.skips := rfl
@[simp] theorem countErr_sigErrs (die : Nat) : (countErr s die).sigErrs = s.sigErrs := rfl
@[simp] theorem countErr_sramErrs (die : Nat) : (countErr s die).sramErrs = s.sramErrs := rfl
@[simp] theorem countErr_ecc (die : Nat) : (countErr s die).ecc = s.ecc := rfl
@[simp] theorem countErr_softErrs (die : Nat) : (countErr s die).softErrs = s.softErrs := rfl
@[simp] theorem countErr_frameErrs (die : Nat) : (countErr s die).frameErrs = s.frameErrs := rfl
@[simp] theorem countErr_lineErrs (die : Nat) : (countErr s die).lineErrs = s.lineErrs := rfl
@[simp] theorem countErr_unusable (die : Nat) : (countErr s die).unusable = s.unusable := rfl
@[simp] theorem countErr_postFailed (die : Nat) : (countErr s die).postFailed = s.postFailed := rfl
@[simp] theorem countErr_wiping (die : Nat) : (countErr s die).wiping = s.wiping := rfl
@[simp] theorem countErr_evq (die : Nat) : (countErr s die).evq = s.evq := rfl
@[simp] theorem countErr_lateDone (die : Nat) : (countErr s die).lateDone = s.lateDone := rfl
@[simp] theorem countErr_books (die : Nat) : (countErr s die).books = s.books := rfl
@[simp] theorem countErr_stale (die : Nat) : (countErr s die).stale = s.stale := rfl
@[simp] theorem countErr_served (die : Nat) : (countErr s die).served = s.served := rfl
@[simp] theorem countErr_gangs (die : Nat) : (countErr s die).gangs = s.gangs := rfl

@[simp] theorem uaReply_clock (src : Nat) (l : Option (List Byte)) : (uaReply s src l).clock = s.clock := rfl
@[simp] theorem uaReply_era (src : Nat) (l : Option (List Byte)) : (uaReply s src l).era = s.era := rfl
@[simp] theorem uaReply_freeCtr (src : Nat) (l : Option (List Byte)) : (uaReply s src l).freeCtr = s.freeCtr := rfl
@[simp] theorem uaReply_turns (src : Nat) (l : Option (List Byte)) : (uaReply s src l).turns = s.turns := rfl
@[simp] theorem uaReply_rr (src : Nat) (l : Option (List Byte)) : (uaReply s src l).rr = s.rr := rfl
@[simp] theorem uaReply_flip (src : Nat) (l : Option (List Byte)) : (uaReply s src l).flip = s.flip := rfl
@[simp] theorem uaReply_cur (src : Nat) (l : Option (List Byte)) : (uaReply s src l).cur = s.cur := rfl
@[simp] theorem uaReply_nextId (src : Nat) (l : Option (List Byte)) : (uaReply s src l).nextId = s.nextId := rfl
@[simp] theorem uaReply_shut (src : Nat) (l : Option (List Byte)) : (uaReply s src l).shut = s.shut := rfl
@[simp] theorem uaReply_resetUntil (src : Nat) (l : Option (List Byte)) : (uaReply s src l).resetUntil = s.resetUntil := rfl
@[simp] theorem uaReply_mem (src : Nat) (l : Option (List Byte)) : (uaReply s src l).mem = s.mem := rfl
@[simp] theorem uaReply_bad (src : Nat) (l : Option (List Byte)) : (uaReply s src l).bad = s.bad := rfl
@[simp] theorem uaReply_latent (src : Nat) (l : Option (List Byte)) : (uaReply s src l).latent = s.latent := rfl
@[simp] theorem uaReply_failing (src : Nat) (l : Option (List Byte)) : (uaReply s src l).failing = s.failing := rfl
@[simp] theorem uaReply_anchors (src : Nat) (l : Option (List Byte)) : (uaReply s src l).anchors = s.anchors := rfl
@[simp] theorem uaReply_frames (src : Nat) (l : Option (List Byte)) : (uaReply s src l).frames = s.frames := rfl
@[simp] theorem uaReply_aperts (src : Nat) (l : Option (List Byte)) : (uaReply s src l).aperts = s.aperts := rfl
@[simp] theorem uaReply_pageOps (src : Nat) (l : Option (List Byte)) : (uaReply s src l).pageOps = s.pageOps := rfl
@[simp] theorem uaReply_ctxs (src : Nat) (l : Option (List Byte)) : (uaReply s src l).ctxs = s.ctxs := rfl
@[simp] theorem uaReply_keys (src : Nat) (l : Option (List Byte)) : (uaReply s src l).keys = s.keys := rfl
@[simp] theorem uaReply_queues (src : Nat) (l : Option (List Byte)) : (uaReply s src l).queues = s.queues := rfl
@[simp] theorem uaReply_drops (src : Nat) (l : Option (List Byte)) : (uaReply s src l).drops = s.drops := rfl
@[simp] theorem uaReply_eps (src : Nat) (l : Option (List Byte)) : (uaReply s src l).eps = s.eps := rfl
@[simp] theorem uaReply_launches (src : Nat) (l : Option (List Byte)) : (uaReply s src l).launches = s.launches := rfl
@[simp] theorem uaReply_clusters (src : Nat) (l : Option (List Byte)) : (uaReply s src l).clusters = s.clusters := rfl
@[simp] theorem uaReply_blocks (src : Nat) (l : Option (List Byte)) : (uaReply s src l).blocks = s.blocks := rfl
@[simp] theorem uaReply_groups (src : Nat) (l : Option (List Byte)) : (uaReply s src l).groups = s.groups := rfl
@[simp] theorem uaReply_latches (src : Nat) (l : Option (List Byte)) : (uaReply s src l).latches = s.latches := rfl
@[simp] theorem uaReply_rot (src : Nat) (l : Option (List Byte)) : (uaReply s src l).rot = s.rot := rfl
@[simp] theorem uaReply_samples (src : Nat) (l : Option (List Byte)) : (uaReply s src l).samples = s.samples := rfl
@[simp] theorem uaReply_part (src : Nat) (l : Option (List Byte)) : (uaReply s src l).part = s.part := rfl
@[simp] theorem uaReply_partCfg (src : Nat) (l : Option (List Byte)) : (uaReply s src l).partCfg = s.partCfg := rfl
@[simp] theorem uaReply_lastBay (src : Nat) (l : Option (List Byte)) : (uaReply s src l).lastBay = s.lastBay := rfl
@[simp] theorem uaReply_fuse (src : Nat) (l : Option (List Byte)) : (uaReply s src l).fuse = s.fuse := rfl
@[simp] theorem uaReply_retired (src : Nat) (l : Option (List Byte)) : (uaReply s src l).retired = s.retired := rfl
@[simp] theorem uaReply_retiredFrames (src : Nat) (l : Option (List Byte)) : (uaReply s src l).retiredFrames = s.retiredFrames := rfl
@[simp] theorem uaReply_ltp (src : Nat) (l : Option (List Byte)) : (uaReply s src l).ltp = s.ltp := rfl
@[simp] theorem uaReply_draining (src : Nat) (l : Option (List Byte)) : (uaReply s src l).draining = s.draining := rfl
@[simp] theorem uaReply_life (src : Nat) (l : Option (List Byte)) : (uaReply s src l).life = s.life := rfl
@[simp] theorem uaReply_firmware (src : Nat) (l : Option (List Byte)) : (uaReply s src l).firmware = s.firmware := rfl
@[simp] theorem uaReply_fused (src : Nat) (l : Option (List Byte)) : (uaReply s src l).fused = s.fused := rfl
@[simp] theorem uaReply_keyHash (src : Nat) (l : Option (List Byte)) : (uaReply s src l).keyHash = s.keyHash := rfl
@[simp] theorem uaReply_identity (src : Nat) (l : Option (List Byte)) : (uaReply s src l).identity = s.identity := rfl
@[simp] theorem uaReply_log (src : Nat) (l : Option (List Byte)) : (uaReply s src l).log = s.log := rfl
@[simp] theorem uaReply_answers (src : Nat) (l : Option (List Byte)) : (uaReply s src l).answers = s.answers := rfl
@[simp] theorem uaReply_dir (src : Nat) (l : Option (List Byte)) : (uaReply s src l).dir = s.dir := rfl
@[simp] theorem uaReply_rmap (src : Nat) (l : Option (List Byte)) : (uaReply s src l).rmap = s.rmap := rfl
@[simp] theorem uaReply_tables (src : Nat) (l : Option (List Byte)) : (uaReply s src l).tables = s.tables := rfl
@[simp] theorem uaReply_cohErrs (src : Nat) (l : Option (List Byte)) : (uaReply s src l).cohErrs = s.cohErrs := rfl
@[simp] theorem uaReply_upd (src : Nat) (l : Option (List Byte)) : (uaReply s src l).upd = s.upd := rfl
@[simp] theorem uaReply_posted (src : Nat) (l : Option (List Byte)) : (uaReply s src l).posted = s.posted := rfl
@[simp] theorem uaReply_lostPeers (src : Nat) (l : Option (List Byte)) : (uaReply s src l).lostPeers = s.lostPeers := rfl
@[simp] theorem uaReply_lostUpd (src : Nat) (l : Option (List Byte)) : (uaReply s src l).lostUpd = s.lostUpd := rfl
@[simp] theorem uaReply_ncOut (src : Nat) (l : Option (List Byte)) : (uaReply s src l).ncOut = s.ncOut := rfl
@[simp] theorem uaReply_podSplit (src : Nat) (l : Option (List Byte)) : (uaReply s src l).podSplit = s.podSplit := rfl
@[simp] theorem uaReply_uports (src : Nat) (l : Option (List Byte)) : (uaReply s src l).uports = s.uports := rfl
@[simp] theorem uaReply_pports (src : Nat) (l : Option (List Byte)) : (uaReply s src l).pports = s.pports := rfl
@[simp] theorem uaReply_drains (src : Nat) (l : Option (List Byte)) : (uaReply s src l).drains = s.drains := rfl
@[simp] theorem uaReply_uaOut (src : Nat) (l : Option (List Byte)) : (uaReply s src l).uaOut = s.uaOut ++ [(src, l)] := rfl
@[simp] theorem uaReply_podPos (src : Nat) (l : Option (List Byte)) : (uaReply s src l).podPos = s.podPos := rfl
@[simp] theorem uaReply_reach (src : Nat) (l : Option (List Byte)) : (uaReply s src l).reach = s.reach := rfl
@[simp] theorem uaReply_lastLsu (src : Nat) (l : Option (List Byte)) : (uaReply s src l).lastLsu = s.lastLsu := rfl
@[simp] theorem uaReply_lsuSeq (src : Nat) (l : Option (List Byte)) : (uaReply s src l).lsuSeq = s.lsuSeq := rfl
@[simp] theorem uaReply_lsuOut (src : Nat) (l : Option (List Byte)) : (uaReply s src l).lsuOut = s.lsuOut := rfl
@[simp] theorem uaReply_rounds (src : Nat) (l : Option (List Byte)) : (uaReply s src l).rounds = s.rounds := rfl
@[simp] theorem uaReply_collOut (src : Nat) (l : Option (List Byte)) : (uaReply s src l).collOut = s.collOut := rfl
@[simp] theorem uaReply_health (src : Nat) (l : Option (List Byte)) : (uaReply s src l).health = s.health := rfl
@[simp] theorem uaReply_warmAt (src : Nat) (l : Option (List Byte)) : (uaReply s src l).warmAt = s.warmAt := rfl
@[simp] theorem uaReply_rehearsing (src : Nat) (l : Option (List Byte)) : (uaReply s src l).rehearsing = s.rehearsing := rfl
@[simp] theorem uaReply_rehearseOn (src : Nat) (l : Option (List Byte)) : (uaReply s src l).rehearseOn = s.rehearseOn := rfl
@[simp] theorem uaReply_rehearseDue (src : Nat) (l : Option (List Byte)) : (uaReply s src l).rehearseDue = s.rehearseDue := rfl
@[simp] theorem uaReply_rehearseLast (src : Nat) (l : Option (List Byte)) : (uaReply s src l).rehearseLast = s.rehearseLast := rfl
@[simp] theorem uaReply_skips (src : Nat) (l : Option (List Byte)) : (uaReply s src l).skips = s.skips := rfl
@[simp] theorem uaReply_sigErrs (src : Nat) (l : Option (List Byte)) : (uaReply s src l).sigErrs = s.sigErrs := rfl
@[simp] theorem uaReply_sramErrs (src : Nat) (l : Option (List Byte)) : (uaReply s src l).sramErrs = s.sramErrs := rfl
@[simp] theorem uaReply_ecc (src : Nat) (l : Option (List Byte)) : (uaReply s src l).ecc = s.ecc := rfl
@[simp] theorem uaReply_softErrs (src : Nat) (l : Option (List Byte)) : (uaReply s src l).softErrs = s.softErrs := rfl
@[simp] theorem uaReply_frameErrs (src : Nat) (l : Option (List Byte)) : (uaReply s src l).frameErrs = s.frameErrs := rfl
@[simp] theorem uaReply_lineErrs (src : Nat) (l : Option (List Byte)) : (uaReply s src l).lineErrs = s.lineErrs := rfl
@[simp] theorem uaReply_unusable (src : Nat) (l : Option (List Byte)) : (uaReply s src l).unusable = s.unusable := rfl
@[simp] theorem uaReply_postFailed (src : Nat) (l : Option (List Byte)) : (uaReply s src l).postFailed = s.postFailed := rfl
@[simp] theorem uaReply_wiping (src : Nat) (l : Option (List Byte)) : (uaReply s src l).wiping = s.wiping := rfl
@[simp] theorem uaReply_evq (src : Nat) (l : Option (List Byte)) : (uaReply s src l).evq = s.evq := rfl
@[simp] theorem uaReply_lateDone (src : Nat) (l : Option (List Byte)) : (uaReply s src l).lateDone = s.lateDone := rfl
@[simp] theorem uaReply_books (src : Nat) (l : Option (List Byte)) : (uaReply s src l).books = s.books := rfl
@[simp] theorem uaReply_stale (src : Nat) (l : Option (List Byte)) : (uaReply s src l).stale = s.stale := rfl
@[simp] theorem uaReply_served (src : Nat) (l : Option (List Byte)) : (uaReply s src l).served = s.served := rfl
@[simp] theorem uaReply_gangs (src : Nat) (l : Option (List Byte)) : (uaReply s src l).gangs = s.gangs := rfl

end Sys2Proof.Machine
end

