-- ==== Sys2Proof/Laws/Course.lean ====
section
/-! SUPPORT. What the shared course of an instruction and of a record can do, said once. -/

namespace Sys2Proof.Machine

/-! An instruction of the current group. -/

/-- What atIssue does: results due land in the group and its block; nothing else changes. -/
theorem atIssue_some {i : Instr} {sync : Bool} {s s1 : State} {g : Group} {b : Block}
    (h : atIssue i sync s = some (s1, g, b)) :
    ∃ g0 b0, aget s.groups s.cur = some g0 ∧ aget s.blocks g0.blk = some b0
      ∧ s1 = setBlock (setGroup s s.cur g) g0.blk b ∧ b = { b0 with las := b.las } := by
  unfold atIssue at h
  split at h
  · cases h
  · split at h
    · cases h
    · simp only [Option.some.injEq, Prod.mk.injEq] at h
      obtain ⟨rfl, rfl, rfl⟩ := h
      exact ⟨_, _, ‹_›, ‹_›, rfl, rfl⟩

theorem atIssue_cur {i : Instr} {sync : Bool} {s s1 : State} {g : Group} {b : Block}
    (h : atIssue i sync s = some (s1, g, b)) : s1.cur = s.cur := by
  obtain ⟨_, _, _, _, rfl, _⟩ := atIssue_some h
  rfl

theorem atIssue_group {i : Instr} {sync : Bool} {s s1 : State} {g : Group} {b : Block}
    (h : atIssue i sync s = some (s1, g, b)) : aget s1.groups s1.cur = some g := by
  obtain ⟨_, _, _, _, rfl, _⟩ := atIssue_some h
  exact aget_aset_same ..

theorem atIssue_mem {i : Instr} {sync : Bool} {s s1 : State} {g : Group} {b : Block}
    (h : atIssue i sync s = some (s1, g, b)) : s1.mem = s.mem := by
  obtain ⟨_, _, _, _, rfl, _⟩ := atIssue_some h
  rfl

/-- An instruction that issues does what its body answers. -/
theorem withCur_issues {i : Instr} {sync : Bool} {s s1 : State} {g : Group} {b : Block}
    {body : State → Nat → Group → Block → Res} (h : Issues i sync s s1 g b) :
    withCur i sync s body = .next (conclude i g b s1.cur s1 (body s1 s1.cur g b)) := by
  have hf : (releasesNow i g && heldUpd s1 s1.cur) = false := by
    cases hr : releasesNow i g
    · rfl
    · simpa using h.free hr
  simp [withCur, h.cur, h.clear, h.sound, hf]

/-- All that an instruction of the current group can come to: a fault before its description, an error in a register it
reads, a release that waits for updates whose way is held, or its body's outcome. -/
theorem withCur_next {i : Instr} {sync : Bool} {s t : State} {body : State → Nat → Group → Block → Res}
    (h : withCur i sync s body = .next t) : ∃ s1 g b, atIssue i sync s = some (s1, g, b)
      ∧ ((∃ f v, preFault i g b = some (f, v) ∧ t = raiseFault s1 s1.cur f v g.pc)
        ∨ (preFault i g b = none ∧ readsBad g i = true ∧ t = conclude i g b s1.cur s1 .onchip)
        ∨ (releasesNow i g = true ∧ heldUpd s1 s1.cur = true ∧ t = conclude i g b s1.cur s1 (.stall s1))
        ∨ (Issues i sync s s1 g b ∧ t = conclude i g b s1.cur s1 (body s1 s1.cur g b))) := by
  unfold withCur at h
  split at h
  · cases h
  · rename_i s1 g b hc
    refine ⟨s1, g, b, hc, ?_⟩
    split at h
    · rename_i f v hf
      cases h
      exact .inl ⟨f, v, hf, rfl⟩
    · rename_i hf
      split at h
      · rename_i hb
        cases h
        exact .inr (.inl ⟨hf, hb, rfl⟩)
      · rename_i hb
        split at h
        · rename_i hr
          cases h
          simp only [Bool.and_eq_true] at hr
          exact .inr (.inr (.inl ⟨hr.1, hr.2, rfl⟩))
        · rename_i hr
          cases h
          exact .inr (.inr (.inr ⟨⟨hc, hf, by simpa using hb, by simpa using hr⟩, rfl⟩))

/-- It never refuses, and it stops only where the current group or its block is not there. -/
theorem withCur_stops (i : Instr) (sync : Bool) (s : State) (body : State → Nat → Group → Block → Res) :
    (∃ t, withCur i sync s body = .next t) ∨ (withCur i sync s body = .fault .noGroup ∧ atIssue i sync s = none) := by
  unfold withCur
  split
  · rename_i h
    exact .inr ⟨rfl, h⟩
  · split
    · exact .inl ⟨_, rfl⟩
    · split
      · exact .inl ⟨_, rfl⟩
      · split <;> exact .inl ⟨_, rfl⟩

/-! The outcomes of a body. -/

/-- An instruction that only changes its group, and issues, completes with the change. -/
theorem compute_completes {i : Instr} {s s1 : State} {g : Group} {b : Block} {f : Group → Group}
    (h : Issues i false s s1 g b) (hx : exec i s = compute i s f) : Completes i s s1 g b (f g) := by
  unfold Completes
  rw [hx, compute, withCur_issues h]
  rfl

theorem completes_of {i : Instr} {sync : Bool} {s s1 : State} {g new : Group} {b : Block}
    {body : State → Nat → Group → Block → Res} (h : Issues i sync s s1 g b) (hx : exec i s = withCur i sync s body)
    (hb : body s1 s1.cur g b = .of new) : Completes i s s1 g b new := by
  unfold Completes
  rw [hx, withCur_issues h, hb]
  rfl

theorem completesIn_of {i : Instr} {sync : Bool} {s s1 s2 : State} {g : Group} {b : Block}
    {body : State → Nat → Group → Block → Res} (h : Issues i sync s s1 g b) (hx : exec i s = withCur i sync s body)
    (hb : body s1 s1.cur g b = .done s2 .seq []) : CompletesIn i s s1 s2 g b := by
  unfold CompletesIn
  rw [hx, withCur_issues h, hb]
  rfl

theorem faults_of {i : Instr} {sync : Bool} {s s1 : State} {g : Group} {b : Block} {f : Trap} {v : Dword}
    {body : State → Nat → Group → Block → Res} (h : Issues i sync s s1 g b) (hx : exec i s = withCur i sync s body)
    (hb : body s1 s1.cur g b = .trap s1 f v) : Faults i s s1 g f v := by
  unfold Faults
  rw [hx, withCur_issues h, hb]
  rfl

/-- Completion changes the group and the accumulators of its block only. -/
theorem complete_eq (i : Instr) (old : Group) (b : Block) (k : Nat) (s : State) (flow : Flow) (lw : AMap (Bool × LA)) :
    complete i old b k s flow lw = s ∨ ∃ new h, aget s.groups k = some new ∧ complete i old b k s flow lw =
      { s with groups := aset s.groups k h,
               blocks := if (promised i).2 ≠ 0 ∨ lw.isEmpty = true then s.blocks
                 else amod s.blocks old.blk fun b => { b with las := landLas b.las lw } } := by
  unfold complete
  split
  · exact .inl rfl
  · rename_i new hn
    refine .inr ⟨new, Group.retire old (new.mendRegs old i) i flow (if (promised i).2 ≠ 0 then lw else []) (sigenOf s b)
      s.clock, hn, ?_⟩
    by_cases h1 : (promised i).2 = 0 <;> by_cases h2 : lw.isEmpty = true <;> simp [h1, h2, setGroup]

theorem complete_mem (i : Instr) (old : Group) (b : Block) (k : Nat) (s : State) (flow : Flow) (lw : AMap (Bool × LA)) :
    (complete i old b k s flow lw).mem = s.mem := by
  rcases complete_eq i old b k s flow lw with h | ⟨_, _, _, h⟩ <;> rw [h]

/-- Another group is as it was. -/
theorem complete_other (i : Instr) (old : Group) (b : Block) {k j : Nat} (s : State) (flow : Flow)
    (lw : AMap (Bool × LA)) (h : k ≠ j) : aget (complete i old b k s flow lw).groups j = aget s.groups j := by
  rcases complete_eq i old b k s flow lw with e | ⟨_, _, _, e⟩ <;> rw [e]
  exact aget_aset_other _ _ h

/-! A record at the head of its queue. -/

/-- All that an event that performs a record can come to: nothing, the rejection of an ill-formed record once the
launches ahead of it are done, or its body, on the record as it is started. -/
theorem withHead_cases (s : State) (q : QRef) (ty : Nat) (ok : State → QRec → Bool) (body : State → QRec → State) :
    (withHead s q ty ok body = s ∧ ((queueRecs s q).head? = none ∨ startable s q = false
        ∨ ∃ r, (queueRecs s q).head? = some r ∧ recType r ≠ ty))
      ∨ ∃ r, (queueRecs s q).head? = some r ∧ startable s q = true ∧ recType r = ty
        ∧ ((withHead s q ty ok body = (if launchesDone s q then finishIll s q errIll else s) ∧ r.started = none
            ∧ (queueAccepts s q ty = false ∨ eventOk r = false ∨ ok s r = false))
          ∨ (withHead s q ty ok body = body s r ∧ r.started.isSome = true)
          ∨ (withHead s q ty ok body = body (startHead s q) r ∧ queueAccepts s q ty = true ∧ eventOk r = true
            ∧ ok s r = true)) := by
  unfold withHead
  split
  · rename_i h
    exact .inl ⟨rfl, .inl (by simp [h])⟩
  · rename_i r l h
    split
    · rename_i hs
      refine .inl ⟨rfl, .inr ?_⟩
      simp only [Bool.or_eq_true, Bool.not_eq_true', decide_eq_true_eq] at hs
      rcases hs with hs | hs
      · exact .inl hs
      · exact .inr ⟨r, by simp [h], hs⟩
    · rename_i hs
      simp only [Bool.or_eq_true, Bool.not_eq_true', decide_eq_true_eq, not_or, Bool.not_eq_false] at hs
      refine .inr ⟨r, by simp [h], hs.1, by simpa using hs.2, ?_⟩
      split
      · rename_i ho
        split
        · rename_i hr
          exact .inr (.inl ⟨rfl, hr⟩)
        · rename_i hr
          refine .inl ⟨rfl, by simpa using hr, ?_⟩
          simpa [or_assoc] using ho
      · rename_i ho
        simp only [Bool.or_eq_true, Bool.not_eq_true', not_or, Bool.not_eq_false] at ho
        exact .inr (.inr ⟨rfl, ho.1.1, ho.1.2, ho.2⟩)

/-- A record that ends leaves its queue. -/
theorem finishHead_cases (s : State) (q : QRef) (status : Nat) (extra : Dword) :
    (queueRecs s q = [] ∧ finishHead s q status extra = s)
      ∨ ∃ r l, queueRecs s q = r :: l ∧ finishHead s q status extra = completeRec (setRecs s q l) q r status extra := by
  unfold finishHead
  split
  · rename_i h
    exact .inl ⟨h, rfl⟩
  · rename_i r l h
    refine .inr ⟨r, l, h, ?_⟩
    simp [headDone, h]

end Sys2Proof.Machine
end

