-- ==== Sys2Proof/Laws/Exec.lean ====
section
/-! SUPPORT. The meaning of each instruction, by its name. -/

namespace Sys2Proof.Machine

variable (s : State)

theorem exec_nop : exec .nop s = execNop s := rfl
theorem exec_exit : exec .exit s = execExit s := rfl
theorem exec_trap (code : Fin 128) (a : GReg) : exec (.trap code a) s = execTrap code a s := rfl
theorem exec_rtt : exec .rtt s = execRtt s := rfl
theorem exec_yield : exec .yield s = execYield s := rfl
theorem exec_sleep (a : SReg) : exec (.sleep a) s = execSleep a s := rfl
theorem exec_nopre : exec .nopre s = execNopre s := rfl
theorem exec_okpre : exec .okpre s = execOkpre s := rfl
theorem exec_mfs (d : GReg) (sel : Fin 16384) : exec (.mfs d sel) s = execMfs d sel s := rfl
theorem exec_mts (sel : Fin 16384) (d : GReg) : exec (.mts sel d) s = execMts sel d s := rfl
theorem exec_win (a : SReg) : exec (.win a) s = execWin a s := rfl
theorem exec_awin (a : SReg) : exec (.awin a) s = execAwin a s := rfl
theorem exec_fmtset (a : SReg) (b : SReg) : exec (.fmtset a b) s = execFmtset a b s := rfl
theorem exec_fmtget (d : GReg) : exec (.fmtget d) s = execFmtget d s := rfl
theorem exec_clock (d : GReg) : exec (.clock d) s = execClock d s := rfl
theorem exec_launch (a : SReg) (b : SReg) : exec (.launch a b) s = execLaunch a b s := rfl
theorem exec_record (a : SReg) : exec (.record a) s = execRecord a s := rfl
theorem exec_sigrst : exec .sigrst s = execSigrst s := rfl
theorem exec_bkpt : exec .bkpt s = execBkpt s := rfl
theorem exec_cue (id : BitVec 16) : exec (.cue id) s = execCue id s := rfl
theorem exec_sigck (imm : BitVec 16) : exec (.sigck imm) s = execSigck imm s := rfl
theorem exec_stage (base : VReg) (mask : BitVec 19) : exec (.stage base mask) s = execStage base mask s := rfl
theorem exec_bra (p : PReg) (n : Bool) (off : BitVec 21) : exec (.bra p n off) s = execBra p n off s := rfl
theorem exec_brl (p : PReg) (n : Bool) (off : BitVec 21) : exec (.brl p n off) s = execBrl p n off s := rfl
theorem exec_brd (p : PReg) (n : Bool) (off : BitVec 21) : exec (.brd p n off) s = execBrd p n off s := rfl
theorem exec_join (off : BitVec 21) : exec (.join off) s = execJoin off s := rfl
theorem exec_call (off : BitVec 26) : exec (.call off) s = execCall off s := rfl
theorem exec_jmpr (a : SReg) : exec (.jmpr a) s = execJmpr a s := rfl
theorem exec_callr (a : SReg) : exec (.callr a) s = execCallr a s := rfl
theorem exec_ret : exec .ret s = execRet s := rfl
theorem exec_endj : exec .endj s = execEndj s := rfl
theorem exec_loop (lc : Fin 4) (len1 : BitVec 8) (cnt : SReg) :
    exec (.loop lc len1 cnt) s = execLoop lc len1 cnt s := rfl
theorem exec_loopi (lc : Fin 4) (len1 : BitVec 8) (cnt : BitVec 16) :
    exec (.loopi lc len1 cnt) s = execLoopi lc len1 cnt s := rfl
theorem exec_gspan (p : PReg) (n : Bool) (cnt1 : Fin 16) : exec (.gspan p n cnt1) s = execGspan p n cnt1 s := rfl
theorem exec_fenceAcq (pd : PReg) (sc : Scope) : exec (.fenceAcq pd sc) s = execFenceAcq pd sc s := rfl
theorem exec_fenceRel (pd : PReg) (sc : Scope) : exec (.fenceRel pd sc) s = execFenceRel pd sc s := rfl
theorem exec_fenceAr (pd : PReg) (sc : Scope) : exec (.fenceAr pd sc) s = execFenceAr pd sc s := rfl
theorem exec_barInit (id : Fin 64) (a : SReg) : exec (.barInit id a) s = execBarInit id a s := rfl
theorem exec_barArr (id : Fin 64) : exec (.barArr id) s = execBarArr id s := rfl
theorem exec_barWait (pd : PReg) (id : Fin 64) : exec (.barWait pd id) s = execBarWait pd id s := rfl
theorem exec_barSync (pd : PReg) (id : Fin 64) : exec (.barSync pd id) s = execBarSync pd id s := rfl
theorem exec_cbarArr (id : Fin 64) : exec (.cbarArr id) s = execCbarArr id s := rfl
theorem exec_cbarWait (pd : PReg) (id : Fin 64) : exec (.cbarWait pd id) s = execCbarWait pd id s := rfl
theorem exec_cbarSync (pd : PReg) (id : Fin 64) : exec (.cbarSync pd id) s = execCbarSync pd id s := rfl
theorem exec_batch : exec .batch s = execBatch s := rfl
theorem exec_bwait (pd : PReg) (a : SReg) : exec (.bwait pd a) s = execBwait pd a s := rfl
theorem exec_waitm (pd : PReg) (sc : Scope) (a : SReg) (b : SReg) :
    exec (.waitm pd sc a b) s = execWaitm pd sc a b s := rfl
theorem exec_qfence (a : SReg) : exec (.qfence a) s = execQfence a s := rfl
theorem exec_pgreq (d : GReg) (a : GReg) (f : PReg) (la : Fin 16) :
    exec (.pgreq d a f la) s = execPgreq d a f la s := rfl
theorem exec_pgqry (d : GReg) (a : GReg) (f : PReg) (la : Fin 16) :
    exec (.pgqry d a f la) s = execPgqry d a f la s := rfl
theorem exec_pref (a : GReg) (f : PReg) (la : Fin 16) : exec (.pref a f la) s = execPref a f la s := rfl
theorem exec_spl (d : VReg) (a : SReg) (f : PReg) (la : Fin 16) : exec (.spl d a f la) s = execSpl d a f la s := rfl
theorem exec_fil (d : VReg) (a : SReg) (f : PReg) (la : Fin 16) : exec (.fil d a f la) s = execFil d a f la s := rfl
theorem exec_mapr (d : SReg) (a : SReg) (f : PReg) (la : Fin 16) : exec (.mapr d a f la) s = execMapr d a f la s := rfl
theorem exec_syncr (d : SReg) (f : PReg) (la : Fin 16) : exec (.syncr d f la) s = execSyncr d f la s := rfl
theorem exec_unmapr (d : SReg) (f : PReg) (la : Fin 16) : exec (.unmapr d f la) s = execUnmapr d f la s := rfl
theorem exec_pgpin (d : GReg) (a : GReg) (f : PReg) (la : Fin 16) :
    exec (.pgpin d a f la) s = execPgpin d a f la s := rfl
theorem exec_pgunpin (d : GReg) (a : GReg) (f : PReg) (la : Fin 16) :
    exec (.pgunpin d a f la) s = execPgunpin d a f la s := rfl
theorem exec_ldu (d : SReg) (a : SReg) (w32 : Bool) (f : PReg) (la : Fin 16) :
    exec (.ldu d a w32 f la) s = execLdu d a w32 f la s := rfl
theorem exec_iadd (w : Width) (d : GReg) (a : GReg) (b : GReg) : exec (.iadd w d a b) s = execIadd w d a b s := rfl
theorem exec_isub (w : Width) (d : GReg) (a : GReg) (b : GReg) : exec (.isub w d a b) s = execIsub w d a b s := rfl
theorem exec_iaddc (w : Width) (d : GReg) (a : GReg) (b : GReg) : exec (.iaddc w d a b) s = execIaddc w d a b s := rfl
theorem exec_isubb (w : Width) (d : GReg) (a : GReg) (b : GReg) : exec (.isubb w d a b) s = execIsubb w d a b s := rfl
theorem exec_imul (w : Width) (d : GReg) (a : GReg) (b : GReg) : exec (.imul w d a b) s = execImul w d a b s := rfl
theorem exec_imulhs (w : Width) (d : GReg) (a : GReg) (b : GReg) :
    exec (.imulhs w d a b) s = execImulhs w d a b s := rfl
theorem exec_imulhn (w : Width) (d : GReg) (a : GReg) (b : GReg) :
    exec (.imulhn w d a b) s = execImulhn w d a b s := rfl
theorem exec_imad (w : Width) (d : GReg) (a : GReg) (b : GReg) : exec (.imad w d a b) s = execImad w d a b s := rfl
theorem exec_imins (w : Width) (d : GReg) (a : GReg) (b : GReg) : exec (.imins w d a b) s = execImins w d a b s := rfl
theorem exec_imaxs (w : Width) (d : GReg) (a : GReg) (b : GReg) : exec (.imaxs w d a b) s = execImaxs w d a b s := rfl
theorem exec_iminn (w : Width) (d : GReg) (a : GReg) (b : GReg) : exec (.iminn w d a b) s = execIminn w d a b s := rfl
theorem exec_imaxn (w : Width) (d : GReg) (a : GReg) (b : GReg) : exec (.imaxn w d a b) s = execImaxn w d a b s := rfl
theorem exec_iabs (w : Width) (d : GReg) (a : GReg) : exec (.iabs w d a) s = execIabs w d a s := rfl
theorem exec_imadw (d : GReg) (a : GReg) (b : GReg) : exec (.imadw d a b) s = execImadw d a b s := rfl
theorem exec_popc (w : Width) (d : GReg) (a : GReg) : exec (.popc w d a) s = execPopc w d a s := rfl
theorem exec_clz (w : Width) (d : GReg) (a : GReg) : exec (.clz w d a) s = execClz w d a s := rfl
theorem exec_andR (w : Width) (d : GReg) (a : GReg) (b : GReg) : exec (.andR w d a b) s = execAndR w d a b s := rfl
theorem exec_orR (w : Width) (d : GReg) (a : GReg) (b : GReg) : exec (.orR w d a b) s = execOrR w d a b s := rfl
theorem exec_xorR (w : Width) (d : GReg) (a : GReg) (b : GReg) : exec (.xorR w d a b) s = execXorR w d a b s := rfl
theorem exec_andnR (w : Width) (d : GReg) (a : GReg) (b : GReg) : exec (.andnR w d a b) s = execAndnR w d a b s := rfl
theorem exec_shl (w : Width) (d : GReg) (a : GReg) (b : GReg) : exec (.shl w d a b) s = execShl w d a b s := rfl
theorem exec_shr (w : Width) (d : GReg) (a : GReg) (b : GReg) : exec (.shr w d a b) s = execShr w d a b s := rfl
theorem exec_sar (w : Width) (d : GReg) (a : GReg) (b : GReg) : exec (.sar w d a b) s = execSar w d a b s := rfl
theorem exec_rot (w : Width) (d : GReg) (a : GReg) (b : GReg) : exec (.rot w d a b) s = execRot w d a b s := rfl
theorem exec_brev (w : Width) (d : GReg) (a : GReg) : exec (.brev w d a) s = execBrev w d a s := rfl
theorem exec_bfxs (w : Width) (d : GReg) (a : GReg) (b : GReg) : exec (.bfxs w d a b) s = execBfxs w d a b s := rfl
theorem exec_bfxn (w : Width) (d : GReg) (a : GReg) (b : GReg) : exec (.bfxn w d a b) s = execBfxn w d a b s := rfl
theorem exec_bfi (w : Width) (d : GReg) (a : GReg) (b : GReg) : exec (.bfi w d a b) s = execBfi w d a b s := rfl
theorem exec_mov (w : Width) (d : GReg) (a : GReg) : exec (.mov w d a) s = execMov w d a s := rfl
theorem exec_prmb (d : GReg) (a : GReg) (b : GReg) : exec (.prmb d a b) s = execPrmb d a b s := rfl
theorem exec_iadds (w : Width) (d : GReg) (a : GReg) (b : GReg) : exec (.iadds w d a b) s = execIadds w d a b s := rfl
theorem exec_iaddn (w : Width) (d : GReg) (a : GReg) (b : GReg) : exec (.iaddn w d a b) s = execIaddn w d a b s := rfl
theorem exec_iset (c : ICond) (cb : Combine) (w : Width) (pd : PReg) (a : GReg) (b : GReg) :
    exec (.iset c cb w pd a b) s = execIset c cb w pd a b s := rfl
theorem exec_pand (d : PReg) (a : PReg) (b : PReg) : exec (.pand d a b) s = execPand d a b s := rfl
theorem exec_por (d : PReg) (a : PReg) (b : PReg) : exec (.por d a b) s = execPor d a b s := rfl
theorem exec_pxor (d : PReg) (a : PReg) (b : PReg) : exec (.pxor d a b) s = execPxor d a b s := rfl
theorem exec_pandn (d : PReg) (a : PReg) (b : PReg) : exec (.pandn d a b) s = execPandn d a b s := rfl
theorem exec_pnot (d : PReg) (a : PReg) : exec (.pnot d a) s = execPnot d a s := rfl
theorem exec_pmov (d : PReg) (a : PReg) : exec (.pmov d a) s = execPmov d a s := rfl
theorem exec_addi (d : GReg) (a : GReg) (imm : BitVec 12) : exec (.addi d a imm) s = execAddi d a imm s := rfl
theorem exec_andi (d : GReg) (a : GReg) (imm : BitVec 12) : exec (.andi d a imm) s = execAndi d a imm s := rfl
theorem exec_ori (d : GReg) (a : GReg) (imm : BitVec 12) : exec (.ori d a imm) s = execOri d a imm s := rfl
theorem exec_xori (d : GReg) (a : GReg) (imm : BitVec 12) : exec (.xori d a imm) s = execXori d a imm s := rfl
theorem exec_shli (d : GReg) (a : GReg) (imm : BitVec 12) : exec (.shli d a imm) s = execShli d a imm s := rfl
theorem exec_shri (d : GReg) (a : GReg) (imm : BitVec 12) : exec (.shri d a imm) s = execShri d a imm s := rfl
theorem exec_sari (d : GReg) (a : GReg) (imm : BitVec 12) : exec (.sari d a imm) s = execSari d a imm s := rfl
theorem exec_movw (d : GReg) (slot : Fin 4) (imm : BitVec 16) : exec (.movw d slot imm) s = execMovw d slot imm s := rfl
theorem exec_movk (d : GReg) (slot : Fin 4) (imm : BitVec 16) : exec (.movk d slot imm) s = execMovk d slot imm s := rfl
theorem exec_lea (d : GReg) (a : GReg) (b : GReg) (sh : Fin 32) : exec (.lea d a b sh) s = execLea d a b sh s := rfl
theorem exec_fadd (fm : FpFmt) (q : Bool) (d : GReg) (a : GReg) (b : GReg) :
    exec (.fadd fm q d a b) s = execFadd fm q d a b s := rfl
theorem exec_fsub (fm : FpFmt) (q : Bool) (d : GReg) (a : GReg) (b : GReg) :
    exec (.fsub fm q d a b) s = execFsub fm q d a b s := rfl
theorem exec_fmul (fm : FpFmt) (q : Bool) (d : GReg) (a : GReg) (b : GReg) :
    exec (.fmul fm q d a b) s = execFmul fm q d a b s := rfl
theorem exec_ffma (fm : FpFmt) (q : Bool) (d : GReg) (a : GReg) (b : GReg) :
    exec (.ffma fm q d a b) s = execFfma fm q d a b s := rfl
theorem exec_ffms (fm : FpFmt) (q : Bool) (d : GReg) (a : GReg) (b : GReg) :
    exec (.ffms fm q d a b) s = execFfms fm q d a b s := rfl
theorem exec_fnma (fm : FpFmt) (q : Bool) (d : GReg) (a : GReg) (b : GReg) :
    exec (.fnma fm q d a b) s = execFnma fm q d a b s := rfl
theorem exec_fmin (fm : FpFmt) (q : Bool) (d : GReg) (a : GReg) (b : GReg) :
    exec (.fmin fm q d a b) s = execFmin fm q d a b s := rfl
theorem exec_fmax (fm : FpFmt) (q : Bool) (d : GReg) (a : GReg) (b : GReg) :
    exec (.fmax fm q d a b) s = execFmax fm q d a b s := rfl
theorem exec_fabs (fm : FpFmt) (q : Bool) (d : GReg) (a : GReg) : exec (.fabs fm q d a) s = execFabs fm q d a s := rfl
theorem exec_fneg (fm : FpFmt) (q : Bool) (d : GReg) (a : GReg) : exec (.fneg fm q d a) s = execFneg fm q d a s := rfl
theorem exec_fcsgn (fm : FpFmt) (q : Bool) (d : GReg) (a : GReg) (b : GReg) :
    exec (.fcsgn fm q d a b) s = execFcsgn fm q d a b s := rfl
theorem exec_frndn (fm : FpFmt) (q : Bool) (d : GReg) (a : GReg) :
    exec (.frndn fm q d a) s = execFrndn fm q d a s := rfl
theorem exec_frndz (fm : FpFmt) (q : Bool) (d : GReg) (a : GReg) :
    exec (.frndz fm q d a) s = execFrndz fm q d a s := rfl
theorem exec_frndp (fm : FpFmt) (q : Bool) (d : GReg) (a : GReg) :
    exec (.frndp fm q d a) s = execFrndp fm q d a s := rfl
theorem exec_frndm (fm : FpFmt) (q : Bool) (d : GReg) (a : GReg) :
    exec (.frndm fm q d a) s = execFrndm fm q d a s := rfl
theorem exec_fclass (fm : FpFmt) (q : Bool) (d : GReg) (a : GReg) :
    exec (.fclass fm q d a) s = execFclass fm q d a s := rfl
theorem exec_frcp (fm : FpFmt) (q : Bool) (d : GReg) (a : GReg) : exec (.frcp fm q d a) s = execFrcp fm q d a s := rfl
theorem exec_frsq (fm : FpFmt) (q : Bool) (d : GReg) (a : GReg) : exec (.frsq fm q d a) s = execFrsq fm q d a s := rfl
theorem exec_fsqrt (fm : FpFmt) (q : Bool) (d : GReg) (a : GReg) :
    exec (.fsqrt fm q d a) s = execFsqrt fm q d a s := rfl
theorem exec_fdiv (fm : FpFmt) (q : Bool) (d : GReg) (a : GReg) (b : GReg) :
    exec (.fdiv fm q d a b) s = execFdiv fm q d a b s := rfl
theorem exec_fexp2 (fm : FpFmt) (q : Bool) (d : GReg) (a : GReg) :
    exec (.fexp2 fm q d a) s = execFexp2 fm q d a s := rfl
theorem exec_flog2 (fm : FpFmt) (q : Bool) (d : GReg) (a : GReg) :
    exec (.flog2 fm q d a) s = execFlog2 fm q d a s := rfl
theorem exec_fscl (fm : FpFmt) (q : Bool) (d : GReg) (a : GReg) (b : GReg) :
    exec (.fscl fm q d a b) s = execFscl fm q d a b s := rfl
theorem exec_fset (c : FCond) (cb : Combine) (fm : FpFmt) (pd : PReg) (a : GReg) (b : GReg) :
    exec (.fset c cb fm pd a b) s = execFset c cb fm pd a b s := rfl
theorem exec_fsets (c : FCond) (cb : Combine) (fm : FpFmt) (pd : PReg) (a : GReg) (b : GReg) :
    exec (.fsets c cb fm pd a b) s = execFsets c cb fm pd a b s := rfl
theorem exec_cvt (dst : NumFmt) (src : NumFmt) (rm : Option Round) (sat : Bool) (d : GReg) (a : GReg) :
    exec (.cvt dst src rm sat d a) s = execCvt dst src rm sat d a s := rfl
theorem exec_qpush (q : QReg) (a : Fin 16) (n1 : Fin 4) : exec (.qpush q a n1) s = execQpush q a n1 s := rfl
theorem exec_qpop (d : SReg) (q : QReg) : exec (.qpop d q) s = execQpop d q s := rfl
theorem exec_qtry (d : SReg) (q : QReg) : exec (.qtry d q) s = execQtry d q s := rfl
theorem exec_qbind (q : QReg) (a : SReg) : exec (.qbind q a) s = execQbind q a s := rfl
theorem exec_qstat (d : GReg) (q : QReg) : exec (.qstat d q) s = execQstat d q s := rfl
theorem exec_qdrain (d : GReg) (q : QReg) : exec (.qdrain d q) s = execQdrain d q s := rfl
theorem exec_ecpy (q : QReg) (a : Fin 16) (n1 : Fin 4) : exec (.ecpy q a n1) s = execEcpy q a n1 s := rfl
theorem exec_egath (q : QReg) (a : Fin 16) (n1 : Fin 4) : exec (.egath q a n1) s = execEgath q a n1 s := rfl
theorem exec_escat (q : QReg) (a : Fin 16) (n1 : Fin 4) : exec (.escat q a n1) s = execEscat q a n1 s := rfl
theorem exec_ercpy (q : QReg) (a : Fin 16) (n1 : Fin 4) : exec (.ercpy q a n1) s = execErcpy q a n1 s := rfl
theorem exec_efill (q : QReg) (a : Fin 16) (n1 : Fin 4) : exec (.efill q a n1) s = execEfill q a n1 s := rfl
theorem exec_emig (q : QReg) (a : Fin 16) (n1 : Fin 4) : exec (.emig q a n1) s = execEmig q a n1 s := rfl
theorem exec_laclr (d : CReg) (n1 : Fin 128) : exec (.laclr d n1) s = execLaclr d n1 s := rfl
theorem exec_laadd (d : CReg) (a : GReg) : exec (.laadd d a) s = execLaadd d a s := rfl
theorem exec_laadds (d : CReg) (a : GReg) : exec (.laadds d a) s = execLaadds d a s := rfl
theorem exec_lasub (d : CReg) (a : GReg) : exec (.lasub d a) s = execLasub d a s := rfl
theorem exec_lamad (d : CReg) (a : GReg) (b : GReg) : exec (.lamad d a b) s = execLamad d a b s := rfl
theorem exec_lamsb (d : CReg) (a : GReg) (b : GReg) : exec (.lamsb d a b) s = execLamsb d a b s := rfl
theorem exec_ladot (d : CReg) (a : GReg) (b : GReg) : exec (.ladot d a b) s = execLadot d a b s := rfl
theorem exec_lamrg (d : CReg) (a : CReg) : exec (.lamrg d a) s = execLamrg d a s := rfl
theorem exec_lamov (d : CReg) (a : CReg) : exec (.lamov d a) s = execLamov d a s := rfl
theorem exec_laxl (d : CReg) (a : CReg) (b : GReg) : exec (.laxl d a b) s = execLaxl d a b s := rfl
theorem exec_laxb (d : CReg) (a : CReg) (k : Fin 128) : exec (.laxb d a k) s = execLaxb d a k s := rfl
theorem exec_lacrs (d : CReg) (n1 : Fin 128) : exec (.lacrs d n1) s = execLacrs d n1 s := rfl
theorem exec_laflg (d : GReg) (a : CReg) : exec (.laflg d a) s = execLaflg d a s := rfl
theorem exec_laput (d : CReg) (a : GReg) (k : Fin 128) : exec (.laput d a k) s = execLaput d a k s := rfl
theorem exec_laneg (d : CReg) (a : CReg) : exec (.laneg d a) s = execLaneg d a s := rfl
theorem exec_larnd (d : GReg) (a : CReg) (fo : Option NumFmt) (rm : Option Round) (la : Fin 16) :
    exec (.larnd d a fo rm la) s = execLarnd d a fo rm la s := rfl
theorem exec_laseg (d : GReg) (a : CReg) (k : Fin 10) (la : Fin 16) :
    exec (.laseg d a k la) s = execLaseg d a k la s := rfl
theorem exec_mma (d : CReg) (a : VReg) (b : VReg) (clr : Bool) (la : Fin 16) :
    exec (.mma d a b clr la) s = execMma d a b clr la s := rfl
theorem exec_xln (keep : Bool) (w : Width) (d : GReg) (a : GReg) (b : GReg) :
    exec (.xln keep w d a b) s = execXln keep w d a b s := rfl
theorem exec_xliBfly (w : Width) (d : GReg) (a : GReg) (lane : Fin 32) (sub : Fin 8) :
    exec (.xliBfly w d a lane sub) s = execXliBfly w d a lane sub s := rfl
theorem exec_xliBcast (w : Width) (d : GReg) (a : GReg) (lane : Fin 32) (sub : Fin 8) :
    exec (.xliBcast w d a lane sub) s = execXliBcast w d a lane sub s := rfl
theorem exec_xliRotup (w : Width) (d : GReg) (a : GReg) (lane : Fin 32) (sub : Fin 8) :
    exec (.xliRotup w d a lane sub) s = execXliRotup w d a lane sub s := rfl
theorem exec_xliRotdn (w : Width) (d : GReg) (a : GReg) (lane : Fin 32) (sub : Fin 8) :
    exec (.xliRotdn w d a lane sub) s = execXliRotdn w d a lane sub s := rfl
theorem exec_qxh (d : GReg) (a : GReg) : exec (.qxh d a) s = execQxh d a s := rfl
theorem exec_qxv (d : GReg) (a : GReg) : exec (.qxv d a) s = execQxv d a s := rfl
theorem exec_qxd (d : GReg) (a : GReg) : exec (.qxd d a) s = execQxd d a s := rfl
theorem exec_qbc0 (d : GReg) (a : GReg) : exec (.qbc0 d a) s = execQbc0 d a s := rfl
theorem exec_qbc1 (d : GReg) (a : GReg) : exec (.qbc1 d a) s = execQbc1 d a s := rfl
theorem exec_qbc2 (d : GReg) (a : GReg) : exec (.qbc2 d a) s = execQbc2 d a s := rfl
theorem exec_qbc3 (d : GReg) (a : GReg) : exec (.qbc3 d a) s = execQbc3 d a s := rfl
theorem exec_vany (d : PReg) (a : PReg) : exec (.vany d a) s = execVany d a s := rfl
theorem exec_vall (d : PReg) (a : PReg) : exec (.vall d a) s = execVall d a s := rfl
theorem exec_vbal (d : GReg) (a : PReg) : exec (.vbal d a) s = execVbal d a s := rfl
theorem exec_mbcnt (d : GReg) (a : GReg) : exec (.mbcnt d a) s = execMbcnt d a s := rfl
theorem exec_vfirst (d : GReg) (a : PReg) : exec (.vfirst d a) s = execVfirst d a s := rfl
theorem exec_mmas (d : CReg) (a : VReg) (b : VReg) (clr : Bool) (la : Fin 16) :
    exec (.mmas d a b clr la) s = execMmas d a b clr la s := rfl
theorem exec_last (d : CReg) (a : GReg) (f : PReg) (la : Fin 16) : exec (.last d a f la) s = execLast d a f la s := rfl
theorem exec_lald (d : CReg) (a : GReg) (f : PReg) (la : Fin 16) : exec (.lald d a f la) s = execLald d a f la s := rfl
theorem exec_ld (sz : LdSize) (pol : Policy) (d : GReg) (a : GReg) (f : PReg) (la : Fin 16) :
    exec (.ld sz pol d a f la) s = execLd sz pol d a f la s := rfl
theorem exec_ldx (sz : LdxSize) (pol : Policy) (d : GReg) (a : GReg) (f : PReg) (la : Fin 16) :
    exec (.ldx sz pol d a f la) s = execLdx sz pol d a f la s := rfl
theorem exec_st (sz : StSize) (pol : Policy) (d : GReg) (a : GReg) (f : PReg) (la : Fin 16) :
    exec (.st sz pol d a f la) s = execSt sz pol d a f la s := rfl
theorem exec_stx (sz : StxSize) (pol : Policy) (d : GReg) (a : GReg) (f : PReg) (la : Fin 16) :
    exec (.stx sz pol d a f la) s = execStx sz pol d a f la s := rfl
theorem exec_lds (w : Width) (d : GReg) (a : GReg) (f : PReg) (la : Fin 16) :
    exec (.lds w d a f la) s = execLds w d a f la s := rfl
theorem exec_ldsc (w : Width) (d : GReg) (a : GReg) (f : PReg) (la : Fin 16) :
    exec (.ldsc w d a f la) s = execLdsc w d a f la s := rfl
theorem exec_sts (w : Width) (d : GReg) (a : GReg) (f : PReg) (la : Fin 16) :
    exec (.sts w d a f la) s = execSts w d a f la s := rfl
theorem exec_stsc (w : Width) (d : GReg) (a : GReg) (f : PReg) (la : Fin 16) :
    exec (.stsc w d a f la) s = execStsc w d a f la s := rfl
theorem exec_atomAdd (d : GReg) (a : BReg) (f : PReg) (la : Fin 16) :
    exec (.atomAdd d a f la) s = execAtomAdd d a f la s := rfl
theorem exec_atomMins (d : GReg) (a : BReg) (f : PReg) (la : Fin 16) :
    exec (.atomMins d a f la) s = execAtomMins d a f la s := rfl
theorem exec_atomMaxs (d : GReg) (a : BReg) (f : PReg) (la : Fin 16) :
    exec (.atomMaxs d a f la) s = execAtomMaxs d a f la s := rfl
theorem exec_atomMinn (d : GReg) (a : BReg) (f : PReg) (la : Fin 16) :
    exec (.atomMinn d a f la) s = execAtomMinn d a f la s := rfl
theorem exec_atomMaxn (d : GReg) (a : BReg) (f : PReg) (la : Fin 16) :
    exec (.atomMaxn d a f la) s = execAtomMaxn d a f la s := rfl
theorem exec_atomAnd (d : GReg) (a : BReg) (f : PReg) (la : Fin 16) :
    exec (.atomAnd d a f la) s = execAtomAnd d a f la s := rfl
theorem exec_atomOr (d : GReg) (a : BReg) (f : PReg) (la : Fin 16) :
    exec (.atomOr d a f la) s = execAtomOr d a f la s := rfl
theorem exec_atomXor (d : GReg) (a : BReg) (f : PReg) (la : Fin 16) :
    exec (.atomXor d a f la) s = execAtomXor d a f la s := rfl
theorem exec_atomXchg (d : GReg) (a : BReg) (f : PReg) (la : Fin 16) :
    exec (.atomXchg d a f la) s = execAtomXchg d a f la s := rfl
theorem exec_atomCas (d : GReg) (a : BReg) (f : PReg) (la : Fin 16) :
    exec (.atomCas d a f la) s = execAtomCas d a f la s := rfl
theorem exec_atomIncw (d : GReg) (a : BReg) (f : PReg) (la : Fin 16) :
    exec (.atomIncw d a f la) s = execAtomIncw d a f la s := rfl
theorem exec_atomwAdd (d : GReg) (a : BReg) (f : PReg) (la : Fin 16) :
    exec (.atomwAdd d a f la) s = execAtomwAdd d a f la s := rfl
theorem exec_atomwMins (d : GReg) (a : BReg) (f : PReg) (la : Fin 16) :
    exec (.atomwMins d a f la) s = execAtomwMins d a f la s := rfl
theorem exec_atomwMaxs (d : GReg) (a : BReg) (f : PReg) (la : Fin 16) :
    exec (.atomwMaxs d a f la) s = execAtomwMaxs d a f la s := rfl
theorem exec_atomwMinn (d : GReg) (a : BReg) (f : PReg) (la : Fin 16) :
    exec (.atomwMinn d a f la) s = execAtomwMinn d a f la s := rfl
theorem exec_atomwMaxn (d : GReg) (a : BReg) (f : PReg) (la : Fin 16) :
    exec (.atomwMaxn d a f la) s = execAtomwMaxn d a f la s := rfl
theorem exec_atomwAnd (d : GReg) (a : BReg) (f : PReg) (la : Fin 16) :
    exec (.atomwAnd d a f la) s = execAtomwAnd d a f la s := rfl
theorem exec_atomwOr (d : GReg) (a : BReg) (f : PReg) (la : Fin 16) :
    exec (.atomwOr d a f la) s = execAtomwOr d a f la s := rfl
theorem exec_atomwXor (d : GReg) (a : BReg) (f : PReg) (la : Fin 16) :
    exec (.atomwXor d a f la) s = execAtomwXor d a f la s := rfl
theorem exec_atomwXchg (d : GReg) (a : BReg) (f : PReg) (la : Fin 16) :
    exec (.atomwXchg d a f la) s = execAtomwXchg d a f la s := rfl
theorem exec_atomwCas (d : GReg) (a : BReg) (f : PReg) (la : Fin 16) :
    exec (.atomwCas d a f la) s = execAtomwCas d a f la s := rfl
theorem exec_atomwIncw (d : GReg) (a : BReg) (f : PReg) (la : Fin 16) :
    exec (.atomwIncw d a f la) s = execAtomwIncw d a f la s := rfl
theorem exec_ataccAddv (d : GReg) (a : BReg) (f : PReg) (la : Fin 16) :
    exec (.ataccAddv d a f la) s = execAtaccAddv d a f la s := rfl
theorem exec_ataccAddp (d : GReg) (a : BReg) (f : PReg) (la : Fin 16) :
    exec (.ataccAddp d a f la) s = execAtaccAddp d a f la s := rfl
theorem exec_ataccClr (d : GReg) (a : BReg) (f : PReg) (la : Fin 16) :
    exec (.ataccClr d a f la) s = execAtaccClr d a f la s := rfl
theorem exec_sleepExpiry (g : Nat) : exec (.sleepExpiry g) s = execSleepExpiry g s := rfl
theorem exec_nopreTimeout (g : Nat) : exec (.nopreTimeout g) s = execNopreTimeout g s := rfl
theorem exec_waitmMet (g : Nat) : exec (.waitmMet g) s = execWaitmMet g s := rfl
theorem exec_waitmTimeout (g : Nat) : exec (.waitmTimeout g) s = execWaitmTimeout g s := rfl
theorem exec_carrySweep (blk : Nat) (la : Nat) (k : Nat) :
    exec (.carrySweep blk la k) s = execCarrySweep blk la k s := rfl
theorem exec_updateLineEviction (key : Nat) (line : Nat) :
    exec (.updateLineEviction key line) s = execUpdateLineEviction key line s := rfl
theorem exec_landingWrite (port : Nat) (off : Nat) (data : List Byte) :
    exec (.landingWrite port off data) s = execLandingWrite port off data s := rfl
theorem exec_launchRecord (q : QRef) : exec (.launchRecord q) s = execLaunchRecord q s := rfl
theorem exec_leaveWaiting (l : Nat) : exec (.leaveWaiting l) s = execLeaveWaiting l s := rfl
theorem exec_clusterPlacement (part : Nat) : exec (.clusterPlacement part) s = execClusterPlacement part s := rfl
theorem exec_placementStarvation (l : Nat) : exec (.placementStarvation l) s = execPlacementStarvation l s := rfl
theorem exec_wait (q : QRef) : exec (.wait q) s = execWait q s := rfl
theorem exec_waitMet (q : QRef) : exec (.waitMet q) s = execWaitMet q s := rfl
theorem exec_waitTimeout (q : QRef) : exec (.waitTimeout q) s = execWaitTimeout q s := rfl
theorem exec_signal (q : QRef) : exec (.signal q) s = execSignal q s := rfl
theorem exec_copy (q : QRef) : exec (.copy q) s = execCopy q s := rfl
theorem exec_queueCreate (q : QRef) : exec (.queueCreate q) s = execQueueCreate q s := rfl
theorem exec_queueReset (q : QRef) : exec (.queueReset q) s = execQueueReset q s := rfl
theorem exec_queueDestroy (q : QRef) : exec (.queueDestroy q) s = execQueueDestroy q s := rfl
theorem exec_ctxDefine (q : QRef) : exec (.ctxDefine q) s = execCtxDefine q s := rfl
theorem exec_ctxUpdate (q : QRef) : exec (.ctxUpdate q) s = execCtxUpdate q s := rfl
theorem exec_ctxSuspend (q : QRef) : exec (.ctxSuspend q) s = execCtxSuspend q s := rfl
theorem exec_ctxResume (q : QRef) : exec (.ctxResume q) s = execCtxResume q s := rfl
theorem exec_ctxDestroy (q : QRef) : exec (.ctxDestroy q) s = execCtxDestroy q s := rfl
theorem exec_keyInstall (q : QRef) : exec (.keyInstall q) s = execKeyInstall q s := rfl
theorem exec_keyRetire (q : QRef) : exec (.keyRetire q) s = execKeyRetire q s := rfl
theorem exec_keyRetireComplete (slot : Nat) : exec (.keyRetireComplete slot) s = execKeyRetireComplete slot s := rfl
theorem exec_contextLoad (c : Nat) : exec (.contextLoad c) s = execContextLoad c s := rfl
theorem exec_contextLoadComplete (c : Nat) : exec (.contextLoadComplete c) s = execContextLoadComplete c s := rfl
theorem exec_contextIdleRelease (c : Nat) : exec (.contextIdleRelease c) s = execContextIdleRelease c s := rfl
theorem exec_preemptFallback (g : Nat) : exec (.preemptFallback g) s = execPreemptFallback g s := rfl
theorem exec_blockSave (b : Nat) : exec (.blockSave b) s = execBlockSave b s := rfl
theorem exec_contextWipeComplete (c : Nat) : exec (.contextWipeComplete c) s = execContextWipeComplete c s := rfl
theorem exec_ecpyRecord (q : QRef) : exec (.ecpyRecord q) s = execEcpyRecord q s := rfl
theorem exec_efillRecord (q : QRef) : exec (.efillRecord q) s = execEfillRecord q s := rfl
theorem exec_egathRecord (q : QRef) : exec (.egathRecord q) s = execEgathRecord q s := rfl
theorem exec_escatRecord (q : QRef) : exec (.escatRecord q) s = execEscatRecord q s := rfl
theorem exec_ercpyRecord (q : QRef) : exec (.ercpyRecord q) s = execErcpyRecord q s := rfl
theorem exec_emigRecord (q : QRef) : exec (.emigRecord q) s = execEmigRecord q s := rfl
theorem exec_cohCheck (q : QRef) : exec (.cohCheck q) s = execCohCheck q s := rfl
theorem exec_cohLoad (q : QRef) : exec (.cohLoad q) s = execCohLoad q s := rfl
theorem exec_rmapSet (q : QRef) : exec (.rmapSet q) s = execRmapSet q s := rfl
theorem exec_gets (r : CohReq) : exec (.gets r) s = execGets r s := rfl
theorem exec_getx (r : CohReq) : exec (.getx r) s = execGetx r s := rfl
theorem exec_upgr (r : CohReq) : exec (.upgr r) s = execUpgr r s := rfl
theorem exec_puts (r : CohReq) : exec (.puts r) s = execPuts r s := rfl
theorem exec_putl (r : CohReq) : exec (.putl r) s = execPutl r s := rfl
theorem exec_putx (r : CohReq) : exec (.putx r) s = execPutx r s := rfl
theorem exec_wthr (r : CohReq) : exec (.wthr r) s = execWthr r s := rfl
theorem exec_atomRequest (r : CohReq) : exec (.atomRequest r) s = execAtomRequest r s := rfl
theorem exec_getm (r : CohReq) : exec (.getm r) s = execGetm r s := rfl
theorem exec_putm (r : CohReq) : exec (.putm r) s = execPutm r s := rfl
theorem exec_iack (r : CohReq) : exec (.iack r) s = execIack r s := rfl
theorem exec_fack (r : CohReq) : exec (.fack r) s = execFack r s := rfl
theorem exec_recl (r : CohReq) : exec (.recl r) s = execRecl r s := rfl
theorem exec_flsh (r : CohReq) : exec (.flsh r) s = execFlsh r s := rfl
theorem exec_ncrd (r : CohReq) : exec (.ncrd r) s = execNcrd r s := rfl
theorem exec_ncwr (r : CohReq) : exec (.ncwr r) s = execNcwr r s := rfl
theorem exec_pageMap (q : QRef) : exec (.pageMap q) s = execPageMap q s := rfl
theorem exec_pageUnmap (q : QRef) : exec (.pageUnmap q) s = execPageUnmap q s := rfl
theorem exec_pageAttr (q : QRef) : exec (.pageAttr q) s = execPageAttr q s := rfl
theorem exec_pageBack (q : QRef) : exec (.pageBack q) s = execPageBack q s := rfl
theorem exec_frameRetire (q : QRef) : exec (.frameRetire q) s = execFrameRetire q s := rfl
theorem exec_pageFillComplete (frame : Nat) (ok : Bool) :
    exec (.pageFillComplete frame ok) s = execPageFillComplete frame ok s := rfl
theorem exec_migrationComplete (frame : Nat) (res : MigEnd) :
    exec (.migrationComplete frame res) s = execMigrationComplete frame res s := rfl
theorem exec_shootdownComplete (frame : Nat) : exec (.shootdownComplete frame) s = execShootdownComplete frame s := rfl
theorem exec_linkTrained (port : Nat) (width : Nat) :
    exec (.linkTrained port width) s = execLinkTrained port width s := rfl
theorem exec_trainingTimeout (port : Nat) : exec (.trainingTimeout port) s = execTrainingTimeout port s := rfl
theorem exec_linkRetrain (port : Nat) : exec (.linkRetrain port) s = execLinkRetrain port s := rfl
theorem exec_retrainComplete (port : Nat) (width : Nat) :
    exec (.retrainComplete port width) s = execRetrainComplete port width s := rfl
theorem exec_retrainTimeout (port : Nat) : exec (.retrainTimeout port) s = execRetrainTimeout port s := rfl
theorem exec_deadRetry (port : Nat) : exec (.deadRetry port) s = execDeadRetry port s := rfl
theorem exec_linkDisable (port : Nat) : exec (.linkDisable port) s = execLinkDisable port s := rfl
theorem exec_linkEnable (port : Nat) : exec (.linkEnable port) s = execLinkEnable port s := rfl
theorem exec_lsuReceived (origin : Nat) (plane : Nat) (st : Nat) (seq : Nat) :
    exec (.lsuReceived origin plane st seq) s = execLsuReceived origin plane st seq s := rfl
theorem exec_drainRoundEnd (port : Nat) : exec (.drainRoundEnd port) s = execDrainRoundEnd port s := rfl
theorem exec_pcieLinkChange (port : Nat) (st : Nat) (width : Nat) :
    exec (.pcieLinkChange port st width) s = execPcieLinkChange port st width s := rfl
theorem exec_ualinkRequest (port : Nat) (src : Nat) (pa : Nat) (op : UaOp) :
    exec (.ualinkRequest port src pa op) s = execUalinkRequest port src pa op s := rfl
theorem exec_collectiveClose (q : QRef) : exec (.collectiveClose q) s = execCollectiveClose q s := rfl
theorem exec_partialReceived (c : Nat) (e : Nat) (round : Nat) (loc : Nat) (rank : Nat) (mask : BitVec 512) (image : List Byte) :
    exec (.partialReceived c e round loc rank mask image) s = execPartialReceived c e round loc rank mask image s := rfl
theorem exec_mergedImageReceived (c : Nat) (e : Nat) (round : Nat) (loc : Nat) (image : List Byte) :
    exec (.mergedImageReceived c e round loc image) s = execMergedImageReceived c e round loc image s := rfl
theorem exec_deliveryAck (c : Nat) (e : Nat) (round : Nat) (rank : Nat) :
    exec (.deliveryAck c e round rank) s = execDeliveryAck c e round rank s := rfl
theorem exec_roundTimeout (c : Nat) (e : Nat) : exec (.roundTimeout c e) s = execRoundTimeout c e s := rfl
theorem exec_suspendReceived (c : Nat) (e : Nat) (rank : Nat) :
    exec (.suspendReceived c e rank) s = execSuspendReceived c e rank s := rfl
theorem exec_resumeReceived (c : Nat) (e : Nat) (rank : Nat) :
    exec (.resumeReceived c e rank) s = execResumeReceived c e rank s := rfl
theorem exec_abortReceived (c : Nat) (e : Nat) (rank : Nat) :
    exec (.abortReceived c e rank) s = execAbortReceived c e rank s := rfl
theorem exec_slotRelease (c : Nat) (e : Nat) (loc : Nat) :
    exec (.slotRelease c e loc) s = execSlotRelease c e loc s := rfl
theorem exec_healthQuery (q : QRef) : exec (.healthQuery q) s = execHealthQuery q s := rfl
theorem exec_rehearse (q : QRef) : exec (.rehearse q) s = execRehearse q s := rfl
theorem exec_coreRetire (q : QRef) : exec (.coreRetire q) s = execCoreRetire q s := rfl
theorem exec_rehearsalCfg (q : QRef) : exec (.rehearsalCfg q) s = execRehearsalCfg q s := rfl
theorem exec_rehearsalStart (core : Nat) : exec (.rehearsalStart core) s = execRehearsalStart core s := rfl
theorem exec_rehearsalSkip (core : Nat) : exec (.rehearsalSkip core) s = execRehearsalSkip core s := rfl
theorem exec_selfTestComplete (core : Nat) (pass : Bool) :
    exec (.selfTestComplete core pass) s = execSelfTestComplete core pass s := rfl
theorem exec_coreWithdrawal (core : Nat) : exec (.coreWithdrawal core) s = execCoreWithdrawal core s := rfl
theorem exec_coldReset :
    exec .coldReset s = execColdReset s := rfl
theorem exec_warmReset (dies : BitVec 4) : exec (.warmReset dies) s = execWarmReset dies s := rfl
theorem exec_thermalShutdown (die : Nat) : exec (.thermalShutdown die) s = execThermalShutdown die s := rfl
theorem exec_junctionWarning (die : Nat) : exec (.junctionWarning die) s = execJunctionWarning die s := rfl
theorem exec_lifeCycleCommand (target : LifeCycle) (valid : Bool) :
    exec (.lifeCycleCommand target valid) s = execLifeCycleCommand target valid s := rfl
theorem exec_firmwareUpdate (image version : Nat) (valid : Bool) :
    exec (.firmwareUpdate image version valid) s = execFirmwareUpdate image version valid s := rfl
theorem exec_partitionModeSet (m : PartMode) : exec (.partitionModeSet m) s = execPartitionModeSet m s := rfl
theorem exec_pldmMonitoring (sensor : Nat) : exec (.pldmMonitoring sensor) s = execPldmMonitoring sensor s := rfl
theorem exec_spdmMeasurements (index : Nat) : exec (.spdmMeasurements index) s = execSpdmMeasurements index s := rfl
theorem exec_bookArm (die : Nat) : exec (.bookArm die) s = execBookArm die s := rfl
theorem exec_bookDisarm (die : Nat) : exec (.bookDisarm die) s = execBookDisarm die s := rfl
theorem exec_bookSeal (die : Nat) : exec (.bookSeal die) s = execBookSeal die s := rfl
theorem exec_bookTailWrite (die : Nat) (v : Dword) : exec (.bookTailWrite die v) s = execBookTailWrite die v s := rfl
theorem exec_registerWrite (port : Nat) (off : Nat) (v : Dword) :
    exec (.registerWrite port off v) s = execRegisterWrite port off v s := rfl
theorem exec_pendingResultComplete (g : Nat) (idx : Nat) :
    exec (.pendingResultComplete g idx) s = execPendingResultComplete g idx s := rfl
theorem exec_postedWriteAcknowledgement (peer : Nat) :
    exec (.postedWriteAcknowledgement peer) s = execPostedWriteAcknowledgement peer s := rfl
theorem exec_systemFenceTimeout (g : Nat) : exec (.systemFenceTimeout g) s = execSystemFenceTimeout g s := rfl
theorem exec_frameWipeComplete (c : Nat) : exec (.frameWipeComplete c) s = execFrameWipeComplete c s := rfl

end Sys2Proof.Machine
end

