-- ==== Sys2Proof/Laws/Groups.lean ====
section
/-! SUPPORT. What writing registers, predicates and flags does to a group, said once for every instruction that does. -/

namespace Sys2Proof.Machine

/-! Lanes. -/

theorem mem_lanesOf {m : Mask} {l : Nat} : l ∈ lanesOf m ↔ l < 32 ∧ m.getLsbD l = true := by
  simp [lanesOf, lanes]

theorem lanesOf_nodup (m : Mask) : (lanesOf m).Nodup := List.filter_sublist.nodup List.nodup_range

theorem lanesOn_lt {g : Group} {l : Nat} (h : l ∈ g.lanesOn) : l < 32 := (mem_lanesOf.1 h).1

theorem evalLanes_sub {g : Group} {d : GReg} {l : Nat} (h : l ∈ g.evalLanes d) : l ∈ g.lanesOn := by
  unfold Group.evalLanes at h
  split at h
  · exact List.mem_of_mem_take h
  · exact h

theorem evalLanes_nodup (g : Group) (d : GReg) : (g.evalLanes d).Nodup := by
  unfold Group.evalLanes
  split
  · exact (List.take_sublist _ _).nodup (lanesOf_nodup _)
  · exact lanesOf_nodup _

theorem vKey_inj {p q l m : Nat} (hl : l < 32) (hm : m < 32) : vKey p l = vKey q m ↔ p = q ∧ l = m := by
  unfold vKey
  omega

/-! Folds that set keys. -/

theorem foldl_asetD_other {V α : Type} [DecidableEq V] (key : α → Nat) (val : α → V) (d : V) (ls : List α) (m : AMap V)
    {k : Nat} (h : ∀ x ∈ ls, key x ≠ k) :
    agetD (ls.foldl (fun m x => asetD m (key x) (val x) d) m) k d = agetD m k d := by
  induction ls generalizing m with
  | nil => rfl
  | cons x r ih =>
    simp only [List.foldl_cons]
    rw [ih _ fun y hy => h y (List.mem_cons_of_mem _ hy)]
    exact agetD_asetD_other _ _ _ (h x (List.mem_cons_self ..))

theorem foldl_asetD_same {V α : Type} [DecidableEq V] (key : α → Nat) (val : α → V) (d : V) (ls : List α) (m : AMap V)
    {x : α} (hx : x ∈ ls) (inj : ∀ y ∈ ls, key y = key x → val y = val x) :
    agetD (ls.foldl (fun m x => asetD m (key x) (val x) d) m) (key x) d = val x := by
  induction ls generalizing m x with
  | nil => cases hx
  | cons y r ih =>
    simp only [List.foldl_cons]
    by_cases hr : ∃ z ∈ r, key z = key x
    · obtain ⟨z, hz, hk⟩ := hr
      have hv := inj z (List.mem_cons_of_mem _ hz) hk
      have := ih (asetD m (key y) (val y) d) hz fun w hw h =>
        (inj w (List.mem_cons_of_mem _ hw) (h.trans hk)).trans hv.symm
      rwa [hk, hv] at this
    · rw [foldl_asetD_other key val d r _ fun z hz hk => hr ⟨z, hz, hk⟩]
      rcases List.mem_cons.1 hx with h | h
      · subst h; simp
      · exact absurd ⟨x, h, rfl⟩ hr

/-! Writing a destination. -/

theorem writeAll_z (g : Group) (vs : List (Nat × Dword)) : g.writeAll .z vs = g := by
  induction vs with
  | nil => rfl
  | cons v r ih => simpa [Group.writeAll, Group.writeR] using ih

theorem writeAll_v (g : Group) (n : VReg) (vs : List (Nat × Dword)) :
    g.writeAll (.v n) vs =
      { g with vregs := vs.foldl (fun m p => asetD m (vKey (g.wbase + n.val) p.1) p.2 0) g.vregs } := by
  induction vs generalizing g with
  | nil => rfl
  | cons v r ih =>
    simp only [Group.writeAll, List.foldl_cons] at ih ⊢
    rw [ih]
    rfl

theorem writeAll_s (g : Group) (n : Fin 16) (vs : List (Nat × Dword)) :
    g.writeAll (.s n) vs = { g with sregs := vs.foldl (fun m p => asetD m n.val p.2 0) g.sregs } := by
  induction vs generalizing g with
  | nil => rfl
  | cons v r ih =>
    simp only [Group.writeAll, List.foldl_cons] at ih ⊢
    rw [ih]
    rfl

theorem writeAll_preds (g : Group) (d : GReg) (vs : List (Nat × Dword)) : (g.writeAll d vs).preds = g.preds := by
  cases d
  · rw [writeAll_z]
  · rw [writeAll_v]
  · rw [writeAll_s]

theorem writeAll_shell (g : Group) (d : GReg) (vs : List (Nat × Dword)) : (g.writeAll d vs).shell = g.shell := by
  cases d
  · rw [writeAll_z]
  · rw [writeAll_v]; rfl
  · rw [writeAll_s]; rfl

/-- The one law of a destination write: each written lane holds its value, and no other register changes. -/
theorem laneResult_wrote (g : Group) (d : GReg) (f : Nat → Dword) :
    WroteReg g (g.laneResult d f) d fun l v => v = f l := by
  unfold Group.laneResult
  cases d with
  | z =>
    rw [writeAll_z]
    exact ⟨by simp [Group.written], fun _ _ => rfl, fun _ _ => rfl⟩
  | v n =>
    rw [writeAll_v]
    refine ⟨?_, ?_, fun _ _ => rfl⟩
    · intro l hl
      simp only [Group.written] at hl
      simp only [Group.readR, Group.readV, List.foldl_map]
      exact foldl_asetD_same (fun l => vKey (g.wbase + n.val) l) f 0 _ _ hl fun y hy hk => by
        have := (vKey_inj (lanesOn_lt (evalLanes_sub hy)) (lanesOn_lt (evalLanes_sub hl))).1 hk
        rw [this.2]
    · intro k hk
      simp only [List.foldl_map]
      exact foldl_asetD_other (fun l => vKey (g.wbase + n.val) l) f 0 _ _ fun x hx h => hk n rfl x hx h.symm
  | s n =>
    rw [writeAll_s]
    refine ⟨?_, fun _ _ => rfl, ?_⟩
    · intro l hl
      simp only [Group.written] at hl
      simp only [Group.readR, Group.readSn, List.foldl_map]
      refine foldl_asetD_same (fun _ => n.val) f 0 _ _ hl fun y hy _ => ?_
      have h1 : ∀ {x : Nat}, x ∈ g.evalLanes (.s n) → g.lanesOn.head? = some x := by
        intro x hx
        simp only [Group.evalLanes, lowest] at hx
        cases h : g.lanesOn with
        | nil => simp [h] at hx
        | cons a r => simp [h] at hx; simp [hx]
      have e := (h1 hy).symm.trans (h1 hl)
      exact congrArg f (Option.some.inj e)
    · intro m hm
      simp only [Group.readSn, List.foldl_map]
      by_cases he : g.evalLanes (.s n) = []
      · simp [he]
      · exact foldl_asetD_other (fun _ => n.val) f 0 _ _ fun x _ h => hm n rfl he h.symm

theorem laneResult_only (g : Group) (d : GReg) (f : Nat → Dword) :
    OnlyReg g (g.laneResult d f) d fun l v => v = f l :=
  ⟨laneResult_wrote g d f, writeAll_preds .., writeAll_shell ..⟩

theorem WroteReg.mono {g new : Group} {d : GReg} {p q : Nat → Dword → Prop} (h : WroteReg g new d p)
    (hpq : ∀ l v, p l v → q l v) : WroteReg g new d q :=
  ⟨fun l hl => hpq l _ (h.value l hl), h.vregs, h.sregs⟩

theorem OnlyReg.mono {g new : Group} {d : GReg} {p q : Nat → Dword → Prop} (h : OnlyReg g new d p)
    (hpq : ∀ l v, p l v → q l v) : OnlyReg g new d q := ⟨h.1.mono hpq, h.2⟩

/-! Writing a predicate. -/

theorem writeAllP_top (g : Group) (vs : List (Nat × BitVec 8)) : g.writeAllP 15 vs = g := by
  induction vs with
  | nil => rfl
  | cons v r ih => simpa [Group.writeAllP, Group.writeP] using ih

theorem writeAllP_eq (g : Group) {p : PReg} (hp : p ≠ 15) (vs : List (Nat × BitVec 8)) :
    g.writeAllP p vs = { g with preds := vs.foldl (fun m q => asetD m (32 * p.val + q.1) q.2 0) g.preds } := by
  induction vs generalizing g with
  | nil => rfl
  | cons v r ih =>
    simp only [Group.writeAllP, List.foldl_cons] at ih ⊢
    rw [ih]
    simp [Group.writeP, hp]

theorem writeAllP_frame (g : Group) (p : PReg) (vs : List (Nat × BitVec 8)) :
    (g.writeAllP p vs).vregs = g.vregs ∧ (g.writeAllP p vs).sregs = g.sregs ∧ (g.writeAllP p vs).shell = g.shell := by
  by_cases hp : p = 15
  · subst hp; rw [writeAllP_top]; exact ⟨rfl, rfl, rfl⟩
  · rw [writeAllP_eq g hp]; exact ⟨rfl, rfl, rfl⟩

/-- The one law of a predicate write. -/
theorem writeAllP_wrote (g : Group) (p : PReg) (ls : List Nat) (f : Nat → BitVec 8) (hls : ls = g.lanesOn) :
    WrotePred g (g.writeAllP p (ls.map fun l => (l, f l))) p fun l v => v = f l := by
  subst hls
  by_cases hp : p = 15
  · subst hp
    rw [writeAllP_top]
    exact ⟨fun h => absurd rfl h, fun _ => by simp [Group.readP], fun _ _ => rfl⟩
  · rw [writeAllP_eq g hp]
    simp only [List.foldl_map]
    refine ⟨fun _ l hl => ?_, fun _ => by simp [Group.readP], fun k hk => ?_⟩
    · simp only [Group.readP, hp, if_false]
      exact foldl_asetD_same (fun l => 32 * p.val + l) f 0 _ _ hl fun y _ h => by
        have : y = l := by omega
        rw [this]
    · exact foldl_asetD_other (fun l => 32 * p.val + l) f 0 _ _ fun x hx h => hk hp x hx h.symm

theorem laneResultP_only (g : Group) (p : PReg) (f : Nat → BitVec 8) :
    OnlyPred g (g.laneResultP p f) p fun l v => v = f l := by
  have h := writeAllP_frame g p (g.lanesOn.map fun l => (l, f l))
  exact ⟨writeAllP_wrote g p _ f rfl, h⟩

theorem OnlyPred.mono {g new : Group} {p : PReg} {q r : Nat → BitVec 8 → Prop} (h : OnlyPred g new p q)
    (hqr : ∀ l v, q l v → r l v) : OnlyPred g new p r :=
  ⟨⟨fun hp l hl => hqr l _ (h.1.value hp l hl), h.1.top, h.1.others⟩, h.2⟩

/-! Raising flags. -/

theorem orLane_bit (m : Mask) (l k : Nat) (b : Bool) (hl : l < 32) :
    (orLane m l b).getLsbD k = (m.getLsbD k || (decide (k = l) && b)) := by
  unfold orLane
  cases b with
  | false => simp
  | true =>
    simp only [if_true, BitVec.getLsbD_or, Bool.and_true]
    congr 1
    by_cases h : k = l
    · subst h
      simp [hl]
    · simp only [h, decide_false]
      simp [BitVec.getLsbD_shiftLeft]
      intro _ _
      omega

theorem raise_frame (g : Group) (l : Nat) (f : Flg) :
    (g.raise l f).core = g.core ∧ (g.raise l f).sregs = g.sregs ∧ (g.raise l f).vregs = g.vregs
      ∧ (g.raise l f).preds = g.preds ∧ (g.raise l f).members = g.members := by
  unfold Group.raise
  split <;> exact ⟨rfl, rfl, rfl, rfl, rfl⟩

theorem raiseAll_frame (g : Group) (fs : List (Nat × Flg)) :
    (g.raiseAll fs).core = g.core ∧ (g.raiseAll fs).sregs = g.sregs ∧ (g.raiseAll fs).vregs = g.vregs
      ∧ (g.raiseAll fs).preds = g.preds ∧ (g.raiseAll fs).members = g.members := by
  induction fs generalizing g with
  | nil => exact ⟨rfl, rfl, rfl, rfl, rfl⟩
  | cons x r ih =>
    have h := ih (g.raise x.1 x.2)
    have k := raise_frame g x.1 x.2
    simp only [Group.raiseAll, List.foldl_cons] at h ⊢
    exact ⟨h.1.trans k.1, h.2.1.trans k.2.1, h.2.2.1.trans k.2.2.1, h.2.2.2.1.trans k.2.2.2.1,
      h.2.2.2.2.trans k.2.2.2.2⟩

/-- One of the five masks after flags are raised, read by a projection and the flag it takes. -/
theorem raiseAll_mask (mask : Group → Mask) (flag : Flg → Bool)
    (step : ∀ (g : Group) l f, mask (g.raise l f) = if g.isMember l then orLane (mask g) l (flag f) else mask g)
    (g : Group) (ls : List Nat) (fl : Nat → Flg) (hls : ∀ l ∈ ls, l < 32) (k : Nat) :
    (mask (g.raiseAll (ls.map fun l => (l, fl l)))).getLsbD k
      = ((mask g).getLsbD k || (g.isMember k && (ls.contains k && flag (fl k)))) := by
  induction ls generalizing g with
  | nil => simp [Group.raiseAll]
  | cons x r ih =>
    have hm : (g.raise x (fl x)).isMember k = g.isMember k := by
      simp [Group.isMember, (raise_frame g x (fl x)).2.2.2.2]
    have h := ih (g.raise x (fl x)) fun l hl => hls l (List.mem_cons_of_mem _ hl)
    simp only [Group.raiseAll, List.map_cons, List.foldl_cons] at h ⊢
    rw [h, hm, step]
    by_cases hk : k = x
    · subst hk
      by_cases hmem : g.isMember k = true
      · simp only [hmem, if_true, List.contains_cons, beq_self_eq_true, Bool.true_or, Bool.true_and]
        rw [orLane_bit _ _ _ _ (hls k (List.mem_cons_self ..))]
        simp only [decide_true, Bool.true_and]
        cases (mask g).getLsbD k <;> cases flag (fl k) <;> simp
      · simp only [Bool.not_eq_true] at hmem
        simp [hmem]
    · have hb : (k == x) = false := by simpa using hk
      simp only [List.contains_cons, hb, Bool.false_or]
      split
      · rw [orLane_bit _ _ _ _ (hls x (List.mem_cons_self ..))]
        simp [hk]
      · rfl

/-- The one law of raising flags in lanes. -/
theorem raiseAll_flags (g : Group) (ls : List Nat) (fl : Nat → Flg) (hls : ∀ l ∈ ls, l < 32) :
    RaisedFlags g (g.raiseAll (ls.map fun l => (l, fl l))) ls fl := by
  refine ⟨fun k => ?_, fun k => ?_, fun k => ?_, fun k => ?_, fun k => ?_⟩
  · exact raiseAll_mask Group.fpxNV Flg.nv (fun g l f => by unfold Group.raise; split <;> rfl) g ls fl hls k
  · exact raiseAll_mask Group.fpxDZ Flg.dz (fun g l f => by unfold Group.raise; split <;> rfl) g ls fl hls k
  · exact raiseAll_mask Group.fpxOF Flg.ov (fun g l f => by unfold Group.raise; split <;> rfl) g ls fl hls k
  · exact raiseAll_mask Group.fpxUF Flg.uf (fun g l f => by unfold Group.raise; split <;> rfl) g ls fl hls k
  · exact raiseAll_mask Group.fpxNX Flg.nx (fun g l f => by unfold Group.raise; split <;> rfl) g ls fl hls k

theorem readR_of_maps {g h : Group} (hv : h.vregs = g.vregs) (hs : h.sregs = g.sregs) (hw : h.wbase = g.wbase)
    (r : GReg) (l : Nat) : h.readR r l = g.readR r l := by
  cases r <;> simp [Group.readR, Group.readV, Group.readSn, hv, hs, hw]

/-- The one law of a destination write with flags. -/
theorem laneResultF_wrote (g : Group) (d : GReg) (f : Nat → Dword × Flg) :
    WroteReg g (g.laneResultF d f) d (fun l v => v = (f l).1) ∧ (g.laneResultF d f).preds = g.preds
      ∧ RaisedFlags g (g.laneResultF d f) (g.evalLanes d) (fun l => (f l).2)
      ∧ (g.laneResultF d f).core = g.core := by
  have e : g.laneResultF d f =
      (g.laneResult d fun l => (f l).1).raiseAll ((g.evalLanes d).map fun l => (l, (f l).2)) := by
    simp [Group.laneResultF, Group.laneResult, List.map_map, Function.comp_def]
  have w := laneResult_only g d fun l => (f l).1
  have sh := w.2.2
  have r := raiseAll_frame (g.laneResult d fun l => (f l).1) ((g.evalLanes d).map fun l => (l, (f l).2))
  have fl := raiseAll_flags (g.laneResult d fun l => (f l).1) (g.evalLanes d) (fun l => (f l).2) fun l hl =>
    lanesOn_lt (evalLanes_sub hl)
  rw [e]
  have hsh : ∀ {α : Type} (p : Group → α), (∀ g : Group, p g.shell = p g) →
      p (g.laneResult d fun l => (f l).1) = p g := by
    intro α p hp
    rw [← hp (g.laneResult d fun l => (f l).1), sh, hp]
  refine ⟨⟨?_, ?_, ?_⟩, r.2.2.2.1.trans w.2.1, ?_, ?_⟩
  · intro l hl
    rw [readR_of_maps r.2.2.1 r.2.1 (by
      have := congrArg Group.wbase r.1
      exact this)]
    exact w.1.value l hl
  · intro k hk
    rw [r.2.2.1]; exact w.1.vregs k hk
  · intro n hn
    have := w.1.sregs n hn
    simp only [Group.readSn] at this ⊢
    rw [r.2.1]; exact this
  · have hm : ∀ l, (g.laneResult d fun l => (f l).1).isMember l = g.isMember l := by
      intro l
      simp only [Group.isMember]
      rw [hsh Group.members fun _ => rfl]
    have a := hsh Group.fpxNV fun _ => rfl
    have b := hsh Group.fpxDZ fun _ => rfl
    have c := hsh Group.fpxOF fun _ => rfl
    have d' := hsh Group.fpxUF fun _ => rfl
    have e' := hsh Group.fpxNX fun _ => rfl
    exact ⟨fun l => by rw [fl.nv l, hm, a], fun l => by rw [fl.dz l, hm, b], fun l => by rw [fl.ov l, hm, c],
      fun l => by rw [fl.uf l, hm, d'], fun l => by rw [fl.nx l, hm, e']⟩
  · rw [r.1]
    exact (congrArg Group.core sh : (Group.shell _).core = g.shell.core)

end Sys2Proof.Machine
end

