-- ==== Sys2Proof/Laws/Integer.lean ====
section
/-! SUPPORT. Sub-elements: what joining, splitting and mapping them gives, and the integers they stand for. -/

namespace Sys2Proof.Machine

theorem sub_lt (x : Dword) (w j : Nat) : sub x w j < 2 ^ w := Nat.mod_lt _ (Nat.two_pow_pos w)

theorem joinSubs_foldr_lt (w : Nat) (l : List Nat) : l.foldr (fun x acc => x % 2 ^ w + 2 ^ w * acc) 0 < 2 ^ (w * l.length) := by
  induction l with
  | nil => simp
  | cons a r ih =>
    simp only [List.foldr_cons, List.length_cons]
    have h1 := Nat.mod_lt a (Nat.two_pow_pos w)
    have : 2 ^ (w * (r.length+1)) = 2^w * 2 ^ (w * r.length) := by rw [Nat.mul_succ, Nat.pow_add, Nat.mul_comm]
    rw [this]
    have h2 := Nat.mul_le_mul_left (2^w) (Nat.succ_le_of_lt ih)
    rw [Nat.mul_succ] at h2
    omega

theorem foldr_sub (w : Nat) (l : List Nat) (j : Nat) (x : Nat) (h : l[j]? = some x) :
    l.foldr (fun x acc => x % 2 ^ w + 2 ^ w * acc) 0 / 2 ^ (w * j) % 2 ^ w = x % 2 ^ w := by
  induction l generalizing j with
  | nil => simp at h
  | cons a r ih =>
    cases j with
    | zero => 
      simp at h; subst h
      simp [Nat.add_mul_mod_self_left]
    | succ j =>
      simp at h
      simp only [List.foldr_cons]
      have e : w * (j + 1) = w + w * j := by rw [Nat.mul_succ, Nat.add_comm]
      rw [e, Nat.pow_add, ← Nat.div_div_eq_div_mul]
      have : (a % 2 ^ w + 2 ^ w * List.foldr (fun x acc => x % 2 ^ w + 2 ^ w * acc) 0 r) / 2 ^ w = List.foldr (fun x acc => x % 2 ^ w + 2 ^ w * acc) 0 r := by
        rw [Nat.add_mul_div_left _ _ (Nat.two_pow_pos w), Nat.div_eq_of_lt (Nat.mod_lt _ (Nat.two_pow_pos w))]; simp
      rw [this]; exact ih j h

theorem sub_joinSubs (w : Nat) (l : List Nat) (j x : Nat) (hl : w * l.length ≤ 64) (h : l[j]? = some x) :
    sub (joinSubs w l) w j = x % 2 ^ w := by
  have hlt : l.foldr (fun x acc => x % 2 ^ w + 2 ^ w * acc) 0 < 2 ^ 64 :=
    Nat.lt_of_lt_of_le (joinSubs_foldr_lt w l) (Nat.pow_le_pow_right (by decide) hl)
  have e : (joinSubs w l).toNat = l.foldr (fun x acc => x % 2 ^ w + 2 ^ w * acc) 0 := by
    simp only [joinSubs, dw, BitVec.toNat_ofNat]
    exact Nat.mod_eq_of_lt hlt
  unfold sub
  rw [e]
  exact foldr_sub w l j x h

theorem width_cases (w : Width) : Width.bits w = 64 ∨ Width.bits w = 32 ∨ Width.bits w = 16 ∨ Width.bits w = 8 := by
  cases w <;> simp [Width.bits]

theorem sub_mapSubs (w : Width) (f) (x y d : Dword) (j : Nat) (hj : j < 64 / Width.bits w) :
   sub (mapSubs (Width.bits w) f x y d) (Width.bits w) j = f (sub x (Width.bits w) j) (sub y (Width.bits w) j) (sub d (Width.bits w) j) % 2 ^ Width.bits w := by
  unfold mapSubs
  apply sub_joinSubs
  · simp; rcases width_cases w with h|h|h|h <;> simp [h]
  · simp [hj]

theorem sext_imod (n : Nat) (hn : 0 < n) (z : Int) (h1 : -((2 ^ (n - 1) : Nat) : Int) ≤ z) (h2 : z < (2 ^ (n - 1) : Nat)) :
    sext n (imod n z) = z := by
  obtain ⟨m, rfl⟩ : ∃ m, n = m + 1 := ⟨n - 1, by omega⟩
  simp only [Nat.add_sub_cancel] at h1 h2
  have hp : (2 ^ (m + 1) : Nat) = 2 * 2 ^ m := by rw [Nat.pow_succ]; omega
  have hpos := Nat.two_pow_pos m
  unfold sext imod
  rw [hp]
  simp only [Nat.add_sub_cancel]
  generalize (2 ^ m : Nat) = P at *
  have hlt : (z % ((2 * P : Nat) : Int)).toNat < 2 * P := by
    have := Int.emod_lt_of_pos z (show (0 : Int) < (2 * P : Nat) by omega)
    omega
  rw [Nat.mod_eq_of_lt hlt]
  by_cases hz : 0 ≤ z
  · rw [Int.emod_eq_of_lt hz (by omega)]
    split <;> omega
  · have e : z % ((2 * P : Nat) : Int) = z + (2 * P : Nat) := by
      rw [← Int.add_emod_right, Int.emod_eq_of_lt] <;> omega
    rw [e]
    split <;> omega

theorem sext_range (n : Nat) (hn : 0 < n) (x : Nat) : -((2^(n-1) : Nat):Int) ≤ sext n x ∧ sext n x < (2^(n-1) : Nat) := by
  obtain ⟨m, rfl⟩ : ∃ m, n = m+1 := ⟨n-1, by omega⟩
  have hp : (2 ^ (m+1) : Nat) = 2 * 2^m := by rw [Nat.pow_succ]; omega
  unfold sext; simp only [Nat.add_sub_cancel, hp]
  have := Nat.mod_lt x (show 0 < 2 * 2^m by have := Nat.two_pow_pos m; omega)
  split <;> omega
theorem imod_lt (n z) : imod n z < 2^n := by
  unfold imod
  have h := Nat.two_pow_pos n
  have : z % ((2^n : Nat):Int) < (2^n : Nat) := Int.emod_lt_of_pos _ (by omega)
  have h2 : 0 ≤ z % ((2^n : Nat):Int) := Int.emod_nonneg _ (by omega)
  omega

/-- The one law of an integer instruction's result: each sub-element of a written lane is the function of its operands,
and nothing else changes. -/
theorem laneInt_only (g : Group) (w : Width) (d a b : GReg) (f : Nat → Nat → Nat → Nat) :
    OnlyReg g (g.laneInt w d a b f) d fun l v => ∀ j < 64 / Width.bits w,
      sub v (Width.bits w) j = f (sub (g.readR a l) (Width.bits w) j) (sub (g.readR b l) (Width.bits w) j)
        (sub (g.readR d l) (Width.bits w) j) % 2 ^ Width.bits w :=
  (laneResult_only g d _).mono fun _ _ h j hj => by rw [h, sub_mapSubs w f _ _ _ j hj]

end Sys2Proof.Machine
end

