-- ==== Sys2Proof/Laws/Memory.lean ====
section
/-! SUPPORT. Laws of memory: read after write, a write leaves every other byte, and every operation on memory keeps its
canonical form. -/

namespace Sys2Proof.Machine

/-! Keys. -/

/-- Addresses under one key identifier share no byte. -/
theorem memKey_inj {key pa qa : Nat} (hp : pa < 2 ^ 52) (hq : qa < 2 ^ 52) : memKey key pa = memKey key qa ↔ pa = qa := by
  unfold memKey
  constructor
  · intro h
    split at h <;> split at h <;> omega
  · rintro rfl; rfl

/-- Two key identifiers share no byte of HBM. -/
theorem memKey_keys {k1 k2 pa qa : Nat} (hp : pa < 2 ^ 39) (hq : qa < 2 ^ 39) (h : k1 ≠ k2) :
    memKey k1 pa ≠ memKey k2 qa := by
  unfold memKey
  simp only [hp, hq, if_true]
  omega

/-- Host and pod memory take no key. -/
theorem memKey_unkeyed {k1 k2 pa : Nat} (h : ¬pa < 2 ^ 39) : memKey k1 pa = memKey k2 pa := by
  unfold memKey
  rw [if_neg h, if_neg h]

/-! One byte. -/

/-- A write of a byte is a write to memory, or nothing. -/
theorem writeByte_mem (s : State) (key pa : Nat) (b : Byte) :
    writeByte s key pa b = { s with mem := (writeByte s key pa b).mem } := by
  unfold writeByte; split <;> rfl

theorem tableByte_mem (s : State) (m : AMap Byte) (pa : Nat) : tableByte { s with mem := m } pa = tableByte s pa := rfl

theorem readByte_writeByte_same (s : State) (key pa : Nat) (b : Byte) (h : inTables pa = false) :
    readByte (writeByte s key pa b) key pa = b := by
  simp [readByte, writeByte, h]

theorem readByte_writeByte_other (s : State) {key pa k2 qa : Nat} (b : Byte) (h : memKey key pa ≠ memKey k2 qa) :
    readByte (writeByte s key pa b) k2 qa = readByte s k2 qa := by
  unfold writeByte
  by_cases hp : inTables pa = true
  · rw [if_pos hp]
  · rw [if_neg hp]
    unfold readByte
    rw [tableByte_mem]
    by_cases hq : inTables qa = true
    · rw [if_pos hq, if_pos hq]
    · rw [if_neg hq, if_neg hq]
      exact agetD_asetD_other _ _ _ h

/-- The page table's own bytes are written by the page engine only (R222). -/
theorem readByte_writeByte_tables (s : State) {key pa k2 qa : Nat} (b : Byte) (h : inTables qa = true) :
    readByte (writeByte s key pa b) k2 qa = readByte s k2 qa := by
  unfold writeByte
  by_cases hp : inTables pa = true
  · rw [if_pos hp]
  · rw [if_neg hp]
    unfold readByte
    rw [if_pos h, if_pos h, tableByte_mem]

/-! Several bytes. -/

theorem writeRaw_mem (s : State) (key pa : Nat) (l : List Byte) :
    writeRaw s key pa l = { s with mem := (writeRaw s key pa l).mem } := by
  induction l generalizing s pa with
  | nil => rfl
  | cons b r ih =>
    simp only [writeRaw]
    rw [ih (writeByte s key pa b) (pa + 1), writeByte_mem]

theorem readByte_writeRaw_other (s : State) {key pa k2 qa : Nat} (l : List Byte)
    (h : ∀ i < l.length, memKey key (pa + i) ≠ memKey k2 qa) :
    readByte (writeRaw s key pa l) k2 qa = readByte s k2 qa := by
  induction l generalizing s pa with
  | nil => rfl
  | cons b r ih =>
    simp only [writeRaw]
    rw [ih (writeByte s key pa b) fun i hi => ?_]
    · exact readByte_writeByte_other s b (h 0 (Nat.succ_pos _))
    · rw [Nat.add_assoc, Nat.add_comm 1 i]
      exact h (i + 1) (Nat.succ_lt_succ hi)

theorem readByte_writeRaw (s : State) (key pa : Nat) (l : List Byte) (i : Nat) (hi : i < l.length)
    (hp : pa + l.length ≤ 2 ^ 52) (ht : inTables (pa + i) = false) :
    readByte (writeRaw s key pa l) key (pa + i) = l[i] := by
  induction l generalizing s pa i with
  | nil => simp at hi
  | cons b r ih =>
    simp only [List.length_cons] at hi hp
    simp only [writeRaw]
    cases i with
    | zero =>
      rw [readByte_writeRaw_other _ r fun j hj h => ?_]
      · exact readByte_writeByte_same s key pa b ht
      · have := (memKey_inj (by omega) (by omega)).1 h
        omega
    | succ j =>
      have e : pa + (j + 1) = pa + 1 + j := by omega
      rw [e] at ht ⊢
      exact ih (writeByte s key pa b) (pa + 1) j (by omega) (by omega) ht

/-- What a read of several bytes gives, byte by byte. -/
theorem readRaw_length (s : State) (key pa n : Nat) : (readRaw s key pa n).length = n := by
  induction n generalizing pa with
  | zero => rfl
  | succ n ih => simp [readRaw, ih]

theorem readRaw_get (s : State) (key pa n i : Nat) (h : i < n) : (readRaw s key pa n)[i]? = some (readByte s key (pa + i)) := by
  induction n generalizing pa i with
  | zero => omega
  | succ n ih =>
    cases i with
    | zero => rfl
    | succ i =>
      have e : pa + (i + 1) = pa + 1 + i := by omega
      simp only [readRaw, List.getElem?_cons_succ, e]
      exact ih (pa + 1) i (by omega)

/-! The canonical form. -/

theorem wf_writeByte {s : State} (key pa : Nat) (b : Byte) (h : Memory.wf s.mem) : Memory.wf (writeByte s key pa b).mem := by
  unfold writeByte
  split
  · exact h
  · exact aCanon_asetD _ _ h

theorem wf_writeRaw {s : State} (key pa : Nat) (l : List Byte) (h : Memory.wf s.mem) :
    Memory.wf (writeRaw s key pa l).mem := by
  induction l generalizing s pa with
  | nil => exact h
  | cons b r ih => exact ih (s := writeByte s key pa b) (pa + 1) (wf_writeByte key pa b h)

theorem wf_wipePages {s : State} (pa n : Nat) (h : Memory.wf s.mem) : Memory.wf (wipePages s pa n).mem :=
  aCanon_filter _ h

theorem wf_foldl_aset {m : AMap Byte} (cs : List (Nat × Byte)) (h : Memory.wf m) (hc : ∀ c ∈ cs, c.2 ≠ 0) :
    Memory.wf (cs.foldl (fun m c => aset m c.1 c.2) m) := by
  induction cs generalizing m with
  | nil => exact h
  | cons c r ih =>
    refine ih (m := aset m c.1 c.2) ?_ fun d hd => hc d (List.mem_cons_of_mem _ hd)
    simp only [Memory.wf, aCanon, Bool.and_eq_true, List.all_eq_true] at h ⊢
    refine ⟨aRising_aset c.2 h.1, fun x hx => ?_⟩
    rcases mem_aset hx with e | e
    · subst e
      simpa using hc c (List.mem_cons_self ..)
    · exact h.2 x e

theorem wf_copyCells {s : State} (k1 pa1 k2 pa2 n : Nat) (h : Memory.wf s.mem) :
    Memory.wf (copyCells s k1 pa1 k2 pa2 n).mem := by
  refine wf_foldl_aset _ (aCanon_filter _ h) fun c hc => ?_
  obtain ⟨d, hd, rfl⟩ := List.mem_map.1 hc
  simp only [Memory.wf, aCanon, Bool.and_eq_true, List.all_eq_true] at h
  simpa using h.2 d (List.mem_filter.1 hd).1

/-- The operations that change what is poisoned leave memory. -/
@[simp] theorem modPage_mem (s : State) (id : Nat) (f : Frame → Frame) : (modPage s id f).mem = s.mem := rfl
@[simp] theorem poisonGranule_mem (s : State) (pa : Nat) : (poisonGranule s pa).mem = s.mem := rfl

theorem foldl_mem {α : Type} (f : State → α → State) (hf : ∀ s a, (f s a).mem = s.mem) (l : List α) (s : State) :
    (l.foldl f s).mem = s.mem := by
  induction l generalizing s with
  | nil => rfl
  | cons a r ih => rw [List.foldl_cons, ih, hf]

/-- A fold of steps that keep the canonical form keeps it. -/
theorem wf_foldl {α : Type} (f : State → α → State) (hf : ∀ s a, Memory.wf s.mem → Memory.wf (f s a).mem) (l : List α)
    {s : State} (h : Memory.wf s.mem) : Memory.wf (l.foldl f s).mem := by
  induction l generalizing s with
  | nil => exact h
  | cons a r ih => exact ih (s := f s a) (hf s a h)

@[simp] theorem findErrors_mem (s : State) (pa n : Nat) : (findErrors s pa n).mem = s.mem :=
  foldl_mem poisonGranule (fun _ _ => rfl) _ _

theorem wf_homeWrite {s : State} (key pa : Nat) (l : List Byte) (h : Memory.wf s.mem) :
    Memory.wf (homeWrite s key pa l).mem := by
  unfold homeWrite
  simp only
  split
  · refine wf_foldl _ (fun s i hs => ?_) _ (by simpa using h)
    split
    · exact hs
    · exact wf_writeByte _ _ _ hs
  · exact wf_writeRaw _ _ _ h

/-! What is performed at home (R208). -/

theorem wf_writeQuarters {s : State} (key pa : Nat) (l : List Byte) (qs : List Nat) (h : Memory.wf s.mem) :
    Memory.wf (writeQuarters s key pa l qs).mem := by
  unfold writeQuarters
  split
  · exact wf_homeWrite key pa l h
  · exact wf_foldl _ (fun _ _ hs => wf_homeWrite _ _ _ hs) _ h

/-- A contribution to a cell in error is discarded; any other is one write (R208). -/
theorem wf_homeMerge {s : State} (key pa : Nat) (im : List Byte) (h : Memory.wf s.mem) :
    Memory.wf (homeMerge s key pa im).mem := by
  unfold homeMerge
  split
  · rwa [findErrors_mem]
  · exact wf_homeWrite _ _ _ h

theorem wf_homePayload {s : State} (r : CohReq) (h : Memory.wf s.mem) : Memory.wf (homePayload s r).mem := by
  unfold homePayload
  split
  · exact h
  · exact wf_homeWrite _ _ _ h
  · exact wf_homeWrite _ _ _ h
  · exact wf_homeMerge _ _ _ h

theorem wf_homePayloadIn {s : State} (r : CohReq) (qs : List Nat) (h : Memory.wf s.mem) :
    Memory.wf (homePayloadIn s r qs).mem := by
  unfold homePayloadIn
  split
  · exact wf_writeQuarters _ _ _ _ h
  · split
    · exact wf_homePayload r h
    · exact h

/-- A test of what a group watches changes no byte (R170). -/
@[simp] theorem noteWatch_mem (s : State) : (noteWatch s).mem = s.mem := by
  unfold noteWatch
  split <;> rfl

/-- Writes in order, with the tests between them, keep the canonical form. -/
theorem wf_eachWrite {α : Type} (f : State → α → State) (hf : ∀ s a, Memory.wf s.mem → Memory.wf (f s a).mem) (l : List α)
    {s : State} (h : Memory.wf s.mem) : Memory.wf (eachWrite f s l).mem := by
  cases l with
  | nil => exact h
  | cons a r => exact wf_foldl _ (fun s b hs => hf _ b (by rwa [noteWatch_mem])) r (hf s a h)

theorem wf_landWrites {s : State} (p : Posted → Bool) (h : Memory.wf s.mem) : Memory.wf (landWrites s p).mem :=
  wf_eachWrite _ (fun _ w hs => wf_writeRaw 0 w.pa w.data hs) _ h

/-- A record of the Prompt Book keeps it (R405). -/
theorem wf_bookPut {s : State} (die kind ctx : Nat) (d2 d3 : Dword) (h : Memory.wf s.mem) :
    Memory.wf (bookPut s die kind ctx d2 d3).mem := by
  unfold bookPut
  simp only
  split
  · exact h
  · exact wf_homeWrite _ _ _ h

/-- What a write makes the groups that watch it do keeps it (R170, R409). -/
theorem wf_noteTest (pa size : Nat) {s : State} (e : Nat × Group) (h : Memory.wf s.mem) :
    Memory.wf (noteTest pa size s e).mem := by
  unfold noteTest
  split
  · exact h
  · split
    · exact h
    · split
      · exact h
      · exact wf_bookPut _ _ _ _ _ h

theorem wf_bookAccess {s : State} (ctx pa size : Nat) (k : AccCode) (agent : Dword) (h : Memory.wf s.mem) :
    Memory.wf (bookAccess s ctx pa size k agent).mem := by
  unfold bookAccess
  simp only
  split
  · exact wf_bookPut _ _ _ _ _ h
  · exact wf_foldl _ (fun _ e hs => wf_noteTest pa size e hs) _ (wf_bookPut _ _ _ _ _ h)

/-- A buffered update that merges, with its record (R178, R397, R409). -/
theorem wf_updPayload {s : State} (u : Upd) (h : Memory.wf s.mem) : Memory.wf (updPayload s u).mem := by
  unfold updPayload
  split
  · exact h
  · split
    · exact wf_homeMerge _ _ _ h
    · exact wf_homeWrite _ _ _ h

theorem wf_noteUpd {s : State} (u : Upd) (h : Memory.wf s.mem) : Memory.wf (noteUpd s u).mem := by
  unfold noteUpd
  split
  · exact wf_bookAccess _ _ _ _ _ h
  · exact h

/-- A request that meets ERR changes no byte (R211). -/
@[simp] theorem refuse_mem (s : State) (q ev : Nat) : (refuse s q ev).mem = s.mem := by
  unfold refuse
  split
  · rfl
  · split <;> rfl

@[simp] theorem answerNc_mem (s : State) (ev : Nat) (e : CohEntry) (r : CohReq) : (answerNc s ev e r).mem = s.mem := by
  unfold answerNc
  split <;> rfl

/-- A wipe keeps the canonical form: only what lies outside the module stays (R403). -/
theorem wf_wipeAll {s : State} (h : Memory.wf s.mem) : Memory.wf (wipeAll s).mem := aCanon_filter _ h

end Sys2Proof.Machine
end

