-- ==== Sys2Proof/Laws/PerInstr.lean ====
section
/-! SUPPORT. A family of lemmas, one for each constructor of Instr: the word of an instruction fits 32 bits (R242). -/

namespace Sys2Proof.Laws

open Sys2Proof Sys2Proof.Machine

theorem gReg_enc (r : GReg) : r.enc < 128 := by
  cases r <;> simp [GReg.enc] <;> omega

theorem sReg_enc (r : SReg) : r.enc < 128 := by
  cases r <;> simp [SReg.enc] <;> omega

theorem bReg_enc (r : BReg) : r.enc < 128 := by
  cases r <;> simp [BReg.enc] <;> omega

theorem width_enc (w : Width) : w.enc < 4 := by cases w <;> decide

theorem fpFmt_enc (f : FpFmt) : f.encSet < 4 := by cases f <;> decide

theorem fpFmt_major (f : FpFmt) (q : Bool) : f.major q < 40 := by cases f <;> cases q <;> decide

theorem numFmt_enc (f : NumFmt) : f.enc < 13 := by cases f <;> decide

theorem round_enc (r : Option Round) : roundEnc r < 5 := by
  cases r with
  | none => decide
  | some r => cases r <;> decide

theorem iCond_enc (c : ICond) : c.enc < 8 := by cases c <;> decide

theorem fCond_enc (c : FCond) : c.enc < 8 := by cases c <;> decide

theorem combine_enc (c : Combine) : c.enc < 4 := by cases c <;> decide

theorem scope_enc (c : Scope) : c.enc < 6 := by cases c <;> decide

theorem policy_enc (c : Policy) : c.enc < 3 := by cases c <;> decide

theorem bitN_lt (b : Bool) : bitN b < 2 := by cases b <;> decide

/-- A word of SYNC fits 32 bits. -/
theorem fmtSync_lt {pd sc a b fn : Nat} (hp : pd < 16) (hs : sc < 8) (ha : a < 128) (hb : b < 128) (hf : fn < 32) :
    fmtSync pd sc a b fn < 4294967296 := by
  simp only [fmtSync]
  omega

/-- The word of an instruction fits 32 bits; an event has none. -/
def WordFits.Statement (i : Instr) : Prop := (encodeNat i).getD 0 < 4294967296

theorem WordFits.nop : WordFits.Statement .nop := by
  show 0 < 4294967296
  decide

theorem WordFits.exit : WordFits.Statement .exit := by
  show 1 < 4294967296
  decide

theorem WordFits.trap (c : Fin 128) (a : GReg) : WordFits.Statement (.trap c a) := by
  show fmtA 0 0 a.enc c.val 2 < 4294967296
  have := c.isLt
  have := gReg_enc a
  simp only [fmtA]
  omega

theorem WordFits.rtt : WordFits.Statement .rtt := by
  show 3 < 4294967296
  decide

theorem WordFits.yield : WordFits.Statement .yield := by
  show 4 < 4294967296
  decide

theorem WordFits.sleep (a : SReg) : WordFits.Statement (.sleep a) := by
  show fmtA 0 0 a.enc 0 5 < 4294967296
  have := sReg_enc a
  simp only [fmtA]
  omega

theorem WordFits.nopre : WordFits.Statement .nopre := by
  show 6 < 4294967296
  decide

theorem WordFits.okpre : WordFits.Statement .okpre := by
  show 7 < 4294967296
  decide

theorem WordFits.mfs (d : GReg) (s : Fin 16384) : WordFits.Statement (.mfs d s) := by
  show fmtA 0 d.enc (s.val / 128) (s.val % 128) 8 < 4294967296
  have := gReg_enc d
  have := s.isLt
  simp only [fmtA]
  omega

theorem WordFits.mts (s : Fin 16384) (d : GReg) : WordFits.Statement (.mts s d) := by
  show fmtA 0 d.enc (s.val / 128) (s.val % 128) 9 < 4294967296
  have := s.isLt
  have := gReg_enc d
  simp only [fmtA]
  omega

theorem WordFits.win (a : SReg) : WordFits.Statement (.win a) := by
  show fmtA 0 0 a.enc 0 10 < 4294967296
  have := sReg_enc a
  simp only [fmtA]
  omega

theorem WordFits.awin (a : SReg) : WordFits.Statement (.awin a) := by
  show fmtA 0 0 a.enc 0 11 < 4294967296
  have := sReg_enc a
  simp only [fmtA]
  omega

theorem WordFits.fmtset (a : SReg) (b : SReg) : WordFits.Statement (.fmtset a b) := by
  show fmtA 0 0 a.enc b.enc 12 < 4294967296
  have := sReg_enc a
  have := sReg_enc b
  simp only [fmtA]
  omega

theorem WordFits.fmtget (d : GReg) : WordFits.Statement (.fmtget d) := by
  show fmtA 0 d.enc 0 0 13 < 4294967296
  have := gReg_enc d
  simp only [fmtA]
  omega

theorem WordFits.clock (d : GReg) : WordFits.Statement (.clock d) := by
  show fmtA 0 d.enc 0 0 14 < 4294967296
  have := gReg_enc d
  simp only [fmtA]
  omega

theorem WordFits.launch (a : SReg) (b : SReg) : WordFits.Statement (.launch a b) := by
  show fmtA 0 0 a.enc b.enc 15 < 4294967296
  have := sReg_enc a
  have := sReg_enc b
  simp only [fmtA]
  omega

theorem WordFits.record (a : SReg) : WordFits.Statement (.record a) := by
  show fmtA 0 0 a.enc 0 16 < 4294967296
  have := sReg_enc a
  simp only [fmtA]
  omega

theorem WordFits.sigrst : WordFits.Statement .sigrst := by
  show 17 < 4294967296
  decide

theorem WordFits.bkpt : WordFits.Statement .bkpt := by
  show 18 < 4294967296
  decide

theorem WordFits.cue (id : BitVec 16) : WordFits.Statement (.cue id) := by
  show 0x01 * 67108864 + id.toNat * 1024 < 4294967296
  have := id.isLt
  omega

theorem WordFits.sigck (imm : BitVec 16) : WordFits.Statement (.sigck imm) := by
  show 0x02 * 67108864 + imm.toNat * 1024 < 4294967296
  have := imm.isLt
  omega

theorem WordFits.stage (b : VReg) (m : BitVec 19) : WordFits.Statement (.stage b m) := by
  show 0x03 * 67108864 + b.val * 524288 + m.toNat < 4294967296
  have := b.isLt
  have := m.isLt
  omega

theorem WordFits.bra (p : PReg) (n : Bool) (o : BitVec 21) : WordFits.Statement (.bra p n o) := by
  show fmtB 0x04 p.val n o.toNat < 4294967296
  have := p.isLt
  have := bitN_lt n
  have := o.isLt
  simp only [fmtB]
  omega

theorem WordFits.brl (p : PReg) (n : Bool) (o : BitVec 21) : WordFits.Statement (.brl p n o) := by
  show fmtB 0x05 p.val n o.toNat < 4294967296
  have := p.isLt
  have := bitN_lt n
  have := o.isLt
  simp only [fmtB]
  omega

theorem WordFits.brd (p : PReg) (n : Bool) (o : BitVec 21) : WordFits.Statement (.brd p n o) := by
  show fmtB 0x06 p.val n o.toNat < 4294967296
  have := p.isLt
  have := bitN_lt n
  have := o.isLt
  simp only [fmtB]
  omega

theorem WordFits.join (o : BitVec 21) : WordFits.Statement (.join o) := by
  show fmtB 0x07 0 false o.toNat < 4294967296
  have := o.isLt
  have := bitN_lt false
  simp only [fmtB]
  omega

theorem WordFits.call (o : BitVec 26) : WordFits.Statement (.call o) := by
  show 0x08 * 67108864 + o.toNat < 4294967296
  have := o.isLt
  omega

theorem WordFits.jmpr (a : SReg) : WordFits.Statement (.jmpr a) := by
  show fmtA 0x09 0 a.enc 0 0 < 4294967296
  have := sReg_enc a
  simp only [fmtA]
  omega

theorem WordFits.callr (a : SReg) : WordFits.Statement (.callr a) := by
  show fmtA 0x09 0 a.enc 0 1 < 4294967296
  have := sReg_enc a
  simp only [fmtA]
  omega

theorem WordFits.ret : WordFits.Statement .ret := by
  show fmtA 0x09 0 0 0 2 < 4294967296
  decide

theorem WordFits.endj : WordFits.Statement .endj := by
  show fmtA 0x09 0 0 0 3 < 4294967296
  decide

theorem WordFits.loop (lc : Fin 4) (l : BitVec 8) (s : SReg) : WordFits.Statement (.loop lc l s) := by
  show 0x0A * 67108864 + lc.val * 16777216 + l.toNat * 65536 + s.enc * 512 < 4294967296
  have := lc.isLt
  have := l.isLt
  have := sReg_enc s
  omega

theorem WordFits.loopi (lc : Fin 4) (l : BitVec 8) (c : BitVec 16) : WordFits.Statement (.loopi lc l c) := by
  show 0x0B * 67108864 + lc.val * 16777216 + l.toNat * 65536 + c.toNat < 4294967296
  have := lc.isLt
  have := l.isLt
  have := c.isLt
  omega

theorem WordFits.gspan (p : PReg) (n : Bool) (c : Fin 16) : WordFits.Statement (.gspan p n c) := by
  show 0x0C * 67108864 + p.val * 4194304 + bitN n * 2097152 + c.val * 131072 < 4294967296
  have := p.isLt
  have := bitN_lt n
  have := c.isLt
  omega

theorem WordFits.fenceAcq (pd : PReg) (s : Scope) : WordFits.Statement (.fenceAcq pd s) := by
  have h : encodeNat (.fenceAcq pd s) = some (fmtSync pd.val s.enc 0 0 0) := rfl
  have hs := scope_enc s
  rw [WordFits.Statement, h, Option.getD_some]
  exact fmtSync_lt pd.isLt (by omega) (by decide) (by decide) (by decide)

theorem WordFits.fenceRel (pd : PReg) (s : Scope) : WordFits.Statement (.fenceRel pd s) := by
  show fmtSync pd.val s.enc 0 0 1 < 4294967296
  have := pd.isLt
  have := scope_enc s
  simp only [fmtSync]
  omega

theorem WordFits.fenceAr (pd : PReg) (s : Scope) : WordFits.Statement (.fenceAr pd s) := by
  show fmtSync pd.val s.enc 0 0 2 < 4294967296
  have := pd.isLt
  have := scope_enc s
  simp only [fmtSync]
  omega

theorem WordFits.barInit (id : Fin 64) (a : SReg) : WordFits.Statement (.barInit id a) := by
  show fmtSync 0 1 a.enc id.val 3 < 4294967296
  have := id.isLt
  have := sReg_enc a
  simp only [fmtSync]
  omega

theorem WordFits.barArr (id : Fin 64) : WordFits.Statement (.barArr id) := by
  show fmtSync 0 1 0 id.val 4 < 4294967296
  have := id.isLt
  simp only [fmtSync]
  omega

theorem WordFits.barWait (pd : PReg) (id : Fin 64) : WordFits.Statement (.barWait pd id) := by
  show fmtSync pd.val 1 0 id.val 5 < 4294967296
  have := pd.isLt
  have := id.isLt
  simp only [fmtSync]
  omega

theorem WordFits.barSync (pd : PReg) (id : Fin 64) : WordFits.Statement (.barSync pd id) := by
  show fmtSync pd.val 1 0 id.val 6 < 4294967296
  have := pd.isLt
  have := id.isLt
  simp only [fmtSync]
  omega

theorem WordFits.cbarArr (id : Fin 64) : WordFits.Statement (.cbarArr id) := by
  show fmtSync 0 2 0 id.val 7 < 4294967296
  have := id.isLt
  simp only [fmtSync]
  omega

theorem WordFits.cbarWait (pd : PReg) (id : Fin 64) : WordFits.Statement (.cbarWait pd id) := by
  show fmtSync pd.val 2 0 id.val 8 < 4294967296
  have := pd.isLt
  have := id.isLt
  simp only [fmtSync]
  omega

theorem WordFits.cbarSync (pd : PReg) (id : Fin 64) : WordFits.Statement (.cbarSync pd id) := by
  show fmtSync pd.val 2 0 id.val 9 < 4294967296
  have := pd.isLt
  have := id.isLt
  simp only [fmtSync]
  omega

theorem WordFits.batch : WordFits.Statement .batch := by
  show fmtSync 0 0 0 0 10 < 4294967296
  decide

theorem WordFits.bwait (pd : PReg) (a : SReg) : WordFits.Statement (.bwait pd a) := by
  show fmtSync pd.val 0 a.enc 0 11 < 4294967296
  have := pd.isLt
  have := sReg_enc a
  simp only [fmtSync]
  omega

theorem WordFits.waitm (pd : PReg) (s : Scope) (a : SReg) (b : SReg) : WordFits.Statement (.waitm pd s a b) := by
  show fmtSync pd.val s.enc a.enc b.enc 12 < 4294967296
  have := pd.isLt
  have := scope_enc s
  have := sReg_enc a
  have := sReg_enc b
  simp only [fmtSync]
  omega

theorem WordFits.qfence (a : SReg) : WordFits.Statement (.qfence a) := by
  show fmtSync 0 0 a.enc 0 13 < 4294967296
  have := sReg_enc a
  simp only [fmtSync]
  omega

theorem WordFits.pgreq (d : GReg) (a : GReg) (f : PReg) (la : Fin 16) : WordFits.Statement (.pgreq d a f la) := by
  show encM 0x0E d a f 0 la < 4294967296
  have := gReg_enc d
  have := gReg_enc a
  have := f.isLt
  have := la.isLt
  simp only [encM, fmtM]
  omega

theorem WordFits.pgqry (d : GReg) (a : GReg) (f : PReg) (la : Fin 16) : WordFits.Statement (.pgqry d a f la) := by
  show encM 0x0E d a f 1 la < 4294967296
  have := gReg_enc d
  have := gReg_enc a
  have := f.isLt
  have := la.isLt
  simp only [encM, fmtM]
  omega

theorem WordFits.pref (a : GReg) (f : PReg) (la : Fin 16) : WordFits.Statement (.pref a f la) := by
  show fmtM 0x0E 0 a.enc f.val 2 la.val < 4294967296
  have := gReg_enc a
  have := f.isLt
  have := la.isLt
  simp only [fmtM]
  omega

theorem WordFits.spl (d : VReg) (a : SReg) (f : PReg) (la : Fin 16) : WordFits.Statement (.spl d a f la) := by
  show fmtM 0x0E d.val a.enc f.val 3 la.val < 4294967296
  have := d.isLt
  have := sReg_enc a
  have := f.isLt
  have := la.isLt
  simp only [fmtM]
  omega

theorem WordFits.fil (d : VReg) (a : SReg) (f : PReg) (la : Fin 16) : WordFits.Statement (.fil d a f la) := by
  show fmtM 0x0E d.val a.enc f.val 4 la.val < 4294967296
  have := d.isLt
  have := sReg_enc a
  have := f.isLt
  have := la.isLt
  simp only [fmtM]
  omega

theorem WordFits.mapr (d : SReg) (a : SReg) (f : PReg) (la : Fin 16) : WordFits.Statement (.mapr d a f la) := by
  show fmtM 0x0E d.enc a.enc f.val 5 la.val < 4294967296
  have := sReg_enc d
  have := sReg_enc a
  have := f.isLt
  have := la.isLt
  simp only [fmtM]
  omega

theorem WordFits.syncr (d : SReg) (f : PReg) (la : Fin 16) : WordFits.Statement (.syncr d f la) := by
  show fmtM 0x0E d.enc 0 f.val 6 la.val < 4294967296
  have := sReg_enc d
  have := f.isLt
  have := la.isLt
  simp only [fmtM]
  omega

theorem WordFits.unmapr (d : SReg) (f : PReg) (la : Fin 16) : WordFits.Statement (.unmapr d f la) := by
  show fmtM 0x0E d.enc 0 f.val 7 la.val < 4294967296
  have := sReg_enc d
  have := f.isLt
  have := la.isLt
  simp only [fmtM]
  omega

theorem WordFits.pgpin (d : GReg) (a : GReg) (f : PReg) (la : Fin 16) : WordFits.Statement (.pgpin d a f la) := by
  show encM 0x0E d a f 8 la < 4294967296
  have := gReg_enc d
  have := gReg_enc a
  have := f.isLt
  have := la.isLt
  simp only [encM, fmtM]
  omega

theorem WordFits.pgunpin (d : GReg) (a : GReg) (f : PReg) (la : Fin 16) : WordFits.Statement (.pgunpin d a f la) := by
  show encM 0x0E d a f 9 la < 4294967296
  have := gReg_enc d
  have := gReg_enc a
  have := f.isLt
  have := la.isLt
  simp only [encM, fmtM]
  omega

theorem WordFits.ldu (d : SReg) (a : SReg) (w : Bool) (f : PReg) (la : Fin 16) : WordFits.Statement (.ldu d a w f la) := by
  show fmtM 0x0F d.enc a.enc f.val (bitN w) la.val < 4294967296
  have := sReg_enc d
  have := sReg_enc a
  have := bitN_lt w
  have := f.isLt
  have := la.isLt
  simp only [fmtM]
  omega

theorem WordFits.iadd (w : Width) (d : GReg) (a : GReg) (b : GReg) : WordFits.Statement (.iadd w d a b) := by
  show encI 0x10 w d a b.enc 0 < 4294967296
  have := width_enc w
  have := gReg_enc d
  have := gReg_enc a
  have := gReg_enc b
  simp only [encI, fmtA]
  omega

theorem WordFits.isub (w : Width) (d : GReg) (a : GReg) (b : GReg) : WordFits.Statement (.isub w d a b) := by
  show encI 0x10 w d a b.enc 1 < 4294967296
  have := width_enc w
  have := gReg_enc d
  have := gReg_enc a
  have := gReg_enc b
  simp only [encI, fmtA]
  omega

theorem WordFits.iaddc (w : Width) (d : GReg) (a : GReg) (b : GReg) : WordFits.Statement (.iaddc w d a b) := by
  show encI 0x10 w d a b.enc 2 < 4294967296
  have := width_enc w
  have := gReg_enc d
  have := gReg_enc a
  have := gReg_enc b
  simp only [encI, fmtA]
  omega

theorem WordFits.isubb (w : Width) (d : GReg) (a : GReg) (b : GReg) : WordFits.Statement (.isubb w d a b) := by
  show encI 0x10 w d a b.enc 3 < 4294967296
  have := width_enc w
  have := gReg_enc d
  have := gReg_enc a
  have := gReg_enc b
  simp only [encI, fmtA]
  omega

theorem WordFits.imul (w : Width) (d : GReg) (a : GReg) (b : GReg) : WordFits.Statement (.imul w d a b) := by
  show encI 0x10 w d a b.enc 4 < 4294967296
  have := width_enc w
  have := gReg_enc d
  have := gReg_enc a
  have := gReg_enc b
  simp only [encI, fmtA]
  omega

theorem WordFits.imulhs (w : Width) (d : GReg) (a : GReg) (b : GReg) : WordFits.Statement (.imulhs w d a b) := by
  show encI 0x10 w d a b.enc 5 < 4294967296
  have := width_enc w
  have := gReg_enc d
  have := gReg_enc a
  have := gReg_enc b
  simp only [encI, fmtA]
  omega

theorem WordFits.imulhn (w : Width) (d : GReg) (a : GReg) (b : GReg) : WordFits.Statement (.imulhn w d a b) := by
  show encI 0x10 w d a b.enc 6 < 4294967296
  have := width_enc w
  have := gReg_enc d
  have := gReg_enc a
  have := gReg_enc b
  simp only [encI, fmtA]
  omega

theorem WordFits.imad (w : Width) (d : GReg) (a : GReg) (b : GReg) : WordFits.Statement (.imad w d a b) := by
  show encI 0x10 w d a b.enc 7 < 4294967296
  have := width_enc w
  have := gReg_enc d
  have := gReg_enc a
  have := gReg_enc b
  simp only [encI, fmtA]
  omega

theorem WordFits.imins (w : Width) (d : GReg) (a : GReg) (b : GReg) : WordFits.Statement (.imins w d a b) := by
  show encI 0x11 w d a b.enc 0 < 4294967296
  have := width_enc w
  have := gReg_enc d
  have := gReg_enc a
  have := gReg_enc b
  simp only [encI, fmtA]
  omega

theorem WordFits.imaxs (w : Width) (d : GReg) (a : GReg) (b : GReg) : WordFits.Statement (.imaxs w d a b) := by
  show encI 0x11 w d a b.enc 1 < 4294967296
  have := width_enc w
  have := gReg_enc d
  have := gReg_enc a
  have := gReg_enc b
  simp only [encI, fmtA]
  omega

theorem WordFits.iminn (w : Width) (d : GReg) (a : GReg) (b : GReg) : WordFits.Statement (.iminn w d a b) := by
  show encI 0x11 w d a b.enc 2 < 4294967296
  have := width_enc w
  have := gReg_enc d
  have := gReg_enc a
  have := gReg_enc b
  simp only [encI, fmtA]
  omega

theorem WordFits.imaxn (w : Width) (d : GReg) (a : GReg) (b : GReg) : WordFits.Statement (.imaxn w d a b) := by
  show encI 0x11 w d a b.enc 3 < 4294967296
  have := width_enc w
  have := gReg_enc d
  have := gReg_enc a
  have := gReg_enc b
  simp only [encI, fmtA]
  omega

theorem WordFits.iabs (w : Width) (d : GReg) (a : GReg) : WordFits.Statement (.iabs w d a) := by
  show encI 0x11 w d a 0 4 < 4294967296
  have := width_enc w
  have := gReg_enc d
  have := gReg_enc a
  simp only [encI, fmtA]
  omega

theorem WordFits.imadw (d : GReg) (a : GReg) (b : GReg) : WordFits.Statement (.imadw d a b) := by
  show encI 0x11 .w64 d a b.enc 5 < 4294967296
  have := gReg_enc d
  have := gReg_enc a
  have := gReg_enc b
  have := width_enc .w64
  simp only [encI, fmtA]
  omega

theorem WordFits.popc (w : Width) (d : GReg) (a : GReg) : WordFits.Statement (.popc w d a) := by
  show encI 0x11 w d a 0 6 < 4294967296
  have := width_enc w
  have := gReg_enc d
  have := gReg_enc a
  simp only [encI, fmtA]
  omega

theorem WordFits.clz (w : Width) (d : GReg) (a : GReg) : WordFits.Statement (.clz w d a) := by
  show encI 0x11 w d a 0 7 < 4294967296
  have := width_enc w
  have := gReg_enc d
  have := gReg_enc a
  simp only [encI, fmtA]
  omega

theorem WordFits.andR (w : Width) (d : GReg) (a : GReg) (b : GReg) : WordFits.Statement (.andR w d a b) := by
  show encI 0x12 w d a b.enc 0 < 4294967296
  have := width_enc w
  have := gReg_enc d
  have := gReg_enc a
  have := gReg_enc b
  simp only [encI, fmtA]
  omega

theorem WordFits.orR (w : Width) (d : GReg) (a : GReg) (b : GReg) : WordFits.Statement (.orR w d a b) := by
  show encI 0x12 w d a b.enc 1 < 4294967296
  have := width_enc w
  have := gReg_enc d
  have := gReg_enc a
  have := gReg_enc b
  simp only [encI, fmtA]
  omega

theorem WordFits.xorR (w : Width) (d : GReg) (a : GReg) (b : GReg) : WordFits.Statement (.xorR w d a b) := by
  show encI 0x12 w d a b.enc 2 < 4294967296
  have := width_enc w
  have := gReg_enc d
  have := gReg_enc a
  have := gReg_enc b
  simp only [encI, fmtA]
  omega

theorem WordFits.andnR (w : Width) (d : GReg) (a : GReg) (b : GReg) : WordFits.Statement (.andnR w d a b) := by
  show encI 0x12 w d a b.enc 3 < 4294967296
  have := width_enc w
  have := gReg_enc d
  have := gReg_enc a
  have := gReg_enc b
  simp only [encI, fmtA]
  omega

theorem WordFits.shl (w : Width) (d : GReg) (a : GReg) (b : GReg) : WordFits.Statement (.shl w d a b) := by
  show encI 0x12 w d a b.enc 4 < 4294967296
  have := width_enc w
  have := gReg_enc d
  have := gReg_enc a
  have := gReg_enc b
  simp only [encI, fmtA]
  omega

theorem WordFits.shr (w : Width) (d : GReg) (a : GReg) (b : GReg) : WordFits.Statement (.shr w d a b) := by
  show encI 0x12 w d a b.enc 5 < 4294967296
  have := width_enc w
  have := gReg_enc d
  have := gReg_enc a
  have := gReg_enc b
  simp only [encI, fmtA]
  omega

theorem WordFits.sar (w : Width) (d : GReg) (a : GReg) (b : GReg) : WordFits.Statement (.sar w d a b) := by
  show encI 0x12 w d a b.enc 6 < 4294967296
  have := width_enc w
  have := gReg_enc d
  have := gReg_enc a
  have := gReg_enc b
  simp only [encI, fmtA]
  omega

theorem WordFits.rot (w : Width) (d : GReg) (a : GReg) (b : GReg) : WordFits.Statement (.rot w d a b) := by
  show encI 0x12 w d a b.enc 7 < 4294967296
  have := width_enc w
  have := gReg_enc d
  have := gReg_enc a
  have := gReg_enc b
  simp only [encI, fmtA]
  omega

theorem WordFits.brev (w : Width) (d : GReg) (a : GReg) : WordFits.Statement (.brev w d a) := by
  show encI 0x13 w d a 0 0 < 4294967296
  have := width_enc w
  have := gReg_enc d
  have := gReg_enc a
  simp only [encI, fmtA]
  omega

theorem WordFits.bfxs (w : Width) (d : GReg) (a : GReg) (b : GReg) : WordFits.Statement (.bfxs w d a b) := by
  show encI 0x13 w d a b.enc 1 < 4294967296
  have := width_enc w
  have := gReg_enc d
  have := gReg_enc a
  have := gReg_enc b
  simp only [encI, fmtA]
  omega

theorem WordFits.bfxn (w : Width) (d : GReg) (a : GReg) (b : GReg) : WordFits.Statement (.bfxn w d a b) := by
  show encI 0x13 w d a b.enc 2 < 4294967296
  have := width_enc w
  have := gReg_enc d
  have := gReg_enc a
  have := gReg_enc b
  simp only [encI, fmtA]
  omega

theorem WordFits.bfi (w : Width) (d : GReg) (a : GReg) (b : GReg) : WordFits.Statement (.bfi w d a b) := by
  show encI 0x13 w d a b.enc 3 < 4294967296
  have := width_enc w
  have := gReg_enc d
  have := gReg_enc a
  have := gReg_enc b
  simp only [encI, fmtA]
  omega

theorem WordFits.mov (w : Width) (d : GReg) (a : GReg) : WordFits.Statement (.mov w d a) := by
  show encI 0x13 w d a 0 4 < 4294967296
  have := width_enc w
  have := gReg_enc d
  have := gReg_enc a
  simp only [encI, fmtA]
  omega

theorem WordFits.prmb (d : GReg) (a : GReg) (b : GReg) : WordFits.Statement (.prmb d a b) := by
  show encI 0x13 .w64 d a b.enc 5 < 4294967296
  have := gReg_enc d
  have := gReg_enc a
  have := gReg_enc b
  have := width_enc .w64
  simp only [encI, fmtA]
  omega

theorem WordFits.iadds (w : Width) (d : GReg) (a : GReg) (b : GReg) : WordFits.Statement (.iadds w d a b) := by
  show encI 0x13 w d a b.enc 6 < 4294967296
  have := width_enc w
  have := gReg_enc d
  have := gReg_enc a
  have := gReg_enc b
  simp only [encI, fmtA]
  omega

theorem WordFits.iaddn (w : Width) (d : GReg) (a : GReg) (b : GReg) : WordFits.Statement (.iaddn w d a b) := by
  show encI 0x13 w d a b.enc 7 < 4294967296
  have := width_enc w
  have := gReg_enc d
  have := gReg_enc a
  have := gReg_enc b
  simp only [encI, fmtA]
  omega

theorem WordFits.iset (c : ICond) (cb : Combine) (w : Width) (pd : PReg) (a : GReg) (b : GReg) : WordFits.Statement (.iset c cb w pd a b) := by
  show fmtSet 0x14 pd.val c.enc a.enc b.enc (w.enc * 8 + cb.enc) < 4294967296
  have := iCond_enc c
  have := combine_enc cb
  have := width_enc w
  have := pd.isLt
  have := gReg_enc a
  have := gReg_enc b
  simp only [fmtSet]
  omega

theorem WordFits.pand (d : PReg) (a : PReg) (b : PReg) : WordFits.Statement (.pand d a b) := by
  show fmtA 0x15 d.val a.val b.val 0 < 4294967296
  have := d.isLt
  have := a.isLt
  have := b.isLt
  simp only [fmtA]
  omega

theorem WordFits.por (d : PReg) (a : PReg) (b : PReg) : WordFits.Statement (.por d a b) := by
  show fmtA 0x15 d.val a.val b.val 1 < 4294967296
  have := d.isLt
  have := a.isLt
  have := b.isLt
  simp only [fmtA]
  omega

theorem WordFits.pxor (d : PReg) (a : PReg) (b : PReg) : WordFits.Statement (.pxor d a b) := by
  show fmtA 0x15 d.val a.val b.val 2 < 4294967296
  have := d.isLt
  have := a.isLt
  have := b.isLt
  simp only [fmtA]
  omega

theorem WordFits.pandn (d : PReg) (a : PReg) (b : PReg) : WordFits.Statement (.pandn d a b) := by
  show fmtA 0x15 d.val a.val b.val 3 < 4294967296
  have := d.isLt
  have := a.isLt
  have := b.isLt
  simp only [fmtA]
  omega

theorem WordFits.pnot (d : PReg) (a : PReg) : WordFits.Statement (.pnot d a) := by
  show fmtA 0x15 d.val a.val 0 4 < 4294967296
  have := d.isLt
  have := a.isLt
  simp only [fmtA]
  omega

theorem WordFits.pmov (d : PReg) (a : PReg) : WordFits.Statement (.pmov d a) := by
  show fmtA 0x15 d.val a.val 0 5 < 4294967296
  have := d.isLt
  have := a.isLt
  simp only [fmtA]
  omega

theorem WordFits.addi (d : GReg) (a : GReg) (i : BitVec 12) : WordFits.Statement (.addi d a i) := by
  show fmtI 0x16 d.enc a.enc i.toNat < 4294967296
  have := gReg_enc d
  have := gReg_enc a
  have := i.isLt
  simp only [fmtI]
  omega

theorem WordFits.andi (d : GReg) (a : GReg) (i : BitVec 12) : WordFits.Statement (.andi d a i) := by
  show fmtI 0x17 d.enc a.enc i.toNat < 4294967296
  have := gReg_enc d
  have := gReg_enc a
  have := i.isLt
  simp only [fmtI]
  omega

theorem WordFits.ori (d : GReg) (a : GReg) (i : BitVec 12) : WordFits.Statement (.ori d a i) := by
  show fmtI 0x18 d.enc a.enc i.toNat < 4294967296
  have := gReg_enc d
  have := gReg_enc a
  have := i.isLt
  simp only [fmtI]
  omega

theorem WordFits.xori (d : GReg) (a : GReg) (i : BitVec 12) : WordFits.Statement (.xori d a i) := by
  show fmtI 0x19 d.enc a.enc i.toNat < 4294967296
  have := gReg_enc d
  have := gReg_enc a
  have := i.isLt
  simp only [fmtI]
  omega

theorem WordFits.shli (d : GReg) (a : GReg) (i : BitVec 12) : WordFits.Statement (.shli d a i) := by
  show fmtI 0x1A d.enc a.enc i.toNat < 4294967296
  have := gReg_enc d
  have := gReg_enc a
  have := i.isLt
  simp only [fmtI]
  omega

theorem WordFits.shri (d : GReg) (a : GReg) (i : BitVec 12) : WordFits.Statement (.shri d a i) := by
  show fmtI 0x1B d.enc a.enc i.toNat < 4294967296
  have := gReg_enc d
  have := gReg_enc a
  have := i.isLt
  simp only [fmtI]
  omega

theorem WordFits.sari (d : GReg) (a : GReg) (i : BitVec 12) : WordFits.Statement (.sari d a i) := by
  show fmtI 0x1C d.enc a.enc i.toNat < 4294967296
  have := gReg_enc d
  have := gReg_enc a
  have := i.isLt
  simp only [fmtI]
  omega

theorem WordFits.movw (d : GReg) (s : Fin 4) (i : BitVec 16) : WordFits.Statement (.movw d s i) := by
  show fmtW 0x1D d.enc s.val i.toNat < 4294967296
  have := gReg_enc d
  have := s.isLt
  have := i.isLt
  simp only [fmtW]
  omega

theorem WordFits.movk (d : GReg) (s : Fin 4) (i : BitVec 16) : WordFits.Statement (.movk d s i) := by
  show fmtW 0x1E d.enc s.val i.toNat < 4294967296
  have := gReg_enc d
  have := s.isLt
  have := i.isLt
  simp only [fmtW]
  omega

theorem WordFits.lea (d : GReg) (a : GReg) (b : GReg) (s : Fin 32) : WordFits.Statement (.lea d a b s) := by
  show fmtA 0x1F d.enc a.enc b.enc s.val < 4294967296
  have := gReg_enc d
  have := gReg_enc a
  have := gReg_enc b
  have := s.isLt
  simp only [fmtA]
  omega

theorem WordFits.fadd (m : FpFmt) (q : Bool) (d : GReg) (a : GReg) (b : GReg) : WordFits.Statement (.fadd m q d a b) := by
  show encF m q d a b.enc 0 < 4294967296
  have := fpFmt_major m q
  have := gReg_enc d
  have := gReg_enc a
  have := gReg_enc b
  simp only [encF, fmtA]
  omega

theorem WordFits.fsub (m : FpFmt) (q : Bool) (d : GReg) (a : GReg) (b : GReg) : WordFits.Statement (.fsub m q d a b) := by
  show encF m q d a b.enc 1 < 4294967296
  have := fpFmt_major m q
  have := gReg_enc d
  have := gReg_enc a
  have := gReg_enc b
  simp only [encF, fmtA]
  omega

theorem WordFits.fmul (m : FpFmt) (q : Bool) (d : GReg) (a : GReg) (b : GReg) : WordFits.Statement (.fmul m q d a b) := by
  show encF m q d a b.enc 2 < 4294967296
  have := fpFmt_major m q
  have := gReg_enc d
  have := gReg_enc a
  have := gReg_enc b
  simp only [encF, fmtA]
  omega

theorem WordFits.ffma (m : FpFmt) (q : Bool) (d : GReg) (a : GReg) (b : GReg) : WordFits.Statement (.ffma m q d a b) := by
  show encF m q d a b.enc 3 < 4294967296
  have := fpFmt_major m q
  have := gReg_enc d
  have := gReg_enc a
  have := gReg_enc b
  simp only [encF, fmtA]
  omega

theorem WordFits.ffms (m : FpFmt) (q : Bool) (d : GReg) (a : GReg) (b : GReg) : WordFits.Statement (.ffms m q d a b) := by
  show encF m q d a b.enc 4 < 4294967296
  have := fpFmt_major m q
  have := gReg_enc d
  have := gReg_enc a
  have := gReg_enc b
  simp only [encF, fmtA]
  omega

theorem WordFits.fnma (m : FpFmt) (q : Bool) (d : GReg) (a : GReg) (b : GReg) : WordFits.Statement (.fnma m q d a b) := by
  show encF m q d a b.enc 5 < 4294967296
  have := fpFmt_major m q
  have := gReg_enc d
  have := gReg_enc a
  have := gReg_enc b
  simp only [encF, fmtA]
  omega

theorem WordFits.fmin (m : FpFmt) (q : Bool) (d : GReg) (a : GReg) (b : GReg) : WordFits.Statement (.fmin m q d a b) := by
  show encF m q d a b.enc 6 < 4294967296
  have := fpFmt_major m q
  have := gReg_enc d
  have := gReg_enc a
  have := gReg_enc b
  simp only [encF, fmtA]
  omega

theorem WordFits.fmax (m : FpFmt) (q : Bool) (d : GReg) (a : GReg) (b : GReg) : WordFits.Statement (.fmax m q d a b) := by
  show encF m q d a b.enc 7 < 4294967296
  have := fpFmt_major m q
  have := gReg_enc d
  have := gReg_enc a
  have := gReg_enc b
  simp only [encF, fmtA]
  omega

theorem WordFits.fabs (m : FpFmt) (q : Bool) (d : GReg) (a : GReg) : WordFits.Statement (.fabs m q d a) := by
  show encF m q d a 0 8 < 4294967296
  have := fpFmt_major m q
  have := gReg_enc d
  have := gReg_enc a
  simp only [encF, fmtA]
  omega

theorem WordFits.fneg (m : FpFmt) (q : Bool) (d : GReg) (a : GReg) : WordFits.Statement (.fneg m q d a) := by
  show encF m q d a 0 9 < 4294967296
  have := fpFmt_major m q
  have := gReg_enc d
  have := gReg_enc a
  simp only [encF, fmtA]
  omega

theorem WordFits.fcsgn (m : FpFmt) (q : Bool) (d : GReg) (a : GReg) (b : GReg) : WordFits.Statement (.fcsgn m q d a b) := by
  show encF m q d a b.enc 10 < 4294967296
  have := fpFmt_major m q
  have := gReg_enc d
  have := gReg_enc a
  have := gReg_enc b
  simp only [encF, fmtA]
  omega

theorem WordFits.frndn (m : FpFmt) (q : Bool) (d : GReg) (a : GReg) : WordFits.Statement (.frndn m q d a) := by
  show encF m q d a 0 11 < 4294967296
  have := fpFmt_major m q
  have := gReg_enc d
  have := gReg_enc a
  simp only [encF, fmtA]
  omega

theorem WordFits.frndz (m : FpFmt) (q : Bool) (d : GReg) (a : GReg) : WordFits.Statement (.frndz m q d a) := by
  show encF m q d a 0 12 < 4294967296
  have := fpFmt_major m q
  have := gReg_enc d
  have := gReg_enc a
  simp only [encF, fmtA]
  omega

theorem WordFits.frndp (m : FpFmt) (q : Bool) (d : GReg) (a : GReg) : WordFits.Statement (.frndp m q d a) := by
  show encF m q d a 0 13 < 4294967296
  have := fpFmt_major m q
  have := gReg_enc d
  have := gReg_enc a
  simp only [encF, fmtA]
  omega

theorem WordFits.frndm (m : FpFmt) (q : Bool) (d : GReg) (a : GReg) : WordFits.Statement (.frndm m q d a) := by
  show encF m q d a 0 14 < 4294967296
  have := fpFmt_major m q
  have := gReg_enc d
  have := gReg_enc a
  simp only [encF, fmtA]
  omega

theorem WordFits.fclass (m : FpFmt) (q : Bool) (d : GReg) (a : GReg) : WordFits.Statement (.fclass m q d a) := by
  show encF m q d a 0 15 < 4294967296
  have := fpFmt_major m q
  have := gReg_enc d
  have := gReg_enc a
  simp only [encF, fmtA]
  omega

theorem WordFits.frcp (m : FpFmt) (q : Bool) (d : GReg) (a : GReg) : WordFits.Statement (.frcp m q d a) := by
  show encF m q d a 0 16 < 4294967296
  have := fpFmt_major m q
  have := gReg_enc d
  have := gReg_enc a
  simp only [encF, fmtA]
  omega

theorem WordFits.frsq (m : FpFmt) (q : Bool) (d : GReg) (a : GReg) : WordFits.Statement (.frsq m q d a) := by
  show encF m q d a 0 17 < 4294967296
  have := fpFmt_major m q
  have := gReg_enc d
  have := gReg_enc a
  simp only [encF, fmtA]
  omega

theorem WordFits.fsqrt (m : FpFmt) (q : Bool) (d : GReg) (a : GReg) : WordFits.Statement (.fsqrt m q d a) := by
  show encF m q d a 0 18 < 4294967296
  have := fpFmt_major m q
  have := gReg_enc d
  have := gReg_enc a
  simp only [encF, fmtA]
  omega

theorem WordFits.fdiv (m : FpFmt) (q : Bool) (d : GReg) (a : GReg) (b : GReg) : WordFits.Statement (.fdiv m q d a b) := by
  show encF m q d a b.enc 19 < 4294967296
  have := fpFmt_major m q
  have := gReg_enc d
  have := gReg_enc a
  have := gReg_enc b
  simp only [encF, fmtA]
  omega

theorem WordFits.fexp2 (m : FpFmt) (q : Bool) (d : GReg) (a : GReg) : WordFits.Statement (.fexp2 m q d a) := by
  show encF m q d a 0 20 < 4294967296
  have := fpFmt_major m q
  have := gReg_enc d
  have := gReg_enc a
  simp only [encF, fmtA]
  omega

theorem WordFits.flog2 (m : FpFmt) (q : Bool) (d : GReg) (a : GReg) : WordFits.Statement (.flog2 m q d a) := by
  show encF m q d a 0 21 < 4294967296
  have := fpFmt_major m q
  have := gReg_enc d
  have := gReg_enc a
  simp only [encF, fmtA]
  omega

theorem WordFits.fscl (m : FpFmt) (q : Bool) (d : GReg) (a : GReg) (b : GReg) : WordFits.Statement (.fscl m q d a b) := by
  show encF m q d a b.enc 22 < 4294967296
  have := fpFmt_major m q
  have := gReg_enc d
  have := gReg_enc a
  have := gReg_enc b
  simp only [encF, fmtA]
  omega

theorem WordFits.fset (c : FCond) (cb : Combine) (m : FpFmt) (pd : PReg) (a : GReg) (b : GReg) : WordFits.Statement (.fset c cb m pd a b) := by
  show fmtSet 0x28 pd.val c.enc a.enc b.enc (m.encSet * 8 + cb.enc) < 4294967296
  have := fCond_enc c
  have := combine_enc cb
  have := fpFmt_enc m
  have := pd.isLt
  have := gReg_enc a
  have := gReg_enc b
  simp only [fmtSet]
  omega

theorem WordFits.fsets (c : FCond) (cb : Combine) (m : FpFmt) (pd : PReg) (a : GReg) (b : GReg) : WordFits.Statement (.fsets c cb m pd a b) := by
  show fmtSet 0x29 pd.val c.enc a.enc b.enc (m.encSet * 8 + cb.enc) < 4294967296
  have := fCond_enc c
  have := combine_enc cb
  have := fpFmt_enc m
  have := pd.isLt
  have := gReg_enc a
  have := gReg_enc b
  simp only [fmtSet]
  omega

theorem WordFits.cvt (dst : NumFmt) (src : NumFmt) (rm : Option Round) (sat : Bool) (d : GReg) (a : GReg) : WordFits.Statement (.cvt dst src rm sat d a) := by
  show fmtA 0x2A d.enc a.enc (dst.enc * 8 + roundEnc rm) (src.enc * 2 + bitN sat) < 4294967296
  have := numFmt_enc dst
  have := numFmt_enc src
  have := round_enc rm
  have := bitN_lt sat
  have := gReg_enc d
  have := gReg_enc a
  simp only [fmtA]
  omega

theorem WordFits.qpush (q : QReg) (a : Fin 16) (n : Fin 4) : WordFits.Statement (.qpush q a n) := by
  show fmtA 0x2B q.val (112 + a.val) n.val 0 < 4294967296
  have := q.isLt
  have := a.isLt
  have := n.isLt
  simp only [fmtA]
  omega

theorem WordFits.qpop (d : SReg) (q : QReg) : WordFits.Statement (.qpop d q) := by
  show fmtA 0x2B d.enc q.val 0 1 < 4294967296
  have := sReg_enc d
  have := q.isLt
  simp only [fmtA]
  omega

theorem WordFits.qtry (d : SReg) (q : QReg) : WordFits.Statement (.qtry d q) := by
  show fmtA 0x2B d.enc q.val 0 2 < 4294967296
  have := sReg_enc d
  have := q.isLt
  simp only [fmtA]
  omega

theorem WordFits.qbind (q : QReg) (a : SReg) : WordFits.Statement (.qbind q a) := by
  show fmtA 0x2B q.val a.enc 0 3 < 4294967296
  have := q.isLt
  have := sReg_enc a
  simp only [fmtA]
  omega

theorem WordFits.qstat (d : GReg) (q : QReg) : WordFits.Statement (.qstat d q) := by
  show fmtA 0x2B d.enc q.val 0 4 < 4294967296
  have := gReg_enc d
  have := q.isLt
  simp only [fmtA]
  omega

theorem WordFits.qdrain (d : GReg) (q : QReg) : WordFits.Statement (.qdrain d q) := by
  show fmtA 0x2B d.enc q.val 0 5 < 4294967296
  have := gReg_enc d
  have := q.isLt
  simp only [fmtA]
  omega

theorem WordFits.ecpy (q : QReg) (a : Fin 16) (n : Fin 4) : WordFits.Statement (.ecpy q a n) := by
  show fmtA 0x2C q.val (112 + a.val) n.val 0 < 4294967296
  have := q.isLt
  have := a.isLt
  have := n.isLt
  simp only [fmtA]
  omega

theorem WordFits.egath (q : QReg) (a : Fin 16) (n : Fin 4) : WordFits.Statement (.egath q a n) := by
  show fmtA 0x2C q.val (112 + a.val) n.val 1 < 4294967296
  have := q.isLt
  have := a.isLt
  have := n.isLt
  simp only [fmtA]
  omega

theorem WordFits.escat (q : QReg) (a : Fin 16) (n : Fin 4) : WordFits.Statement (.escat q a n) := by
  show fmtA 0x2C q.val (112 + a.val) n.val 2 < 4294967296
  have := q.isLt
  have := a.isLt
  have := n.isLt
  simp only [fmtA]
  omega

theorem WordFits.ercpy (q : QReg) (a : Fin 16) (n : Fin 4) : WordFits.Statement (.ercpy q a n) := by
  show fmtA 0x2C q.val (112 + a.val) n.val 3 < 4294967296
  have := q.isLt
  have := a.isLt
  have := n.isLt
  simp only [fmtA]
  omega

theorem WordFits.efill (q : QReg) (a : Fin 16) (n : Fin 4) : WordFits.Statement (.efill q a n) := by
  show fmtA 0x2C q.val (112 + a.val) n.val 4 < 4294967296
  have := q.isLt
  have := a.isLt
  have := n.isLt
  simp only [fmtA]
  omega

theorem WordFits.emig (q : QReg) (a : Fin 16) (n : Fin 4) : WordFits.Statement (.emig q a n) := by
  show fmtA 0x2C q.val (112 + a.val) n.val 5 < 4294967296
  have := q.isLt
  have := a.isLt
  have := n.isLt
  simp only [fmtA]
  omega

theorem WordFits.laclr (d : CReg) (n : Fin 128) : WordFits.Statement (.laclr d n) := by
  show fmtA 0x2D d.val 0 n.val 0 < 4294967296
  have := d.isLt
  have := n.isLt
  simp only [fmtA]
  omega

theorem WordFits.laadd (d : CReg) (a : GReg) : WordFits.Statement (.laadd d a) := by
  show fmtA 0x2D d.val a.enc 0 1 < 4294967296
  have := d.isLt
  have := gReg_enc a
  simp only [fmtA]
  omega

theorem WordFits.laadds (d : CReg) (a : GReg) : WordFits.Statement (.laadds d a) := by
  show fmtA 0x2D d.val a.enc 0 2 < 4294967296
  have := d.isLt
  have := gReg_enc a
  simp only [fmtA]
  omega

theorem WordFits.lasub (d : CReg) (a : GReg) : WordFits.Statement (.lasub d a) := by
  show fmtA 0x2D d.val a.enc 0 3 < 4294967296
  have := d.isLt
  have := gReg_enc a
  simp only [fmtA]
  omega

theorem WordFits.lamad (d : CReg) (a : GReg) (b : GReg) : WordFits.Statement (.lamad d a b) := by
  show fmtA 0x2D d.val a.enc b.enc 4 < 4294967296
  have := d.isLt
  have := gReg_enc a
  have := gReg_enc b
  simp only [fmtA]
  omega

theorem WordFits.lamsb (d : CReg) (a : GReg) (b : GReg) : WordFits.Statement (.lamsb d a b) := by
  show fmtA 0x2D d.val a.enc b.enc 5 < 4294967296
  have := d.isLt
  have := gReg_enc a
  have := gReg_enc b
  simp only [fmtA]
  omega

theorem WordFits.ladot (d : CReg) (a : GReg) (b : GReg) : WordFits.Statement (.ladot d a b) := by
  show fmtA 0x2D d.val a.enc b.enc 6 < 4294967296
  have := d.isLt
  have := gReg_enc a
  have := gReg_enc b
  simp only [fmtA]
  omega

theorem WordFits.lamrg (d : CReg) (a : CReg) : WordFits.Statement (.lamrg d a) := by
  show fmtA 0x2D d.val a.val 0 7 < 4294967296
  have := d.isLt
  have := a.isLt
  simp only [fmtA]
  omega

theorem WordFits.lamov (d : CReg) (a : CReg) : WordFits.Statement (.lamov d a) := by
  show fmtA 0x2D d.val a.val 0 8 < 4294967296
  have := d.isLt
  have := a.isLt
  simp only [fmtA]
  omega

theorem WordFits.laxl (d : CReg) (a : CReg) (b : GReg) : WordFits.Statement (.laxl d a b) := by
  show fmtA 0x2D d.val a.val b.enc 9 < 4294967296
  have := d.isLt
  have := a.isLt
  have := gReg_enc b
  simp only [fmtA]
  omega

theorem WordFits.laxb (d : CReg) (a : CReg) (k : Fin 128) : WordFits.Statement (.laxb d a k) := by
  show fmtA 0x2D d.val a.val k.val 10 < 4294967296
  have := d.isLt
  have := a.isLt
  have := k.isLt
  simp only [fmtA]
  omega

theorem WordFits.lacrs (d : CReg) (n : Fin 128) : WordFits.Statement (.lacrs d n) := by
  show fmtA 0x2D d.val 0 n.val 11 < 4294967296
  have := d.isLt
  have := n.isLt
  simp only [fmtA]
  omega

theorem WordFits.laflg (d : GReg) (a : CReg) : WordFits.Statement (.laflg d a) := by
  show fmtA 0x2D d.enc a.val 0 12 < 4294967296
  have := gReg_enc d
  have := a.isLt
  simp only [fmtA]
  omega

theorem WordFits.laput (d : CReg) (a : GReg) (k : Fin 128) : WordFits.Statement (.laput d a k) := by
  show fmtA 0x2D d.val a.enc k.val 13 < 4294967296
  have := d.isLt
  have := gReg_enc a
  have := k.isLt
  simp only [fmtA]
  omega

theorem WordFits.laneg (d : CReg) (a : CReg) : WordFits.Statement (.laneg d a) := by
  show fmtA 0x2D d.val a.val 0 14 < 4294967296
  have := d.isLt
  have := a.isLt
  simp only [fmtA]
  omega

theorem WordFits.larnd (d : GReg) (a : CReg) (fo : Option NumFmt) (rm : Option Round) (la : Fin 16) : WordFits.Statement (.larnd d a fo rm la) := by
  show fmtX 0x2E d.enc a.val ((match fo with | none => 15 | some f => f.enc) * 8 + roundEnc rm) 0 la.val < 4294967296
  have := gReg_enc d
  have := a.isLt
  have := round_enc rm
  have := la.isLt
  simp only [fmtX]
  cases fo with
  | none =>
    simp only
    omega
  | some f =>
    have := numFmt_enc f
    simp only
    omega

theorem WordFits.laseg (d : GReg) (a : CReg) (k : Fin 10) (la : Fin 16) : WordFits.Statement (.laseg d a k la) := by
  show fmtX 0x2E d.enc a.val k.val 1 la.val < 4294967296
  have := gReg_enc d
  have := a.isLt
  have := k.isLt
  have := la.isLt
  simp only [fmtX]
  omega

theorem WordFits.mma (d : CReg) (a : VReg) (b : VReg) (t : Bool) (la : Fin 16) : WordFits.Statement (.mma d a b t la) := by
  show fmtX 0x2F d.val a.val b.val (bitN t) la.val < 4294967296
  have := d.isLt
  have := a.isLt
  have := b.isLt
  have := bitN_lt t
  have := la.isLt
  simp only [fmtX]
  omega

theorem WordFits.xln (k : Bool) (w : Width) (d : GReg) (a : GReg) (b : GReg) : WordFits.Statement (.xln k w d a b) := by
  show fmtA 0x30 d.enc a.enc b.enc (w.enc * 8 + bitN k * 4) < 4294967296
  have := bitN_lt k
  have := width_enc w
  have := gReg_enc d
  have := gReg_enc a
  have := gReg_enc b
  simp only [fmtA]
  omega

theorem WordFits.xliBfly (w : Width) (d : GReg) (a : GReg) (l : Fin 32) (s : Fin 8) : WordFits.Statement (.xliBfly w d a l s) := by
  show encXli w 0 d a l s < 4294967296
  have := width_enc w
  have := gReg_enc d
  have := gReg_enc a
  have := l.isLt
  have := s.isLt
  simp only [encXli, fmtA]
  omega

theorem WordFits.xliBcast (w : Width) (d : GReg) (a : GReg) (l : Fin 32) (s : Fin 8) : WordFits.Statement (.xliBcast w d a l s) := by
  show encXli w 1 d a l s < 4294967296
  have := width_enc w
  have := gReg_enc d
  have := gReg_enc a
  have := l.isLt
  have := s.isLt
  simp only [encXli, fmtA]
  omega

theorem WordFits.xliRotup (w : Width) (d : GReg) (a : GReg) (l : Fin 32) (s : Fin 8) : WordFits.Statement (.xliRotup w d a l s) := by
  show encXli w 2 d a l s < 4294967296
  have := width_enc w
  have := gReg_enc d
  have := gReg_enc a
  have := l.isLt
  have := s.isLt
  simp only [encXli, fmtA]
  omega

theorem WordFits.xliRotdn (w : Width) (d : GReg) (a : GReg) (l : Fin 32) (s : Fin 8) : WordFits.Statement (.xliRotdn w d a l s) := by
  show encXli w 3 d a l s < 4294967296
  have := width_enc w
  have := gReg_enc d
  have := gReg_enc a
  have := l.isLt
  have := s.isLt
  simp only [encXli, fmtA]
  omega

theorem WordFits.qxh (d : GReg) (a : GReg) : WordFits.Statement (.qxh d a) := by
  show fmtA 0x32 d.enc a.enc 0 0 < 4294967296
  have := gReg_enc d
  have := gReg_enc a
  simp only [fmtA]
  omega

theorem WordFits.qxv (d : GReg) (a : GReg) : WordFits.Statement (.qxv d a) := by
  show fmtA 0x32 d.enc a.enc 0 1 < 4294967296
  have := gReg_enc d
  have := gReg_enc a
  simp only [fmtA]
  omega

theorem WordFits.qxd (d : GReg) (a : GReg) : WordFits.Statement (.qxd d a) := by
  show fmtA 0x32 d.enc a.enc 0 2 < 4294967296
  have := gReg_enc d
  have := gReg_enc a
  simp only [fmtA]
  omega

theorem WordFits.qbc0 (d : GReg) (a : GReg) : WordFits.Statement (.qbc0 d a) := by
  show fmtA 0x32 d.enc a.enc 0 3 < 4294967296
  have := gReg_enc d
  have := gReg_enc a
  simp only [fmtA]
  omega

theorem WordFits.qbc1 (d : GReg) (a : GReg) : WordFits.Statement (.qbc1 d a) := by
  show fmtA 0x32 d.enc a.enc 0 4 < 4294967296
  have := gReg_enc d
  have := gReg_enc a
  simp only [fmtA]
  omega

theorem WordFits.qbc2 (d : GReg) (a : GReg) : WordFits.Statement (.qbc2 d a) := by
  show fmtA 0x32 d.enc a.enc 0 5 < 4294967296
  have := gReg_enc d
  have := gReg_enc a
  simp only [fmtA]
  omega

theorem WordFits.qbc3 (d : GReg) (a : GReg) : WordFits.Statement (.qbc3 d a) := by
  show fmtA 0x32 d.enc a.enc 0 6 < 4294967296
  have := gReg_enc d
  have := gReg_enc a
  simp only [fmtA]
  omega

theorem WordFits.vany (d : PReg) (a : PReg) : WordFits.Statement (.vany d a) := by
  show fmtA 0x33 d.val a.val 0 0 < 4294967296
  have := d.isLt
  have := a.isLt
  simp only [fmtA]
  omega

theorem WordFits.vall (d : PReg) (a : PReg) : WordFits.Statement (.vall d a) := by
  show fmtA 0x33 d.val a.val 0 1 < 4294967296
  have := d.isLt
  have := a.isLt
  simp only [fmtA]
  omega

theorem WordFits.vbal (d : GReg) (a : PReg) : WordFits.Statement (.vbal d a) := by
  show fmtA 0x33 d.enc a.val 0 2 < 4294967296
  have := gReg_enc d
  have := a.isLt
  simp only [fmtA]
  omega

theorem WordFits.mbcnt (d : GReg) (a : GReg) : WordFits.Statement (.mbcnt d a) := by
  show fmtA 0x33 d.enc a.enc 0 3 < 4294967296
  have := gReg_enc d
  have := gReg_enc a
  simp only [fmtA]
  omega

theorem WordFits.vfirst (d : GReg) (a : PReg) : WordFits.Statement (.vfirst d a) := by
  show fmtA 0x33 d.enc a.val 0 4 < 4294967296
  have := gReg_enc d
  have := a.isLt
  simp only [fmtA]
  omega

theorem WordFits.mmas (d : CReg) (a : VReg) (b : VReg) (t : Bool) (la : Fin 16) : WordFits.Statement (.mmas d a b t la) := by
  show fmtX 0x34 d.val a.val b.val (bitN t) la.val < 4294967296
  have := d.isLt
  have := a.isLt
  have := b.isLt
  have := bitN_lt t
  have := la.isLt
  simp only [fmtX]
  omega

theorem WordFits.last (d : CReg) (a : GReg) (f : PReg) (la : Fin 16) : WordFits.Statement (.last d a f la) := by
  show fmtM 0x35 d.val a.enc f.val 0 la.val < 4294967296
  have := d.isLt
  have := gReg_enc a
  have := f.isLt
  have := la.isLt
  simp only [fmtM]
  omega

theorem WordFits.lald (d : CReg) (a : GReg) (f : PReg) (la : Fin 16) : WordFits.Statement (.lald d a f la) := by
  show fmtM 0x35 d.val a.enc f.val 1 la.val < 4294967296
  have := d.isLt
  have := gReg_enc a
  have := f.isLt
  have := la.isLt
  simp only [fmtM]
  omega

theorem WordFits.ld (z : LdSize) (p : Policy) (d : GReg) (a : GReg) (f : PReg) (la : Fin 16) : WordFits.Statement (.ld z p d a f la) := by
  show encM 0x38 d a f ((match z with | .b64 => 0 | .n32 => 1 | .s32 => 2) * 4 + p.enc) la < 4294967296
  have := policy_enc p
  have := gReg_enc d
  have := gReg_enc a
  have := f.isLt
  have := la.isLt
  simp only [encM, fmtM]
  cases z <;> simp only <;> omega

theorem WordFits.ldx (z : LdxSize) (p : Policy) (d : GReg) (a : GReg) (f : PReg) (la : Fin 16) : WordFits.Statement (.ldx z p d a f la) := by
  show encM 0x39 d a f ((match z with | .n8 => 0 | .s8 => 1 | .n16 => 2 | .s16 => 3) * 4 + p.enc) la < 4294967296
  have := policy_enc p
  have := gReg_enc d
  have := gReg_enc a
  have := f.isLt
  have := la.isLt
  simp only [encM, fmtM]
  cases z <;> simp only <;> omega

theorem WordFits.st (z : StSize) (p : Policy) (d : GReg) (a : GReg) (f : PReg) (la : Fin 16) : WordFits.Statement (.st z p d a f la) := by
  show encM 0x3A d a f ((match z with | .b64 => 0 | .b32 => 1) * 4 + p.enc) la < 4294967296
  have := policy_enc p
  have := gReg_enc d
  have := gReg_enc a
  have := f.isLt
  have := la.isLt
  simp only [encM, fmtM]
  cases z <;> simp only <;> omega

theorem WordFits.stx (z : StxSize) (p : Policy) (d : GReg) (a : GReg) (f : PReg) (la : Fin 16) : WordFits.Statement (.stx z p d a f la) := by
  show encM 0x3B d a f ((match z with | .b8 => 0 | .b16 => 2) * 4 + p.enc) la < 4294967296
  have := policy_enc p
  have := gReg_enc d
  have := gReg_enc a
  have := f.isLt
  have := la.isLt
  simp only [encM, fmtM]
  cases z <;> simp only <;> omega

theorem WordFits.lds (w : Width) (d : GReg) (a : GReg) (f : PReg) (la : Fin 16) : WordFits.Statement (.lds w d a f la) := by
  show encM 0x3C d a f w.enc la < 4294967296
  have := width_enc w
  have := gReg_enc d
  have := gReg_enc a
  have := f.isLt
  have := la.isLt
  simp only [encM, fmtM]
  omega

theorem WordFits.ldsc (w : Width) (d : GReg) (a : GReg) (f : PReg) (la : Fin 16) : WordFits.Statement (.ldsc w d a f la) := by
  show encM 0x3C d a f (4 + w.enc) la < 4294967296
  have := width_enc w
  have := gReg_enc d
  have := gReg_enc a
  have := f.isLt
  have := la.isLt
  simp only [encM, fmtM]
  omega

theorem WordFits.sts (w : Width) (d : GReg) (a : GReg) (f : PReg) (la : Fin 16) : WordFits.Statement (.sts w d a f la) := by
  show encM 0x3C d a f (8 + w.enc) la < 4294967296
  have := width_enc w
  have := gReg_enc d
  have := gReg_enc a
  have := f.isLt
  have := la.isLt
  simp only [encM, fmtM]
  omega

theorem WordFits.stsc (w : Width) (d : GReg) (a : GReg) (f : PReg) (la : Fin 16) : WordFits.Statement (.stsc w d a f la) := by
  show encM 0x3C d a f (12 + w.enc) la < 4294967296
  have := width_enc w
  have := gReg_enc d
  have := gReg_enc a
  have := f.isLt
  have := la.isLt
  simp only [encM, fmtM]
  omega

theorem WordFits.atomAdd (d : GReg) (a : BReg) (f : PReg) (la : Fin 16) : WordFits.Statement (.atomAdd d a f la) := by
  show encAtom 0x3D d a f 0 la < 4294967296
  have := gReg_enc d
  have := bReg_enc a
  have := f.isLt
  have := la.isLt
  simp only [encAtom, fmtM]
  omega

theorem WordFits.atomMins (d : GReg) (a : BReg) (f : PReg) (la : Fin 16) : WordFits.Statement (.atomMins d a f la) := by
  show encAtom 0x3D d a f 1 la < 4294967296
  have := gReg_enc d
  have := bReg_enc a
  have := f.isLt
  have := la.isLt
  simp only [encAtom, fmtM]
  omega

theorem WordFits.atomMaxs (d : GReg) (a : BReg) (f : PReg) (la : Fin 16) : WordFits.Statement (.atomMaxs d a f la) := by
  show encAtom 0x3D d a f 2 la < 4294967296
  have := gReg_enc d
  have := bReg_enc a
  have := f.isLt
  have := la.isLt
  simp only [encAtom, fmtM]
  omega

theorem WordFits.atomMinn (d : GReg) (a : BReg) (f : PReg) (la : Fin 16) : WordFits.Statement (.atomMinn d a f la) := by
  show encAtom 0x3D d a f 3 la < 4294967296
  have := gReg_enc d
  have := bReg_enc a
  have := f.isLt
  have := la.isLt
  simp only [encAtom, fmtM]
  omega

theorem WordFits.atomMaxn (d : GReg) (a : BReg) (f : PReg) (la : Fin 16) : WordFits.Statement (.atomMaxn d a f la) := by
  show encAtom 0x3D d a f 4 la < 4294967296
  have := gReg_enc d
  have := bReg_enc a
  have := f.isLt
  have := la.isLt
  simp only [encAtom, fmtM]
  omega

theorem WordFits.atomAnd (d : GReg) (a : BReg) (f : PReg) (la : Fin 16) : WordFits.Statement (.atomAnd d a f la) := by
  show encAtom 0x3D d a f 5 la < 4294967296
  have := gReg_enc d
  have := bReg_enc a
  have := f.isLt
  have := la.isLt
  simp only [encAtom, fmtM]
  omega

theorem WordFits.atomOr (d : GReg) (a : BReg) (f : PReg) (la : Fin 16) : WordFits.Statement (.atomOr d a f la) := by
  show encAtom 0x3D d a f 6 la < 4294967296
  have := gReg_enc d
  have := bReg_enc a
  have := f.isLt
  have := la.isLt
  simp only [encAtom, fmtM]
  omega

theorem WordFits.atomXor (d : GReg) (a : BReg) (f : PReg) (la : Fin 16) : WordFits.Statement (.atomXor d a f la) := by
  show encAtom 0x3D d a f 7 la < 4294967296
  have := gReg_enc d
  have := bReg_enc a
  have := f.isLt
  have := la.isLt
  simp only [encAtom, fmtM]
  omega

theorem WordFits.atomXchg (d : GReg) (a : BReg) (f : PReg) (la : Fin 16) : WordFits.Statement (.atomXchg d a f la) := by
  show encAtom 0x3D d a f 8 la < 4294967296
  have := gReg_enc d
  have := bReg_enc a
  have := f.isLt
  have := la.isLt
  simp only [encAtom, fmtM]
  omega

theorem WordFits.atomCas (d : GReg) (a : BReg) (f : PReg) (la : Fin 16) : WordFits.Statement (.atomCas d a f la) := by
  show encAtom 0x3D d a f 9 la < 4294967296
  have := gReg_enc d
  have := bReg_enc a
  have := f.isLt
  have := la.isLt
  simp only [encAtom, fmtM]
  omega

theorem WordFits.atomIncw (d : GReg) (a : BReg) (f : PReg) (la : Fin 16) : WordFits.Statement (.atomIncw d a f la) := by
  show encAtom 0x3D d a f 10 la < 4294967296
  have := gReg_enc d
  have := bReg_enc a
  have := f.isLt
  have := la.isLt
  simp only [encAtom, fmtM]
  omega

theorem WordFits.atomwAdd (d : GReg) (a : BReg) (f : PReg) (la : Fin 16) : WordFits.Statement (.atomwAdd d a f la) := by
  show encAtom 0x3E d a f 0 la < 4294967296
  have := gReg_enc d
  have := bReg_enc a
  have := f.isLt
  have := la.isLt
  simp only [encAtom, fmtM]
  omega

theorem WordFits.atomwMins (d : GReg) (a : BReg) (f : PReg) (la : Fin 16) : WordFits.Statement (.atomwMins d a f la) := by
  show encAtom 0x3E d a f 1 la < 4294967296
  have := gReg_enc d
  have := bReg_enc a
  have := f.isLt
  have := la.isLt
  simp only [encAtom, fmtM]
  omega

theorem WordFits.atomwMaxs (d : GReg) (a : BReg) (f : PReg) (la : Fin 16) : WordFits.Statement (.atomwMaxs d a f la) := by
  show encAtom 0x3E d a f 2 la < 4294967296
  have := gReg_enc d
  have := bReg_enc a
  have := f.isLt
  have := la.isLt
  simp only [encAtom, fmtM]
  omega

theorem WordFits.atomwMinn (d : GReg) (a : BReg) (f : PReg) (la : Fin 16) : WordFits.Statement (.atomwMinn d a f la) := by
  show encAtom 0x3E d a f 3 la < 4294967296
  have := gReg_enc d
  have := bReg_enc a
  have := f.isLt
  have := la.isLt
  simp only [encAtom, fmtM]
  omega

theorem WordFits.atomwMaxn (d : GReg) (a : BReg) (f : PReg) (la : Fin 16) : WordFits.Statement (.atomwMaxn d a f la) := by
  show encAtom 0x3E d a f 4 la < 4294967296
  have := gReg_enc d
  have := bReg_enc a
  have := f.isLt
  have := la.isLt
  simp only [encAtom, fmtM]
  omega

theorem WordFits.atomwAnd (d : GReg) (a : BReg) (f : PReg) (la : Fin 16) : WordFits.Statement (.atomwAnd d a f la) := by
  show encAtom 0x3E d a f 5 la < 4294967296
  have := gReg_enc d
  have := bReg_enc a
  have := f.isLt
  have := la.isLt
  simp only [encAtom, fmtM]
  omega

theorem WordFits.atomwOr (d : GReg) (a : BReg) (f : PReg) (la : Fin 16) : WordFits.Statement (.atomwOr d a f la) := by
  show encAtom 0x3E d a f 6 la < 4294967296
  have := gReg_enc d
  have := bReg_enc a
  have := f.isLt
  have := la.isLt
  simp only [encAtom, fmtM]
  omega

theorem WordFits.atomwXor (d : GReg) (a : BReg) (f : PReg) (la : Fin 16) : WordFits.Statement (.atomwXor d a f la) := by
  show encAtom 0x3E d a f 7 la < 4294967296
  have := gReg_enc d
  have := bReg_enc a
  have := f.isLt
  have := la.isLt
  simp only [encAtom, fmtM]
  omega

theorem WordFits.atomwXchg (d : GReg) (a : BReg) (f : PReg) (la : Fin 16) : WordFits.Statement (.atomwXchg d a f la) := by
  show encAtom 0x3E d a f 8 la < 4294967296
  have := gReg_enc d
  have := bReg_enc a
  have := f.isLt
  have := la.isLt
  simp only [encAtom, fmtM]
  omega

theorem WordFits.atomwCas (d : GReg) (a : BReg) (f : PReg) (la : Fin 16) : WordFits.Statement (.atomwCas d a f la) := by
  show encAtom 0x3E d a f 9 la < 4294967296
  have := gReg_enc d
  have := bReg_enc a
  have := f.isLt
  have := la.isLt
  simp only [encAtom, fmtM]
  omega

theorem WordFits.atomwIncw (d : GReg) (a : BReg) (f : PReg) (la : Fin 16) : WordFits.Statement (.atomwIncw d a f la) := by
  show encAtom 0x3E d a f 10 la < 4294967296
  have := gReg_enc d
  have := bReg_enc a
  have := f.isLt
  have := la.isLt
  simp only [encAtom, fmtM]
  omega

theorem WordFits.ataccAddv (d : GReg) (a : BReg) (f : PReg) (la : Fin 16) : WordFits.Statement (.ataccAddv d a f la) := by
  show encAtom 0x3F d a f 0 la < 4294967296
  have := gReg_enc d
  have := bReg_enc a
  have := f.isLt
  have := la.isLt
  simp only [encAtom, fmtM]
  omega

theorem WordFits.ataccAddp (d : GReg) (a : BReg) (f : PReg) (la : Fin 16) : WordFits.Statement (.ataccAddp d a f la) := by
  show encAtom 0x3F d a f 1 la < 4294967296
  have := gReg_enc d
  have := bReg_enc a
  have := f.isLt
  have := la.isLt
  simp only [encAtom, fmtM]
  omega

theorem WordFits.ataccClr (d : GReg) (a : BReg) (f : PReg) (la : Fin 16) : WordFits.Statement (.ataccClr d a f la) := by
  show encAtom 0x3F d a f 2 la < 4294967296
  have := gReg_enc d
  have := bReg_enc a
  have := f.isLt
  have := la.isLt
  simp only [encAtom, fmtM]
  omega

theorem WordFits.sleepExpiry (g : Nat) : WordFits.Statement (.sleepExpiry g) := Nat.zero_lt_succ _

theorem WordFits.nopreTimeout (g : Nat) : WordFits.Statement (.nopreTimeout g) := Nat.zero_lt_succ _

theorem WordFits.waitmMet (g : Nat) : WordFits.Statement (.waitmMet g) := Nat.zero_lt_succ _

theorem WordFits.waitmTimeout (g : Nat) : WordFits.Statement (.waitmTimeout g) := Nat.zero_lt_succ _

theorem WordFits.carrySweep (blk la k : Nat) : WordFits.Statement (.carrySweep blk la k) := Nat.zero_lt_succ _

theorem WordFits.updateLineEviction (key line : Nat) : WordFits.Statement (.updateLineEviction key line) := Nat.zero_lt_succ _

theorem WordFits.landingWrite (port off : Nat) (data : List Byte) : WordFits.Statement (.landingWrite port off data) := Nat.zero_lt_succ _

theorem WordFits.launchRecord (q : QRef) : WordFits.Statement (.launchRecord q) := Nat.zero_lt_succ _

theorem WordFits.leaveWaiting (l : Nat) : WordFits.Statement (.leaveWaiting l) := Nat.zero_lt_succ _

theorem WordFits.clusterPlacement (part : Nat) : WordFits.Statement (.clusterPlacement part) := Nat.zero_lt_succ _

theorem WordFits.placementStarvation (l : Nat) : WordFits.Statement (.placementStarvation l) := Nat.zero_lt_succ _

theorem WordFits.wait (q : QRef) : WordFits.Statement (.wait q) := Nat.zero_lt_succ _

theorem WordFits.waitMet (q : QRef) : WordFits.Statement (.waitMet q) := Nat.zero_lt_succ _

theorem WordFits.waitTimeout (q : QRef) : WordFits.Statement (.waitTimeout q) := Nat.zero_lt_succ _

theorem WordFits.signal (q : QRef) : WordFits.Statement (.signal q) := Nat.zero_lt_succ _

theorem WordFits.copy (q : QRef) : WordFits.Statement (.copy q) := Nat.zero_lt_succ _

theorem WordFits.queueCreate (q : QRef) : WordFits.Statement (.queueCreate q) := Nat.zero_lt_succ _

theorem WordFits.queueReset (q : QRef) : WordFits.Statement (.queueReset q) := Nat.zero_lt_succ _

theorem WordFits.queueDestroy (q : QRef) : WordFits.Statement (.queueDestroy q) := Nat.zero_lt_succ _

theorem WordFits.ctxDefine (q : QRef) : WordFits.Statement (.ctxDefine q) := Nat.zero_lt_succ _

theorem WordFits.ctxUpdate (q : QRef) : WordFits.Statement (.ctxUpdate q) := Nat.zero_lt_succ _

theorem WordFits.ctxSuspend (q : QRef) : WordFits.Statement (.ctxSuspend q) := Nat.zero_lt_succ _

theorem WordFits.ctxResume (q : QRef) : WordFits.Statement (.ctxResume q) := Nat.zero_lt_succ _

theorem WordFits.ctxDestroy (q : QRef) : WordFits.Statement (.ctxDestroy q) := Nat.zero_lt_succ _

theorem WordFits.keyInstall (q : QRef) : WordFits.Statement (.keyInstall q) := Nat.zero_lt_succ _

theorem WordFits.keyRetire (q : QRef) : WordFits.Statement (.keyRetire q) := Nat.zero_lt_succ _

theorem WordFits.keyRetireComplete (slot : Nat) : WordFits.Statement (.keyRetireComplete slot) := Nat.zero_lt_succ _

theorem WordFits.contextLoad (c : Nat) : WordFits.Statement (.contextLoad c) := Nat.zero_lt_succ _

theorem WordFits.contextLoadComplete (c : Nat) : WordFits.Statement (.contextLoadComplete c) := Nat.zero_lt_succ _

theorem WordFits.contextIdleRelease (c : Nat) : WordFits.Statement (.contextIdleRelease c) := Nat.zero_lt_succ _

theorem WordFits.preemptFallback (g : Nat) : WordFits.Statement (.preemptFallback g) := Nat.zero_lt_succ _

theorem WordFits.blockSave (b : Nat) : WordFits.Statement (.blockSave b) := Nat.zero_lt_succ _

theorem WordFits.contextWipeComplete (c : Nat) : WordFits.Statement (.contextWipeComplete c) := Nat.zero_lt_succ _

theorem WordFits.ecpyRecord (q : QRef) : WordFits.Statement (.ecpyRecord q) := Nat.zero_lt_succ _

theorem WordFits.efillRecord (q : QRef) : WordFits.Statement (.efillRecord q) := Nat.zero_lt_succ _

theorem WordFits.egathRecord (q : QRef) : WordFits.Statement (.egathRecord q) := Nat.zero_lt_succ _

theorem WordFits.escatRecord (q : QRef) : WordFits.Statement (.escatRecord q) := Nat.zero_lt_succ _

theorem WordFits.ercpyRecord (q : QRef) : WordFits.Statement (.ercpyRecord q) := Nat.zero_lt_succ _

theorem WordFits.emigRecord (q : QRef) : WordFits.Statement (.emigRecord q) := Nat.zero_lt_succ _

theorem WordFits.cohCheck (q : QRef) : WordFits.Statement (.cohCheck q) := Nat.zero_lt_succ _

theorem WordFits.cohLoad (q : QRef) : WordFits.Statement (.cohLoad q) := Nat.zero_lt_succ _

theorem WordFits.rmapSet (q : QRef) : WordFits.Statement (.rmapSet q) := Nat.zero_lt_succ _

theorem WordFits.gets (r : CohReq) : WordFits.Statement (.gets r) := Nat.zero_lt_succ _

theorem WordFits.getx (r : CohReq) : WordFits.Statement (.getx r) := Nat.zero_lt_succ _

theorem WordFits.upgr (r : CohReq) : WordFits.Statement (.upgr r) := Nat.zero_lt_succ _

theorem WordFits.puts (r : CohReq) : WordFits.Statement (.puts r) := Nat.zero_lt_succ _

theorem WordFits.putl (r : CohReq) : WordFits.Statement (.putl r) := Nat.zero_lt_succ _

theorem WordFits.putx (r : CohReq) : WordFits.Statement (.putx r) := Nat.zero_lt_succ _

theorem WordFits.wthr (r : CohReq) : WordFits.Statement (.wthr r) := Nat.zero_lt_succ _

theorem WordFits.atomRequest (r : CohReq) : WordFits.Statement (.atomRequest r) := Nat.zero_lt_succ _

theorem WordFits.getm (r : CohReq) : WordFits.Statement (.getm r) := Nat.zero_lt_succ _

theorem WordFits.putm (r : CohReq) : WordFits.Statement (.putm r) := Nat.zero_lt_succ _

theorem WordFits.iack (r : CohReq) : WordFits.Statement (.iack r) := Nat.zero_lt_succ _

theorem WordFits.fack (r : CohReq) : WordFits.Statement (.fack r) := Nat.zero_lt_succ _

theorem WordFits.recl (r : CohReq) : WordFits.Statement (.recl r) := Nat.zero_lt_succ _

theorem WordFits.flsh (r : CohReq) : WordFits.Statement (.flsh r) := Nat.zero_lt_succ _

theorem WordFits.ncrd (r : CohReq) : WordFits.Statement (.ncrd r) := Nat.zero_lt_succ _

theorem WordFits.ncwr (r : CohReq) : WordFits.Statement (.ncwr r) := Nat.zero_lt_succ _

theorem WordFits.pageMap (q : QRef) : WordFits.Statement (.pageMap q) := Nat.zero_lt_succ _

theorem WordFits.pageUnmap (q : QRef) : WordFits.Statement (.pageUnmap q) := Nat.zero_lt_succ _

theorem WordFits.pageAttr (q : QRef) : WordFits.Statement (.pageAttr q) := Nat.zero_lt_succ _

theorem WordFits.pageBack (q : QRef) : WordFits.Statement (.pageBack q) := Nat.zero_lt_succ _

theorem WordFits.frameRetire (q : QRef) : WordFits.Statement (.frameRetire q) := Nat.zero_lt_succ _

theorem WordFits.pageFillComplete (frame : Nat) (ok : Bool) : WordFits.Statement (.pageFillComplete frame ok) := Nat.zero_lt_succ _

theorem WordFits.migrationComplete (frame : Nat) (res : MigEnd) : WordFits.Statement (.migrationComplete frame res) := Nat.zero_lt_succ _

theorem WordFits.shootdownComplete (frame : Nat) : WordFits.Statement (.shootdownComplete frame) := Nat.zero_lt_succ _

theorem WordFits.linkTrained (port width : Nat) : WordFits.Statement (.linkTrained port width) := Nat.zero_lt_succ _

theorem WordFits.trainingTimeout (port : Nat) : WordFits.Statement (.trainingTimeout port) := Nat.zero_lt_succ _

theorem WordFits.linkRetrain (port : Nat) : WordFits.Statement (.linkRetrain port) := Nat.zero_lt_succ _

theorem WordFits.retrainComplete (port width : Nat) : WordFits.Statement (.retrainComplete port width) := Nat.zero_lt_succ _

theorem WordFits.retrainTimeout (port : Nat) : WordFits.Statement (.retrainTimeout port) := Nat.zero_lt_succ _

theorem WordFits.deadRetry (port : Nat) : WordFits.Statement (.deadRetry port) := Nat.zero_lt_succ _

theorem WordFits.linkDisable (port : Nat) : WordFits.Statement (.linkDisable port) := Nat.zero_lt_succ _

theorem WordFits.linkEnable (port : Nat) : WordFits.Statement (.linkEnable port) := Nat.zero_lt_succ _

theorem WordFits.lsuReceived (origin plane : Nat) (st : Nat) (seq : Nat) : WordFits.Statement (.lsuReceived origin plane st seq) := Nat.zero_lt_succ _

theorem WordFits.drainRoundEnd (port : Nat) : WordFits.Statement (.drainRoundEnd port) := Nat.zero_lt_succ _

theorem WordFits.pcieLinkChange (port st width : Nat) : WordFits.Statement (.pcieLinkChange port st width) := Nat.zero_lt_succ _

theorem WordFits.ualinkRequest (port src pa : Nat) (op : UaOp) : WordFits.Statement (.ualinkRequest port src pa op) := Nat.zero_lt_succ _

theorem WordFits.collectiveClose (q : QRef) : WordFits.Statement (.collectiveClose q) := Nat.zero_lt_succ _

theorem WordFits.partialReceived (c e round loc rank : Nat) (mask : BitVec 512) (image : List Byte) : WordFits.Statement (.partialReceived c e round loc rank mask image) := Nat.zero_lt_succ _

theorem WordFits.mergedImageReceived (c e round loc : Nat) (image : List Byte) : WordFits.Statement (.mergedImageReceived c e round loc image) := Nat.zero_lt_succ _

theorem WordFits.deliveryAck (c e round rank : Nat) : WordFits.Statement (.deliveryAck c e round rank) := Nat.zero_lt_succ _

theorem WordFits.roundTimeout (c e : Nat) : WordFits.Statement (.roundTimeout c e) := Nat.zero_lt_succ _

theorem WordFits.suspendReceived (c e rank : Nat) : WordFits.Statement (.suspendReceived c e rank) := Nat.zero_lt_succ _

theorem WordFits.resumeReceived (c e rank : Nat) : WordFits.Statement (.resumeReceived c e rank) := Nat.zero_lt_succ _

theorem WordFits.abortReceived (c e rank : Nat) : WordFits.Statement (.abortReceived c e rank) := Nat.zero_lt_succ _

theorem WordFits.slotRelease (c e loc : Nat) : WordFits.Statement (.slotRelease c e loc) := Nat.zero_lt_succ _

theorem WordFits.healthQuery (q : QRef) : WordFits.Statement (.healthQuery q) := Nat.zero_lt_succ _

theorem WordFits.rehearse (q : QRef) : WordFits.Statement (.rehearse q) := Nat.zero_lt_succ _

theorem WordFits.coreRetire (q : QRef) : WordFits.Statement (.coreRetire q) := Nat.zero_lt_succ _

theorem WordFits.rehearsalCfg (q : QRef) : WordFits.Statement (.rehearsalCfg q) := Nat.zero_lt_succ _

theorem WordFits.rehearsalStart (core : Nat) : WordFits.Statement (.rehearsalStart core) := Nat.zero_lt_succ _

theorem WordFits.rehearsalSkip (core : Nat) : WordFits.Statement (.rehearsalSkip core) := Nat.zero_lt_succ _

theorem WordFits.selfTestComplete (core : Nat) (pass : Bool) : WordFits.Statement (.selfTestComplete core pass) := Nat.zero_lt_succ _

theorem WordFits.coreWithdrawal (core : Nat) : WordFits.Statement (.coreWithdrawal core) := Nat.zero_lt_succ _

theorem WordFits.coldReset : WordFits.Statement .coldReset := Nat.zero_lt_succ _

theorem WordFits.warmReset (dies : BitVec 4) : WordFits.Statement (.warmReset dies) := Nat.zero_lt_succ _

theorem WordFits.thermalShutdown (die : Nat) : WordFits.Statement (.thermalShutdown die) := Nat.zero_lt_succ _

theorem WordFits.junctionWarning (die : Nat) : WordFits.Statement (.junctionWarning die) := Nat.zero_lt_succ _

theorem WordFits.lifeCycleCommand (target : LifeCycle) (valid : Bool) : WordFits.Statement (.lifeCycleCommand target valid) := Nat.zero_lt_succ _

theorem WordFits.firmwareUpdate (image version : Nat) (valid : Bool) : WordFits.Statement (.firmwareUpdate image version valid) := Nat.zero_lt_succ _

theorem WordFits.partitionModeSet (m : PartMode) : WordFits.Statement (.partitionModeSet m) := Nat.zero_lt_succ _

theorem WordFits.pldmMonitoring (sensor : Nat) : WordFits.Statement (.pldmMonitoring sensor) := Nat.zero_lt_succ _

theorem WordFits.spdmMeasurements (index : Nat) : WordFits.Statement (.spdmMeasurements index) := Nat.zero_lt_succ _

theorem WordFits.bookArm (die : Nat) : WordFits.Statement (.bookArm die) := Nat.zero_lt_succ _

theorem WordFits.bookDisarm (die : Nat) : WordFits.Statement (.bookDisarm die) := Nat.zero_lt_succ _

theorem WordFits.bookSeal (die : Nat) : WordFits.Statement (.bookSeal die) := Nat.zero_lt_succ _

theorem WordFits.bookTailWrite (die : Nat) (v : Dword) : WordFits.Statement (.bookTailWrite die v) := Nat.zero_lt_succ _

theorem WordFits.registerWrite (port off : Nat) (v : Dword) : WordFits.Statement (.registerWrite port off v) := Nat.zero_lt_succ _

theorem WordFits.pendingResultComplete (g idx : Nat) : WordFits.Statement (.pendingResultComplete g idx) := Nat.zero_lt_succ _

theorem WordFits.postedWriteAcknowledgement (peer : Nat) : WordFits.Statement (.postedWriteAcknowledgement peer) := Nat.zero_lt_succ _

theorem WordFits.systemFenceTimeout (g : Nat) : WordFits.Statement (.systemFenceTimeout g) := Nat.zero_lt_succ _

theorem WordFits.frameWipeComplete (c : Nat) : WordFits.Statement (.frameWipeComplete c) := Nat.zero_lt_succ _

end Sys2Proof.Laws
end

