-- ==== Sys2Proof/Laws/Walk.lean ====
section
/-! SUPPORT. Walks and page-table addresses within one page. -/

namespace Sys2Proof.Machine

/-- Two addresses of one page have their translation from one entry, as far apart as the addresses (R223). -/
theorem walk_shift (s : State) (c va o : Nat) (h : va % 65536 + o < 65536) :
    walk s c (va + o) = (walk s c va).map fun t => { t with pa := t.pa + o } := by
  have h1 : (va + o) / 2 ^ 16 = va / 2 ^ 16 := by omega
  have h2 : (va + o) / 2 ^ 24 = va / 2 ^ 24 := by omega
  have h3 : (va + o) % 2 ^ 24 = va % 2 ^ 24 + o := by omega
  have h4 : (va + o) % 2 ^ 16 = va % 2 ^ 16 + o := by omega
  have hl : walkLink s c (va + o) = walkLink s c va := by simp only [walkLink, h1, h2]
  simp only [walk, hl]
  cases hw : walkLink s c va with
  | none => rfl
  | some x =>
    obtain ⟨l, large⟩ := x
    simp only [h1, h3, h4]
    by_cases ha : linkAper l = true
    · simp only [ha, if_true, Option.map_map, Function.comp_def, Nat.add_assoc]
    · simp only [ha, Bool.false_eq_true, if_false, Option.map_map, Function.comp_def]
      cases large <;> simp only [Nat.add_assoc, if_true, Bool.false_eq_true, if_false]

/-- The page-table structures fill whole pages (R220). -/
theorem inTables_shift (pa o : Nat) (h : pa % 65536 + o < 65536) : inTables (pa + o) = inTables pa := by
  have h1 : decide (pa + o < 2 ^ 39) = decide (pa < 2 ^ 39) := decide_eq_decide.mpr (by omega)
  have h2 : decide (0xFFEA00000 ≤ (pa + o) % 2 ^ 36) = decide (0xFFEA00000 ≤ pa % 2 ^ 36) := decide_eq_decide.mpr (by omega)
  simp only [inTables, h1, h2]

/-- A physical address keeps its offset in the page: the translation of a virtual one ends in the same 16 bits (R223). -/
theorem walk_offset (s : State) (c va : Nat) (t : Tr) (h : walk s c va = some t) : t.pa % 65536 = va % 65536 := by
  simp only [walk] at h
  split at h
  · cases h
  · rename_i l large _
    split at h <;> obtain ⟨x, -, rfl⟩ := Option.map_eq_some_iff.mp h
    · show (x.target * 2 ^ 24 + va % 2 ^ 24) % 65536 = _
      omega
    · cases large <;> dsimp only <;> simp only [if_true, Bool.false_eq_true, if_false] <;> omega

/-- HBM fills whole pages (R14). -/
theorem paKind_hbm_shift (pa o : Nat) (h : pa % 65536 + o < 65536) (k : paKind pa = .hbm) : paKind (pa + o) = .hbm := by
  have : pa < 2 ^ 39 := by
    unfold paKind at k
    split at k
    · assumption
    · split at k <;> first | cases k | (split at k <;> cases k)
  unfold paKind
  rw [if_pos (by omega)]

end Sys2Proof.Machine
end

