-- ==== Sys2Proof/Tests/Slice0.lean ====
section
/-! SUPPORT. Small tests, each of one instruction or event on a small state, with what the manual gives for it; and, for
the statements, states that meet their hypotheses. -/

set_option maxRecDepth 100000
set_option exponentiation.threshold 1000
set_option Elab.async false

namespace Sys2Proof.Tests

open Sys2Proof.Machine Sys2Proof.Rules

/-- The group of the placed word after reset, changed by f, about to issue i. -/
def ready (i : Instr) (f : Group → Group) : State :=
  let s := placeWord State.reset (encodeWord i)
  { s with cur := 96, groups := amod s.groups 96 f }

/-- One active lane, with d, x and y in v1, v2 and v3. -/
def lane0 (d x y : Nat) (g : Group) : Group :=
  { g with exec := 1, vregs := [(32, dw d), (64, dw x), (96, dw y)].filter fun e => e.2 != 0 }

/-- The group after i. -/
def after (i : Instr) (s : State) : Option Group :=
  match exec i s with
  | .next t => aget t.groups 96
  | _ => none

/-- Does i issue in s, where p holds. -/
def issuing (i : Instr) (sync : Bool) (s : State) (p : State → Group → Block → Bool) : Bool :=
  match atIssue i sync s with
  | some (s1, g, b) => (preFault i g b).isNone && !readsBad g i && !(releasesNow i g && heldUpd s1 s1.cur) && p s1 g b
  | none => false

theorem issuing_meets {i : Instr} {sync : Bool} {s : State} {p : State → Group → Block → Bool}
    (h : issuing i sync s p = true) : ∃ s1 g b, Issues i sync s s1 g b ∧ p s1 g b = true := by
  unfold issuing at h
  split at h
  · rename_i s1 g b heq
    simp only [Bool.and_eq_true, Option.isNone_iff_eq_none, Bool.not_eq_true'] at h
    exact ⟨s1, g, b, ⟨heq, h.1.1.1, h.1.1.2, fun hr => by simpa [hr] using h.1.2⟩, h.2⟩
  · cases h

/-! Checks that can be evaluated, and what they say. -/

theorem and_of {a b : Bool} (h : (a && b) = true) : a = true ∧ b = true := by simpa using h

/-- Is nothing on its way to memory. -/
def calmB (s : State) : Bool :=
  s.upd.isEmpty && s.posted.isEmpty && (s.dir.all fun e => decide (e.2.staged = none) && decide (e.2.held = []))
    && s.dir.all fun e => decide (e.2.st < min 16 (protoTable s (e.1 * 32 % 2 ^ 52)).ns)

theorem calm_of {s : State} (h : calmB s = true) : Calm s := by
  simp only [calmB, Bool.and_eq_true, List.isEmpty_iff, List.all_eq_true, decide_eq_true_eq] at h
  exact ⟨h.1.1.1, h.1.1.2, h.1.2, h.2⟩

/-- Events that the table INV answers in every state (R213). -/
def invAnswers : List Nat := [0, 1, 2, 4, 6, 7, 8, 9, 10, 11, 12, 13, 14, 15]

theorem inv_answers : ∀ ev ∈ invAnswers, ∀ st < 16, (CohTable.at (stdTable 0) st ev).has 25 = false := by decide

/-- Does the protocol at an address answer an event: with an empty range map it is INV. -/
def answersB (s : State) (ev : Nat) : Bool := s.rmap.isEmpty && invAnswers.contains ev

theorem answers_of {s : State} {ev : Nat} (h : answersB s ev = true) (pa : Nat) : Answers s pa ev := by
  simp only [answersB, Bool.and_eq_true, List.isEmpty_iff, List.contains_iff_mem] at h
  have h0 : protoTable s pa = stdTable 0 := by simp [protoTable, protoId, h.1]
  refine ⟨fun st => ?_, fun _ h5 => absurd h5 (by simp [protoId, h.1])⟩
  rw [h0]
  by_cases hs : st < 16
  · exact inv_answers ev h.2 st hs
  · have hl : (stdTable 0).entries.length = 256 := by decide
    have : (stdTable 0).entries[16 * st + ev]? = none := List.getElem?_eq_none (by omega)
    simp only [CohTable.at, this]
    decide

/-- INV performs what the events that bring data bring (R213). -/
theorem takes_of {s : State} {ev : Nat} (h : answersB s ev = true) (pa : Nat) : Takes s pa ev := by
  refine ⟨answers_of h pa, fun _ _ => .inl ?_⟩
  simp only [answersB, Bool.and_eq_true, List.isEmpty_iff] at h
  simp [protoId, h.1]

/-- HBM is on nobody's far side in a module that is not split (R21). -/
theorem way_hbm {s : State} {pa : Nat} (hp : s.part ≠ .split) (hk : paKind pa = .hbm) (p : Nat) : wayTo s p pa = .free := by
  simp [wayTo, hk, hp]

/-- Does a translation lead to sound, ordinary memory of HBM. -/
def plainTr (s : State) (n : Nat) (t : Tr) : Bool :=
  decide (paKind t.pa = .hbm ∧ s.part ≠ .split) && !t.observed && !t.reduce && !inError s t.pa n && !inTables t.pa

theorem reaches_of {s : State} {b : Block} {k : AccKind} {n : Nat} {va : Dword} {t : Tr}
    (h : laneChk s b.ctx k n va = .ok t) (p : plainTr s n t = true) : Reaches s b k n va t := by
  simp only [plainTr, Bool.and_eq_true, decide_eq_true_eq, Bool.not_eq_true'] at p
  exact ⟨h, ⟨.inl p.1.1.1.1.1, way_hbm p.1.1.1.1.2 p.1.1.1.1.1 _⟩, ⟨p.1.1.1.2, p.1.1.2⟩, p.1.2, p.2⟩

/-- Does a lane's access pass. -/
def passesB (s : State) (b : Block) (k : AccKind) (n : Nat) (evs : List Nat) (f : PReg) (va : Dword) : Bool :=
  match laneChk s b.ctx k n va with
  | .absent => f != 15
  | .ok t => plainTr s n t && evs.all (answersB s)
  | .bad _ _ => false

theorem passes_of {s : State} {b : Block} {k : AccKind} {n : Nat} {evs : List Nat} {f : PReg} {va : Dword}
    (h : passesB s b k n evs f va = true) : Passes s b k n evs f va := by
  unfold passesB at h
  split at h
  · rename_i e
    exact .inl ⟨e, by simpa using h⟩
  · rename_i t e
    simp only [Bool.and_eq_true, List.all_eq_true] at h
    exact .inr ⟨t, reaches_of e h.1, fun ev he => takes_of (h.2 ev he) _⟩
  · cases h

/-- Does an agent reach ordinary memory of HBM through t. -/
def agentB (s : State) (c va n : Nat) (write : Bool) (t : Tr) : Bool :=
  decide (va < 2 ^ 56) && decide (walk s c va = some t) && decide (t.perm = 7) && keyLoaded s t.key && !t.absentFor write
    && plainTr s n t && s.failing.isEmpty && answersB s (if write then evNcwr else evNcrd)

theorem agent_of {s : State} {c va n : Nat} {write : Bool} {t : Tr} (h : agentB s c va n write t = true) (q : QRef) :
    AgentReaches s q c va n write t := by
  simp only [agentB, plainTr, Bool.and_eq_true, decide_eq_true_eq, Bool.not_eq_true', List.isEmpty_iff] at h
  obtain ⟨⟨⟨⟨⟨⟨⟨h1, h2⟩, h3⟩, h4⟩, h5⟩, h6⟩, hf⟩, h7⟩ := h
  refine ⟨h1, h2, ?_, h4, h5, ⟨h6.1.1.1.2, fun _ => h6.1.1.2⟩, ⟨.inl h6.1.1.1.1.1, way_hbm h6.1.1.1.1.2 h6.1.1.1.1.1 _⟩,
    ⟨h6.1.2, fun _ => by simp [destFails, hf]⟩, h6.2, takes_of h7 _⟩
  rw [h3]; cases write <;> rfl

/-- Can every piece of n bytes from an address on, in one page, be accessed. -/
def spanB (s : State) (c n base : Nat) (write : Bool) (t : Tr) : Bool :=
  agentB s c base n write t && decide (base % 65536 + n ≤ 65536) && decide (base + n ≤ 2 ^ 56) && s.bad.isEmpty
    && s.latent.isEmpty

theorem span_of {s : State} {c n base : Nat} {write : Bool} {t : Tr} (h : spanB s c n base write t = true) (q : QRef) :
    spanOpen s q c n (fun j => base + j) write := by
  simp only [spanB, Bool.and_eq_true, decide_eq_true_eq, List.isEmpty_iff] at h
  obtain ⟨⟨⟨⟨ha, h1⟩, h2⟩, h3⟩, h4⟩ := h
  have a := agent_of ha q
  intro i m hm hi _ _
  have ho := walk_offset s c base t a.page
  have hw := walk_shift s c base i (by omega)
  rw [a.page] at hw
  simp only [agentB, plainTr, Bool.and_eq_true, decide_eq_true_eq, List.isEmpty_iff] at ha
  have hk : paKind t.pa = .hbm := ha.1.1.2.1.1.1.1.1
  have hp : s.part ≠ .split := ha.1.1.2.1.1.1.1.2
  have hh : paKind (t.pa + i) = .hbm := paKind_hbm_shift t.pa i (by omega) hk
  refine ⟨{ t with pa := t.pa + i }, by show base + i < _; omega, hw, a.perm, a.key, a.there, a.plain, ⟨.inl hh, way_hbm hp hh _⟩,
    ⟨?_, fun _ => by simp [destFails, ha.1.2]⟩, ?_, takes_of ha.2 _⟩
  · simp [inError, h3, h4]
  · exact (inTables_shift t.pa i (by omega)).trans a.data

/-- A page of 64 KiB mapped at a virtual address of a context, in a frame. -/
def withPage (s : State) (c va id : Nat) : State :=
  enterPage s id { vpn := va / 65536, ctx := c, key := 0, next := endLink, st := .resident, gran := 1, perm := 7,
                   reduce := false, accum := false, observed := false, large := false, pincnt := 0, rcnt := 0 }

/-- A translation of an address. -/
def trOf (s : State) (c va : Nat) : Tr := (walk s c va).getD ⟨0, 0, .free, 0, false, false, false, false, false, 0⟩

/-- A record. -/
def record (d : List Nat) : QRec := { dw := d.map dw, seq := 7 }

/-- The module after reset with records in queue 0, and a page of context 0 at 0x10000. -/
def sys (l : List QRec) : State :=
  withPage { State.reset with queues := [(0, { HostQ.zero with recs := l, nextSeq := 8 })] } 0 0x10000 5

/-- Queue 0. -/
abbrev q0 : QRef := .host 0 0

theorem meets_of {i : Instr} {sync : Bool} {s : State} {p : State → Group → Block → Prop} [∀ s g b, Decidable (p s g b)]
    (h : issuing i sync s (fun s g b => decide (p s g b)) = true) : ∃ s1 g b, Issues i sync s s1 g b ∧ p s1 g b := by
  obtain ⟨s1, g, b, hi, hp⟩ := issuing_meets h
  exact ⟨s1, g, b, hi, of_decide_eq_true hp⟩

/-- Every instruction of a list issues in the placed group. -/
theorem all_issue {l : List Instr} {sync : Bool}
    (h : (l.all fun i => issuing i sync (ready i id) fun _ _ _ => true) = true) :
    ∀ i ∈ l, ∃ s s1 g b, Issues i sync s s1 g b := by
  intro i hi
  obtain ⟨s1, g, b, h1, -⟩ := issuing_meets (List.all_eq_true.mp h i hi)
  exact ⟨_, s1, g, b, h1⟩

/-- s registers set. -/
def withS (l : List (Nat × Nat)) (g : Group) : Group := { g with sregs := l.map fun e => (e.1, dw e.2) }

/-! Integer instructions (R286 to R296). -/

def integerSamples : List Instr :=
  [.iadd .w16 (.v 1) (.v 2) (.s 0), .isub .w8 (.v 1) (.v 2) .z, .iaddc .w32 (.v 1) (.v 2) (.v 3), .isubb .w64 (.s 1) (.s 2) (.s 3),
    .imul .w64 (.v 1) (.v 2) (.v 3), .imulhs .w8 (.v 1) (.v 2) (.v 3), .imulhn .w8 (.v 1) (.v 2) (.v 3),
    .imad .w8 (.v 1) (.v 2) (.v 3), .imins .w8 (.v 1) (.v 2) (.v 3), .imaxs .w8 (.v 1) (.v 2) (.v 3),
    .iminn .w8 (.v 1) (.v 2) (.v 3), .imaxn .w8 .z (.v 2) (.v 3), .iabs .w8 (.v 1) (.v 2), .imadw (.v 1) (.v 2) (.v 3),
    .popc .w8 (.v 1) (.v 2), .clz .w8 (.v 1) (.v 2), .andR .w64 (.v 1) (.v 2) (.v 3), .orR .w64 (.v 1) (.v 2) (.v 3),
    .xorR .w64 (.v 1) (.v 2) (.v 3), .andnR .w64 (.v 1) (.v 2) (.v 3), .shl .w8 (.v 1) (.v 2) (.v 3),
    .shr .w8 (.v 1) (.v 2) (.v 3), .sar .w8 (.v 1) (.v 2) (.v 3), .rot .w8 (.v 1) (.v 2) (.v 3), .brev .w8 (.v 1) (.v 2),
    .bfxs .w64 (.v 1) (.v 2) (.v 3), .bfxn .w64 (.v 1) (.v 2) (.v 3), .bfi .w64 (.v 1) (.v 2) (.v 3), .mov .w64 (.v 1) (.v 2),
    .prmb (.v 1) (.v 2) (.v 3), .iadds .w8 (.v 1) (.v 2) (.v 3), .iaddn .w8 (.v 1) (.v 2) (.v 3),
    .addi (.v 1) (.v 2) (-2), .andi (.v 1) (.v 2) 0xFFF, .ori (.v 1) (.v 2) 1, .xori (.v 1) (.v 2) 0xFFF,
    .shli (.v 1) (.v 2) 63, .shri (.v 1) (.v 2) 63, .sari (.v 1) (.v 2) 63, .movw (.v 1) 2 0x1234, .movk (.v 1) 3 0xBEEF,
    .lea (.v 1) (.v 2) (.v 3) 3]

theorem witness_integer : ∀ i ∈ integerSamples, ∃ s s1 g b, Issues i false s s1 g b := all_issue (by decide)

/-- Every sample is named by a table of the statement on integer instructions. -/
theorem witness_integer_named : ∀ i ∈ integerSamples, ((arith i).isSome || (bitwise i).isSome || (dwords i).isSome
    || (carrying i).isSome) = true := by decide

/-- v1 of lane 0 after an instruction on v1 = d, v2 = x, v3 = y. -/
def value (i : Instr) (d x y : Nat) : Option Nat :=
  (after i (ready i (lane0 d x y))).map fun g => (g.readR (.v 1) 0).toNat

/-- Instructions with d before, x, y and the result, from the tables of R286 to R291. -/
def integerRows : List (Instr × Nat × Nat × Nat × Nat) :=
  [(.iadd .w16 (.v 1) (.v 2) (.v 3), 0, 0x0001FFFF80007FFF, 0x0001000180000001, 0x0002000000008000),
    (.isub .w8 (.v 1) (.v 2) (.v 3), 0, 0x100, 1, 0x1FF), (.imul .w8 (.v 1) (.v 2) (.v 3), 0, 0x1110, 0x0F10, 0xFF00),
    (.imulhs .w8 (.v 1) (.v 2) (.v 3), 0, 0xFF, 2, 0xFF), (.imulhn .w8 (.v 1) (.v 2) (.v 3), 0, 0xFF, 2, 1),
    (.imad .w8 (.v 1) (.v 2) (.v 3), 0xFF05, 3, 4, 0xFF11), (.imins .w8 (.v 1) (.v 2) (.v 3), 0, 0xFF, 1, 0xFF),
    (.imaxs .w8 (.v 1) (.v 2) (.v 3), 0, 0xFF, 1, 1), (.iminn .w8 (.v 1) (.v 2) (.v 3), 0, 0xFF, 1, 1),
    (.imaxn .w8 (.v 1) (.v 2) (.v 3), 0, 0xFF, 1, 0xFF), (.iabs .w8 (.v 1) (.v 2), 0, 0xFF80, 0, 0x0180),
    (.imadw (.v 1) (.v 2) (.v 3), 5, 0xAFFFFFFFF, 0xBFFFFFFFF, 0xFFFFFFFE00000006), (.popc .w8 (.v 1) (.v 2), 0, 0x1FF, 0, 0x108),
    (.clz .w16 (.v 1) (.v 2), 0, 1, 0, 0x001000100010000F), (.andR .w64 (.v 1) (.v 2) (.v 3), 0, 12, 10, 8),
    (.orR .w64 (.v 1) (.v 2) (.v 3), 0, 12, 10, 14), (.xorR .w64 (.v 1) (.v 2) (.v 3), 0, 12, 10, 6),
    (.andnR .w64 (.v 1) (.v 2) (.v 3), 0, 12, 10, 4), (.shl .w8 (.v 1) (.v 2) (.v 3), 0, 0x8181, 0x0801, 0x02),
    (.shr .w8 (.v 1) (.v 2) (.v 3), 0, 0x8181, 0x0801, 0x40), (.sar .w8 (.v 1) (.v 2) (.v 3), 0, 0x8181, 0xC801, 0xFFC0),
    (.rot .w8 (.v 1) (.v 2) (.v 3), 0, 0x8181, 0x0F01, 0xC003), (.brev .w8 (.v 1) (.v 2), 0, 0x0103, 0, 0x80C0),
    (.bfxn .w64 (.v 1) (.v 2) (.v 3), 0, 0xABC, 452, 0xAB), (.bfxs .w64 (.v 1) (.v 2) (.v 3), 0, 0xABC, 452, 0xFFFFFFFFFFFFFFAB),
    (.bfi .w64 (.v 1) (.v 2) (.v 3), 0xFFFF, 0xAB, 452, 0xFABF), (.mov .w8 (.v 1) (.v 2), 0, 0x123456789, 0, 0x123456789),
    (.prmb (.v 1) (.v 2) (.v 3), 0xAA, 0x0102030405060708, 0x8801020304050608, 0x00070605040302AA),
    (.iadds .w8 (.v 1) (.v 2) (.v 3), 0, 0x807F, 0xFF01, 0x807F), (.iaddn .w8 (.v 1) (.v 2) (.v 3), 0, 0xFF, 1, 0xFF),
    (.addi (.v 1) (.v 2) (-2), 0, 1, 0, 0xFFFFFFFFFFFFFFFF), (.andi (.v 1) (.v 2) 0xFFE, 0, 7, 0, 6), (.ori (.v 1) (.v 2) 1, 0, 6, 0, 7),
    (.xori (.v 1) (.v 2) (-1), 0, 0, 0, 0xFFFFFFFFFFFFFFFF), (.shli (.v 1) (.v 2) 63, 0, 3, 0, 0x8000000000000000),
    (.shri (.v 1) (.v 2) 63, 0, 0x8000000000000000, 0, 1), (.sari (.v 1) (.v 2) 63, 0, 0x8000000000000000, 0, 0xFFFFFFFFFFFFFFFF),
    (.movw (.v 1) 2 0x1234, 7, 0, 0, 0x0000123400000000), (.movk (.v 1) 3 0xBEEF, 7, 0, 0, 0xBEEF000000000007),
    (.lea (.v 1) (.v 2) (.v 3) 3, 0, 1, 2, 17)]

theorem test_integer_results : ∀ r ∈ integerRows, value r.1 r.2.1 r.2.2.1 r.2.2.2.1 = some r.2.2.2.2 := by decide

/-- The low step of the 128-bit addition of R287: 0xFFFF_FFFF_FFFF_FFFF + 2 leaves 1 and a carry, bits above kept. -/
theorem test_carry : (after (.iaddc .w64 (.v 1) (.v 2) (.v 3))
      (ready (.iaddc .w64 (.v 1) (.v 2) (.v 3)) fun g => { lane0 0 (2 ^ 64 - 1) 2 g with preds := [(448, 0xF0)] })).map
    (fun g => (g.readR (.v 1) 0, g.readP 14 0)) = some (1, 0xF1) := by decide

/-- 0 − 0 − 1 borrows (R287). -/
theorem test_borrow : (after (.isubb .w64 (.v 1) (.v 2) (.v 3))
      (ready (.isubb .w64 (.v 1) (.v 2) (.v 3)) fun g => { lane0 0 0 0 g with preds := [(448, 1)] })).map
    (fun g => (g.readR (.v 1) 0, g.readP 14 0)) = some (0xFFFFFFFFFFFFFFFF, 1) := by decide

/-- A scalar destination takes the lowest active lane's value (R247); s3 = s1 + s2. -/
theorem test_scalar : (after (.iadd .w64 (.s 3) (.s 1) (.s 2)) (ready (.iadd .w64 (.s 3) (.s 1) (.s 2)) (withS [(1, 5), (2, 6)]))).map
    (fun g => g.readSn 3) = some 11 := by decide

/-! Compares and predicates (R292, R293, R304). -/

def predicateSamples : List Instr :=
  [.iset .lts .and .w8 5 (.v 1) (.v 2), .fset .lt .set .fp32 1 (.v 1) (.v 2), .fsets .un .xor .fp64 15 (.v 1) (.v 2),
    .pand 1 2 15, .por 1 2 3, .pxor 14 14 14, .pandn 1 2 3, .pnot 1 2, .pmov 15 2]

theorem witness_predicates : ∀ i ∈ predicateSamples, ∃ s s1 g b, Issues i false s s1 g b := all_issue (by decide)

/-- Predicate 1 of lane 0 after an instruction with p1 = p, p2 = q, v2 = x, v3 = y. -/
def truth (i : Instr) (p q x y : Nat) : Option Nat :=
  (after i (ready i fun g => { lane0 0 x y g with preds := [(32, BitVec.ofNat 8 p), (64, BitVec.ofNat 8 q)] })).map
    fun g => (g.readP 1 0).toNat

/-- From R292, R293 and the table of R304: -1 < 1 in byte 0 only; a NaN is unordered, and −0 equals +0. -/
theorem test_predicates : ∀ r ∈ ([(.iset .lts .set .w8 1 (.v 2) (.v 3), 0, 0, 0x01FF, 0x0101, 1), (.iset .ltn .xor .w32 1 (.v 2) (.v 3), 0xFF, 0, 1, 2, 0xFE),
    (.pand 1 1 2, 12, 10, 0, 0, 8), (.por 1 1 2, 12, 10, 0, 0, 14), (.pxor 1 1 2, 12, 10, 0, 0, 6), (.pandn 1 1 2, 12, 10, 0, 0, 4),
    (.pnot 1 2, 0, 0xF0, 0, 0, 0x0F), (.pmov 1 2, 0, 0xF0, 0, 0, 0xF0),
    (.fset .eq .set .fp64 1 (.v 2) (.v 3), 0, 0, 0x8000000000000000, 0, 1), (.fset .ne .set .fp64 1 (.v 2) (.v 3), 0, 0, 0x7FF8000000000000, 0, 1),
    (.fsets .lt .set .fp64 1 (.v 2) (.v 3), 1, 0, 0x7FF8000000000000, 0, 0), (.fset .le .and .fp32 1 (.v 2) (.v 3), 3, 0, 0x3F80000040000000, 0x3F8000003F800000, 2)]
      : List (Instr × Nat × Nat × Nat × Nat × Nat)), truth r.1 r.2.1 r.2.2.1 r.2.2.2.1 r.2.2.2.2.1 = some r.2.2.2.2.2 := by decide

/-- A quiet NaN raises NV in FSETS only (R304). -/
theorem test_compare_flags : ∀ loud : Bool, (after (if loud then .fsets .lt .set .fp64 1 (.v 2) (.v 3) else .fset .lt .set .fp64 1 (.v 2) (.v 3))
      (ready (if loud then .fsets .lt .set .fp64 1 (.v 2) (.v 3) else .fset .lt .set .fp64 1 (.v 2) (.v 3)) (lane0 0 0x7FF8000000000000 0))).map
    (fun g => g.fpxNV.getLsbD 0) = some loud := by decide

/-! Floating point (R297 to R305). -/

def floatSamples : List Instr :=
  [.fadd .fp32 false (.v 1) (.v 2) (.v 3), .fsub .fp32 false (.v 1) (.v 2) (.v 3), .fmul .fp16 false (.v 1) (.v 2) (.v 3),
    .fdiv .fp64 false (.v 1) (.v 2) (.v 3), .ffma .fp64 true (.v 1) (.v 2) (.v 3), .ffms .fp64 false (.v 1) (.v 2) (.v 3),
    .fnma .bf16 false (.v 1) (.v 2) (.v 3), .fscl .fp64 false (.v 1) (.v 2) (.v 3), .frndn .fp64 false (.v 1) (.v 2),
    .frndz .fp64 false (.v 1) (.v 2), .frndp .fp64 false (.v 1) (.v 2), .frndm .fp64 false (.v 1) (.v 2),
    .frcp .fp64 false (.v 1) (.v 2), .frsq .fp64 false (.v 1) (.v 2), .fsqrt .fp64 false (.v 1) (.v 2),
    .fexp2 .fp64 false (.v 1) (.v 2), .flog2 .fp64 false (.v 1) (.v 2), .fabs .fp64 false (.v 1) (.v 2),
    .fneg .fp64 false (.v 1) (.v 2), .fcsgn .fp64 false (.v 1) (.v 2) (.v 3), .fclass .fp64 false (.v 1) (.v 2),
    .fmin .fp64 false (.v 1) (.v 2) (.v 3), .fmax .fp64 false (.v 1) (.v 2) (.v 3), .cvt .d8 .fp32 none false (.v 1) (.v 2)]

theorem witness_floats : ∀ i ∈ floatSamples, ∃ s s1 g b, Issues i false s s1 g b := all_issue (by decide)

/-- Instructions on FP64 with c, x, y and the result, from R298 to R305. -/
def floatRows : List (Instr × Nat × Nat × Nat × Nat) :=
  [(.fadd .fp64 false (.v 1) (.v 2) (.v 3), 0, 0x3FF0000000000000, 0x3FF0000000000000, 0x4000000000000000),
    (.fsub .fp32 false (.v 1) (.v 2) (.v 3), 0, 0x40000000, 0x3F800000, 0x3F800000),
    (.fmul .fp16 false (.v 1) (.v 2) (.v 3), 0, 0x3C00, 0x4000, 0x4000),
    (.fdiv .fp64 false (.v 1) (.v 2) (.v 3), 0, 0x3FF0000000000000, 0x4008000000000000, 0x3FD5555555555555),
    (.ffma .fp64 false (.v 1) (.v 2) (.v 3), 0x3FF0000000000000, 0x4000000000000000, 0x4008000000000000, 0x401C000000000000),
    (.ffms .fp64 false (.v 1) (.v 2) (.v 3), 0x3FF0000000000000, 0x4000000000000000, 0x4008000000000000, 0x4014000000000000),
    (.fnma .fp64 false (.v 1) (.v 2) (.v 3), 0x3FF0000000000000, 0x4000000000000000, 0x4008000000000000, 0xC014000000000000),
    (.fscl .fp64 false (.v 1) (.v 2) (.v 3), 0, 0x3FF0000000000000, 3, 0x4020000000000000),
    (.frndn .fp64 false (.v 1) (.v 2), 0, 0x4004000000000000, 0, 0x4000000000000000),
    (.frndz .fp64 false (.v 1) (.v 2), 0, 0xC004000000000000, 0, 0xC000000000000000),
    (.frndp .fp64 false (.v 1) (.v 2), 0, 0x4004000000000000, 0, 0x4008000000000000),
    (.frndm .fp64 false (.v 1) (.v 2), 0, 0xC004000000000000, 0, 0xC008000000000000),
    (.frcp .fp64 false (.v 1) (.v 2), 0, 0x4010000000000000, 0, 0x3FD0000000000000),
    (.frsq .fp64 false (.v 1) (.v 2), 0, 0x4010000000000000, 0, 0x3FE0000000000000),
    (.fsqrt .fp64 false (.v 1) (.v 2), 0, 0x4010000000000000, 0, 0x4000000000000000),
    (.fexp2 .fp64 false (.v 1) (.v 2), 0, 0x4008000000000000, 0, 0x4020000000000000),
    (.flog2 .fp64 false (.v 1) (.v 2), 0, 0x4020000000000000, 0, 0x4008000000000000),
    (.fabs .fp64 false (.v 1) (.v 2), 0, 0xC004000000000000, 0, 0x4004000000000000),
    (.fneg .fp64 false (.v 1) (.v 2), 0, 0, 0, 0x8000000000000000),
    (.fcsgn .fp64 false (.v 1) (.v 2) (.v 3), 0, 0x4004000000000000, 0x8000000000000000, 0xC004000000000000),
    (.fclass .fp64 false (.v 1) (.v 2), 0, 0xFFF0000000000000, 0, 1), (.fclass .fp64 false (.v 1) (.v 2), 0, 0x3FF0000000000000, 0, 64),
    (.fmin .fp64 false (.v 1) (.v 2) (.v 3), 0, 0, 0x8000000000000000, 0x8000000000000000),
    (.fmax .fp64 false (.v 1) (.v 2) (.v 3), 0, 0x7FF8000000000000, 0x3FF0000000000000, 0x3FF0000000000000),
    (.cvt .d8 .fp32 none false (.v 1) (.v 2), 0, 0xFF800000453B8000, 0, 0x8744)]

theorem test_float_results : ∀ r ∈ floatRows, value r.1 r.2.1 r.2.2.1 r.2.2.2.1 = some r.2.2.2.2 := by decide

/-- The fused lane of R298: (1 + 2^−23)(1 − 2^−23) − 1 is −2^−46 exactly, and 1/3 is inexact. -/
theorem test_fused : value (.ffma .fp32 false (.v 1) (.v 2) (.v 3)) 0xBF800000 0x3F800001 0x3F7FFFFE = some 0xA8800000
    ∧ (after (.fdiv .fp64 false (.v 1) (.v 2) (.v 3)) (ready (.fdiv .fp64 false (.v 1) (.v 2) (.v 3))
        (lane0 0 0x3FF0000000000000 0x4008000000000000))).map (fun g => (g.fpxNX, g.fpxNV, g.fpxDZ)) = some (1, 0, 0) := by decide

/-- R44: the first NaN is delivered quiet, and a signalling one anywhere raises NV. -/
theorem test_nan : (fpAdd .fp32 .rn false 0x7FC00001 0x7F800002).1 = 0x7FC00001
    ∧ (fpAdd .fp32 .rn false 0x7FC00001 0x7F800002).2.nv = true
    ∧ (fpAdd .fp32 .rn false 0x3F800000 0xFF800002).1 = 0xFFC00002 := by decide

/-- The hypotheses of the statement on NaNs. -/
theorem witness_nan : ∃ fn rd, computing (.fadd .fp32 false .z .z .z) = some (.fp32, false, .z, .z, .z, fn, rd)
    ∧ (0x7F800002 : Nat) < 2 ^ fpBits .fp32 ∧ (0x3F800000 : Nat) < 2 ^ fpBits .fp32
    ∧ (rd 0x3F800000 0x7F800002 0).find? (fpIsNaN .fp32) = some 0x7F800002 := ⟨_, _, rfl, by decide, by decide, by decide⟩

/-! Between lanes (R306 to R310). -/

def crossSamples : List Instr :=
  [.xln true .w64 (.v 1) (.v 2) (.v 3), .xln false .w8 (.v 1) (.v 2) (.s 3), .xliBfly .w32 (.v 1) (.v 2) 8 1,
    .xliBcast .w8 (.v 1) (.v 2) 31 7, .xliRotup .w16 (.v 1) (.v 2) 1 3, .xliRotdn .w64 (.v 1) (.v 2) 1 0, .qxh (.v 1) (.v 2),
    .qxv (.v 1) (.v 2), .qxd (.v 1) (.v 2), .qbc0 (.v 1) (.v 2), .qbc1 (.v 1) (.v 2), .qbc2 (.v 1) (.v 2), .qbc3 (.v 1) (.v 2),
    .vany 1 2, .vall 1 2, .vbal (.v 1) 2, .vfirst (.v 1) 2, .mbcnt (.v 1) (.v 2)]

theorem witness_cross : ∀ i ∈ crossSamples, ∃ s s1 g b, Issues i false s s1 g b := all_issue (by decide)

/-- v2 holds 10 × (lane + 1) in lanes 0 to 3; lane 2 is inactive, and v1 holds 7 there and in lane 1 (R306, R307). -/
def quad (g : Group) : Group :=
  { g with exec := 0b1011, vregs := [(33, 7), (34, 7), (64, 10), (65, 20), (66, 30), (67, 40), (96, 1), (97, 2), (99, 0)].filter fun e => e.2 != 0 }

/-- v1 of lanes 0 to 3. -/
def lanes4 (i : Instr) : Option (List Nat) :=
  (after i (ready i quad)).map fun g => (List.range 4).map fun l => (g.readR (.v 1) l).toNat

theorem test_cross : lanes4 (.xln false .w64 (.v 1) (.v 2) (.v 3)) = some [20, 0, 7, 10]
    ∧ lanes4 (.xln true .w64 (.v 1) (.v 2) (.v 3)) = some [20, 7, 7, 10]
    ∧ lanes4 (.qxh (.v 1) (.v 2)) = some [20, 10, 7, 0] ∧ lanes4 (.qxv (.v 1) (.v 2)) = some [0, 40, 7, 20]
    ∧ lanes4 (.qxd (.v 1) (.v 2)) = some [40, 0, 7, 10] ∧ lanes4 (.qbc0 (.v 1) (.v 2)) = some [10, 10, 7, 10]
    ∧ lanes4 (.qbc1 (.v 1) (.v 2)) = some [20, 20, 7, 20] ∧ lanes4 (.qbc2 (.v 1) (.v 2)) = some [0, 0, 7, 0]
    ∧ lanes4 (.qbc3 (.v 1) (.v 2)) = some [40, 40, 7, 40] ∧ lanes4 (.xliBfly .w64 (.v 1) (.v 2) 1 0) = some [20, 10, 7, 0]
    ∧ lanes4 (.xliBcast .w64 (.v 1) (.v 2) 3 0) = some [40, 40, 7, 40] ∧ lanes4 (.xliRotup .w64 (.v 1) (.v 2) 1 0) = some [0, 10, 7, 0]
    ∧ lanes4 (.xliRotdn .w64 (.v 1) (.v 2) 1 0) = some [20, 0, 7, 0] := by decide

/-- The votes of R310 with p2 bit 0 set in lanes 1, 5 and 30, lane 30 a helper: its example. -/
def ballot (g : Group) : Group := { g with lmem := 0x3FFFFFFF, preds := [(65, 1), (69, 1), (94, 1)], vregs := [(64, 7), (71, 0xFF)] }

theorem test_votes : (after (.vbal (.s 3) 2) (ready (.vbal (.s 3) 2) ballot)).map (fun g => g.readSn 3) = some 0x22
    ∧ (after (.vany 1 2) (ready (.vany 1 2) ballot)).map (fun g => g.readP 1 31) = some 0xFF
    ∧ (after (.vall 1 2) (ready (.vall 1 2) ballot)).map (fun g => g.readP 1 31) = some 0
    ∧ (after (.vfirst (.v 1) 2) (ready (.vfirst (.v 1) 2) ballot)).map (fun g => g.readR (.v 1) 31) = some 1
    ∧ (after (.mbcnt (.v 1) (.v 2)) (ready (.mbcnt (.v 1) (.v 2)) ballot)).map (fun g => g.readR (.v 1) 7) = some 7 := by decide

/-! Special registers (R257 to R259, R276, R363). -/

theorem witness_special : ∀ i ∈ [Instr.fmtget (.v 1), .clock (.s 1), .mfs (.v 1) 0x20, .fmtset (.s 1) (.s 2), .mts 1 (.v 1)],
    ∃ s s1 g b, Issues i false s s1 g b := all_issue (by decide)

/-- FMTSET with a code of 12 fits and one of 13 does not (R259). -/
theorem witness_fmtset : (∃ s s1 g b, Issues (.fmtset (.s 1) .z) false s s1 g b ∧ fmtFits ((g.fmt &&& 0) ||| (g.readS (.s 1) &&& BitVec.allOnes 64)))
    ∧ ∃ s s1 g b, Issues (.fmtset (.s 1) .z) false s s1 g b ∧ ¬fmtFits ((g.fmt &&& 0) ||| (g.readS (.s 1) &&& BitVec.allOnes 64)) :=
  ⟨⟨ready (.fmtset (.s 1) .z) (withS [(1, 12)]), meets_of (by decide)⟩, ⟨ready (.fmtset (.s 1) .z) (withS [(1, 13)]), meets_of (by decide)⟩⟩

/-- MTS: no lane; a register that takes the value; one that only reads; FMT and GANG with values that fit and that do not
(R259, R363); ACCIN without ROUND (R258). -/
theorem witness_mts :
    (∃ s s1 g b, Issues (.mts 1 (.v 1)) false s s1 g b ∧ g.readOne (.v 1) = none)
    ∧ (∃ s s1 g b, Issues (.mts 1 (.s 1)) false s s1 g b ∧ g.readOne (.s 1) = some 5 ∧ (sysWrites g 5 1).isSome = true)
    ∧ ∃ s s1 g b, Issues (.mts 0x61 (.s 1)) false s s1 g b ∧ g.readOne (.s 1) = some 5 ∧ 0x61 ∈ sysReadOnly :=
  ⟨⟨ready (.mts 1 (.v 1)) fun g => { g with exec := 0 }, meets_of (by decide)⟩,
   ⟨ready (.mts 1 (.s 1)) (withS [(1, 5)]), meets_of (by decide)⟩, ⟨ready (.mts 0x61 (.s 1)) (withS [(1, 5)]), meets_of (by decide)⟩⟩

theorem witness_mts_values :
    (∃ s s1 g b, Issues (.mts 3 (.s 1)) false s s1 g b ∧ g.readOne (.s 1) = some 0xC ∧ fmtFits 0xC)
    ∧ (∃ s s1 g b, Issues (.mts 3 (.s 1)) false s s1 g b ∧ g.readOne (.s 1) = some 0x1000000000 ∧ ¬fmtFits 0x1000000000)
    ∧ (∃ s s1 g b, Issues (.mts 0x60 (.s 1)) false s s1 g b ∧ g.readOne (.s 1) = some 0xB ∧ gangFits 0xB)
    ∧ (∃ s s1 g b, Issues (.mts 0x60 (.s 1)) false s s1 g b ∧ g.readOne (.s 1) = some 7 ∧ ¬gangFits 7)
    ∧ ∃ s s1 g b, Issues (.mts 0x65 (.s 1)) false s s1 g b ∧ g.readOne (.s 1) = some 1 ∧ bit (1 : Dword) 63 = false :=
  ⟨⟨ready (.mts 3 (.s 1)) (withS [(1, 0xC)]), meets_of (by decide)⟩, ⟨ready (.mts 3 (.s 1)) (withS [(1, 0x1000000000)]), meets_of (by decide)⟩,
   ⟨ready (.mts 0x60 (.s 1)) (withS [(1, 0xB)]), meets_of (by decide)⟩, ⟨ready (.mts 0x60 (.s 1)) (withS [(1, 7)]), meets_of (by decide)⟩,
   ⟨ready (.mts 0x65 (.s 1)) (withS [(1, 1)]), meets_of (by decide)⟩⟩

/-- The example of R276: a mask of 0x0300_0000 sets RM to RZ. LANE reads the lane, and MTS writes EXEC. -/
theorem test_special : (after (.fmtset (.s 1) (.s 2)) (ready (.fmtset (.s 1) (.s 2)) fun g =>
      { withS [(1, 0x01000000), (2, 0x03000000)] g with fmt := 0x22 })).map (fun g => g.fmt) = some 0x01000022
    ∧ (after (.mfs (.v 1) 0x20) (ready (.mfs (.v 1) 0x20) id)).map (fun g => g.readR (.v 1) 31) = some 31
    ∧ (after (.mts 1 (.s 1)) (ready (.mts 1 (.s 1)) (withS [(1, 0xF)]))).map (fun g => g.exec) = some 0xF
    ∧ (after (.fmtget (.s 1)) (ready (.fmtget (.s 1)) fun g => { g with fmt := 0xA })).map (fun g => g.readSn 1) = some 10
    ∧ (after (.clock (.s 1)) { ready (.clock (.s 1)) id with clock := 77 }).map (fun g => g.readSn 1) = some 77 := by decide

/-! Windows, spans, marks (R142, R146, R148, R158, R275, R344). -/

theorem witness_marks : ∀ i ∈ [Instr.nop, .nopre, .okpre, .gspan 2 true 15, .sigck 0, .sigrst, .stage 111 0x7FFFF],
    ∃ s s1 g b, Issues i false s s1 g b := all_issue (by decide)

/-- A base that is accepted, at the top of the registers or the allotment, and the next one, which is not. -/
theorem witness_windows :
    (∃ s s1 g b, Issues (.win (.s 1)) true s s1 g b ∧ (g.readS (.s 1)).toNat % 8 = 0 ∧ (g.readS (.s 1)).toNat + 8 ≤ 32 * b.vregs)
    ∧ (∃ s s1 g b, Issues (.win (.s 1)) true s s1 g b ∧ ¬((g.readS (.s 1)).toNat % 8 = 0 ∧ (g.readS (.s 1)).toNat + 8 ≤ 32 * b.vregs))
    ∧ (∃ s s1 g b, Issues (.awin (.s 1)) true s s1 g b ∧ (g.readS (.s 1)).toNat % 8 = 0 ∧ (g.readS (.s 1)).toNat < b.lapl)
    ∧ ∃ s s1 g b, Issues (.awin (.s 1)) true s s1 g b ∧ ¬((g.readS (.s 1)).toNat % 8 = 0 ∧ ((g.readS (.s 1)).toNat = 0 ∨ (g.readS (.s 1)).toNat < b.lapl)) :=
  ⟨⟨ready (.win (.s 1)) (withS [(1, 88)]), meets_of (by decide)⟩, ⟨ready (.win (.s 1)) (withS [(1, 96)]), meets_of (by decide)⟩,
   ⟨ready (.awin (.s 1)) (withS [(1, 120)]), meets_of (by decide)⟩, ⟨ready (.awin (.s 1)) (withS [(1, 128)]), meets_of (by decide)⟩⟩

/-- A launch with SIGEN, as placed. -/
def signed (s : State) : State :=
  { s with launches := amod s.launches 1 fun l => { l with hdr := some { bootHeader with sigen := true } } }

/-- SIGCK and SIGRST with SIGEN: a hash that matches, and one that does not; and without. -/
theorem witness_sigck :
    (∃ s s1 g b, Issues (.sigck 0x2FD9) false s s1 g b ∧ (headerOf s1 b.launch).sigen = true ∧ g.sig.truncate 16 = (0x2FD9 : BitVec 16))
    ∧ (∃ s s1 g b, Issues (.sigck 0x2FD9) false s s1 g b ∧ (headerOf s1 b.launch).sigen = true ∧ g.sig.getLsbD 16 = false
      ∧ g.sig.truncate 16 ≠ (0x2FD9 : BitVec 16))
    ∧ ∃ s s1 g b, Issues (.sigck 0x2FD9) false s s1 g b ∧ (headerOf s1 b.launch).sigen = false :=
  ⟨⟨signed (ready (.sigck 0x2FD9) fun g => { g with sig := 0x2FD9 }), meets_of (by decide)⟩,
   ⟨signed (ready (.sigck 0x2FD9) id), meets_of (by decide)⟩, ⟨ready (.sigck 0x2FD9) id, meets_of (by decide)⟩⟩

/-- The two words of R158 after a branch: 0xE0C8, then 0x2FD9. -/
theorem test_hash : (hashed 0 0x802860E0, hashed 0xE0C8 0x80286E60) = (0xE0C8, 0x2FD9) := by decide

/-- OKPRE where no fallback is due; the group's window is open. -/
theorem witness_okpre : ∃ s s1 g b, Issues .okpre false s s1 g b ∧ (g.nopre = none ∨ b.pre = none) :=
  ⟨ready .okpre fun g => { g with nopre := some 3 }, meets_of (by decide)⟩

/-- WIN 16, a window of 9 after NOPRE at clock 9, a span over the complement of p2, STAGE of v3 and v5. -/
theorem test_marks : (after (.win (.s 1)) (ready (.win (.s 1)) (withS [(1, 16)]))).map (fun g => g.wbase) = some 16
    ∧ (after (.awin (.s 1)) (ready (.awin (.s 1)) (withS [(1, 24)]))).map (fun g => g.awbase) = some 24
    ∧ (after .nopre { ready .nopre id with clock := 9 }).map (fun g => g.nopre) = some (some 9)
    ∧ (after (.gspan 2 true 15) (ready (.gspan 2 true 15) fun g => { g with preds := [(64, 1)] })).map (fun g => (g.gmask, g.grem))
        = some (0xFFFFFFFE, 16)
    ∧ (after (.stage 3 5) (ready (.stage 3 5) id)).map (fun g => g.wings) = some [3, 5] := by decide

/-! Control (R140, R152, R281 to R283). -/

theorem witness_control : ∀ i ∈ [Instr.bra 2 true (-1), .brl 15 false 5, .brd 3 true 6, .join 40, .endj, .call 1, .callr (.s 1), .jmpr (.s 1),
    .ret, .loop 0 3 (.s 1), .loopi 2 255 0], ∃ s s1 g b, Issues i false s s1 g b := all_issue (by decide)

/-- Two active lanes with predicates, and a stack of n entries. -/
def fork (p : AMap (BitVec 8)) (n : Nat) (g : Group) : Group :=
  { g with exec := 3, preds := p, stack := List.replicate n ⟨false, 0, 0, 1⟩ }

/-- BRD that no lane, both lanes and one lane take, with room for an entry; and one lane with a full stack. -/
theorem witness_brd : ∀ e ∈ [([], 31), ([(64, 1), (65, 1)], 31), ([(64, 1)], 31), ([(64, 1)], 32)],
    ∃ s s1 g b, Issues (.brd 2 false 6) false s s1 g b ∧ g.stack.length = e.2 ∧ g.preds = e.1 := by
  intro e he
  simp only [List.mem_cons, List.not_mem_nil, or_false] at he
  obtain rfl | rfl | rfl | rfl := he
  · exact ⟨ready (.brd 2 false 6) (fork [] 31), meets_of (by decide)⟩
  · exact ⟨ready (.brd 2 false 6) (fork [(64, 1), (65, 1)] 31), meets_of (by decide)⟩
  · exact ⟨ready (.brd 2 false 6) (fork [(64, 1)] 31), meets_of (by decide)⟩
  · exact ⟨ready (.brd 2 false 6) (fork [(64, 1)] 32), meets_of (by decide)⟩

/-- JOIN with room and without; ENDJ on an empty stack, a path and a join. -/
theorem witness_stack : (∃ s s1 g b, Issues (.join 40) false s s1 g b ∧ g.stack.length < 32)
    ∧ (∃ s s1 g b, Issues (.join 40) false s s1 g b ∧ 32 ≤ g.stack.length)
    ∧ (∃ s s1 g b, Issues .endj false s s1 g b ∧ g.stack = []) ∧ (∃ s s1 g b, Issues .endj false s s1 g b ∧ g.stack = [⟨true, 0, 4, 1⟩])
    ∧ ∃ s s1 g b, Issues .endj false s s1 g b ∧ g.stack = [⟨false, 0, 4, 1⟩] :=
  ⟨⟨ready (.join 40) id, meets_of (by decide)⟩,
   ⟨ready (.join 40) fun g => { g with stack := List.replicate 32 ⟨false, 0, 0, 1⟩ }, meets_of (by decide)⟩,
   ⟨ready .endj id, meets_of (by decide)⟩, ⟨ready .endj fun g => { g with stack := [⟨true, 0, 4, 1⟩] }, meets_of (by decide)⟩,
   ⟨ready .endj fun g => { g with stack := [⟨false, 0, 4, 1⟩] }, meets_of (by decide)⟩⟩

/-- The placed word stands at 0x10000. A branch to the word itself, taken and not; a split that leaves lane 1; its path. -/
theorem test_control : (after (.bra 2 false (-1)) (ready (.bra 2 false (-1)) fun g => { g with preds := [(95, 1)] })).map (fun g => g.pc) = some 0x10000
    ∧ (after (.brl 2 false (-1)) (ready (.brl 2 false (-1)) fun g => { g with preds := [(95, 1)] })).map (fun g => g.pc) = some 0x10004
    ∧ (after (.brd 2 false 6) (ready (.brd 2 false 6) fun g => { g with exec := 3, preds := [(64, 1)] })).map
        (fun g => (g.pc, g.exec, g.stack)) = some (0x10004, 2, [⟨true, 0, 0x1001C, 1⟩])
    ∧ (after (.join 40) (ready (.join 40) id)).map (fun g => g.stack) = some [⟨false, 0, 0x100A4, 0xFFFFFFFF⟩]
    ∧ (after .endj (ready .endj fun g => { g with stack := [⟨true, 5, 0x20000, 7⟩] })).map
        (fun g => (g.pc, g.exec, g.fmt, g.stack)) = some (0x20000, 7, 5, [])
    ∧ (after (.call 1) (ready (.call 1) id)).map (fun g => (g.pc, g.readSn 15)) = some (0x10008, 0x10004)
    ∧ (after (.callr (.s 15)) (ready (.callr (.s 15)) (withS [(15, 0x40)]))).map (fun g => (g.pc, g.readSn 15)) = some (0x40, 0x10004)
    ∧ (after (.jmpr (.s 4)) (ready (.jmpr (.s 4)) (withS [(4, 0x44)]))).map (fun g => g.pc) = some 0x44
    ∧ (after .ret (ready .ret (withS [(15, 0x48)]))).map (fun g => g.pc) = some 0x48 := by decide

/-- A register target that is aligned, and one that is not. -/
theorem witness_targets : (∃ s s1 g b, Issues (.jmpr (.s 4)) false s s1 g b ∧ (g.readS (.s 4)).toNat % 4 = 0)
    ∧ ∃ s s1 g b, Issues (.jmpr (.s 4)) false s s1 g b ∧ (g.readS (.s 4)).toNat % 4 ≠ 0 :=
  ⟨⟨ready (.jmpr (.s 4)) (withS [(4, 8)]), meets_of (by decide)⟩, ⟨ready (.jmpr (.s 4)) (withS [(4, 6)]), meets_of (by decide)⟩⟩

/-- A loop whose counter is free, with count 0, count 1 and an active counter. -/
theorem witness_loops :
    (∃ s s1 g b, Issues (.loop 0 3 (.s 1)) false s s1 g b ∧ ((g.lc 0).active = false ∧ ∀ c ∈ [g.lc0, g.lc1, g.lc2], within g 4 c)
      ∧ bits (g.readS (.s 1)) 31 0 = 0)
    ∧ (∃ s s1 g b, Issues (.loop 0 3 (.s 1)) false s s1 g b ∧ ((g.lc 0).active = false ∧ ∀ c ∈ [g.lc0, g.lc1, g.lc2], within g 4 c)
      ∧ bits (g.readS (.s 1)) 31 0 = 1)
    ∧ ∃ s s1 g b, Issues (.loop 0 3 (.s 1)) false s s1 g b ∧ ¬((g.lc 0).active = false ∧ ∀ c ∈ [g.lc0, g.lc1, g.lc2], within g 4 c) :=
  ⟨⟨ready (.loop 0 3 (.s 1)) id, meets_of (by decide)⟩, ⟨ready (.loop 0 3 (.s 1)) (withS [(1, 1)]), meets_of (by decide)⟩,
   ⟨ready (.loop 0 3 (.s 1)) fun g => { g with lc0 := ⟨true, 2, 0x10004, 9, 1⟩ }, meets_of (by decide)⟩⟩

/-- LOOPI of 0 runs 65,536 times; at the last instruction of a body the count falls and the pc goes back (R152). -/
theorem test_loops : (after (.loopi 2 3 0) (ready (.loopi 2 3 0) id)).map (fun g => (g.lc2.active, g.lc2.count, g.lc2.start, g.lc2.len))
      = some (true, 65536, 0x10004, 4)
    ∧ (after (.loop 0 3 (.s 1)) (ready (.loop 0 3 (.s 1)) id)).map (fun g => g.pc) = some 0x10014
    ∧ (after .nop (ready .nop fun g => { g with lc0 := ⟨true, 2, 0xFFF8, 3, 1⟩ })).map (fun g => (g.pc, g.lc0.count)) = some (0xFFF8, 1)
    ∧ (after .nop (ready .nop fun g => { g with lc0 := ⟨true, 1, 0xFFF8, 3, 1⟩ })).map (fun g => (g.pc, g.lc0.active)) = some (0x10004, false) := by
  decide

/-! Traps and returns (R144, R272 to R274, R393). -/

/-- A context with a handler. -/
def handled (s : State) : State := { s with ctxs := amod s.ctxs 1 fun x => { x with handler := 0x8000 } }

theorem witness_traps : ∀ i ∈ [Instr.trap 0x45 (.s 1), .bkpt],
    ∃ s s1 g b, Issues i false s s1 g b ∧ (traps g i).isSome = true ∧ g.inh = false ∧ (ctxOf s1 b.ctx).handler ≠ 0 := by
  intro i hi
  simp only [List.mem_cons, List.not_mem_nil, or_false] at hi
  obtain rfl | rfl := hi
  · exact ⟨handled (ready (.trap 0x45 (.s 1)) id), meets_of (by decide)⟩
  · exact ⟨handled (ready .bkpt id), meets_of (by decide)⟩

/-- TRAP 0x45 with 9 in s1 enters the handler and holds the span (R273, R144); RTT goes back (R144). -/
theorem test_traps : (after (.trap 0x45 (.s 1)) (handled (ready (.trap 0x45 (.s 1)) fun g => { withS [(1, 9)] g with grem := 3, gmask := 5 }))).map
      (fun g => (g.pc, g.trapCause, g.trapVal, g.trapPc, g.inh)) = some (0x8000, 0x45, 9, 0x10004, true)
    ∧ (after .bkpt (handled (ready .bkpt fun g => { g with grem := 3, gmask := 5 }))).map
      (fun g => (g.trapCause, g.trapPc, g.gheld, g.ghold, g.grem)) = some (0x21, 0x10000, 2, 5, 0)
    ∧ (after .rtt (ready .rtt fun g => { g with inh := true, routine := .handler, trapPc := 0x40, gheld := 2, ghold := 5 })).map
      (fun g => (g.pc, g.grem, g.gmask, g.inh)) = some (0x40, 2, 5, false) := by decide

/-- RTT in a handler and outside one; SLEEP of 0, of 1 ns and of a value with high bits; YIELD and CUE with nothing pending. -/
theorem witness_returns :
    (∃ s s1 g b, Issues .rtt true s s1 g b ∧ g.routine = .handler ∧ g.lost = false)
    ∧ (∃ s s1 g b, Issues .rtt true s s1 g b ∧ g.routine = .none)
    ∧ (∃ s s1 g b, Issues (.sleep (.s 1)) false s s1 g b ∧ g.readS (.s 1) = 0)
    ∧ (∃ s s1 g b, Issues (.sleep (.s 1)) false s s1 g b ∧ bits (g.readS (.s 1)) 63 32 = 0 ∧ g.readS (.s 1) ≠ 0)
    ∧ (∃ s s1 g b, Issues (.sleep (.s 1)) false s s1 g b ∧ bits (g.readS (.s 1)) 63 32 ≠ 0)
    ∧ (∃ s s1 g b, Issues .yield true s s1 g b ∧ b.pre = none)
    ∧ ∃ s s1 g b, Issues (.cue 7) true s s1 g b ∧ (b.pre = none ∨ g.inh = true ∨ g.nopre.isSome = true) :=
  ⟨⟨ready .rtt fun g => { g with inh := true, routine := .handler }, meets_of (by decide)⟩, ⟨ready .rtt id, meets_of (by decide)⟩,
   ⟨ready (.sleep (.s 1)) id, meets_of (by decide)⟩, ⟨ready (.sleep (.s 1)) (withS [(1, 1)]), meets_of (by decide)⟩,
   ⟨ready (.sleep (.s 1)) (withS [(1, 0x100000000)]), meets_of (by decide)⟩, ⟨ready .yield id, meets_of (by decide)⟩,
   ⟨ready (.cue 7) id, meets_of (by decide)⟩⟩

/-- A sleep of 2 ns is 5 clocks of 0.4 ns (R6). -/
theorem test_sleep : (after (.sleep (.s 1)) (ready (.sleep (.s 1)) (withS [(1, 2)]))).map (fun g => (g.st, g.wait))
    = some (.blocked, some (.sleep (.s 1), .sleep 5)) := by decide

/-- EXIT in a program and in a save routine; RECORD with nothing logged, with room, and with a full book. -/
theorem witness_exit : (∃ s s1 g b, Issues .exit true s s1 g b ∧ g.inRoutine = false)
    ∧ ∃ s s1 g b, Issues .exit true s s1 g b ∧ g.inRoutine = true :=
  ⟨⟨ready .exit id, meets_of (by decide)⟩, ⟨ready .exit fun g => { g with routine := .save 3, inh := true }, meets_of (by decide)⟩⟩

/-- A context that logs placements, on a die whose book is armed with one page. -/
def logging (head : Nat) (s : State) : State :=
  { s with ctxs := amod s.ctxs 1 fun x => { x with place := true }
           books := [(0, { base := 9, pages := 1, arm := true, head := head, held := some (9, 1) })] }

theorem witness_record :
    (∃ s s1 g b, Issues (.record (.s 1)) false s s1 g b
      ∧ ¬(g.inh = false ∧ ((ctxOf s1 b.ctx).place = true ∨ (ctxOf s1 b.ctx).obs = true ∨ (ctxOf s1 b.ctx).sched ≠ 0)))
    ∧ (∃ s s1 g b, Issues (.record (.s 1)) false s s1 g b ∧ g.inh = false ∧ (ctxOf s1 b.ctx).place = true ∧ bookFull s1 (b.core / 40) 1 = true)
    ∧ ∃ s s1 g b, Issues (.record (.s 1)) false s s1 g b ∧ g.inh = false ∧ (ctxOf s1 b.ctx).place = true ∧ bookFull s1 (b.core / 40) 1 = false :=
  ⟨⟨ready (.record (.s 1)) id, meets_of (by decide)⟩, ⟨logging 65536 (ready (.record (.s 1)) id), meets_of (by decide)⟩,
   ⟨logging 65472 (ready (.record (.s 1)) id), meets_of (by decide)⟩⟩

/-- The last group of a block that exits ends the block and its launch: nothing of either is left (R159). -/
theorem test_exit : (match exec .exit (ready .exit id) with
    | .next t => t.groups.isEmpty && t.blocks.isEmpty && t.launches.isEmpty
    | _ => false) = true := by decide

/-! Memory (R312 to R322). -/

/-- Bytes put into the memory of context 1. -/
def put (va : Nat) (l : List Nat) (s : State) : State :=
  writeRaw s (trOf s 1 va).key (trOf s 1 va).pa (l.map fun n => BitVec.ofNat 8 n)

/-- The placed group with two active lanes, whose v2 names two lines of the page, v3 holding data; and that memory. -/
def twoLanes (g : Group) : Group :=
  { g with exec := 3, vregs := [(64, 0x10100), (65, 0x10180), (96, 0x1122334455667788), (97, 5)] }

/-- The state of a memory instruction: page attributes a[0] REDUCE and a[1] ACCUM. -/
def mem2 (i : Instr) (accum : Bool) : State :=
  let s := put 0x10100 [0x88, 0x87, 0xFF, 0x80, 5, 6, 7, 0xF8] (ready i twoLanes)
  { s with frames := s.frames.map fun e => (e.1, { e.2 with accum := accum }) }

theorem lanes_pass {i : Instr} {sync : Bool} {s : State} {k : AccKind} {n : Nat} {evs : List Nat} {f : PReg}
    {ls : Group → List Nat} {va : Group → Nat → Dword}
    (h : issuing i sync s (fun s g b => calmB s && (ls g).all fun l => passesB s b k n evs f (va g l)) = true) :
    ∃ s1 g b, Issues i sync s s1 g b ∧ Calm s1 ∧ ∀ l ∈ ls g, Passes s1 b k n evs f (va g l) := by
  obtain ⟨s1, g, b, hi, hp⟩ := issuing_meets h
  exact ⟨s1, g, b, hi, calm_of (and_of hp).1, fun l hl => passes_of (List.all_eq_true.mp (and_of hp).2 l hl)⟩

theorem witness_loads : (∃ s s1 g b, Issues (.ld .b64 .dflt (.v 1) (.v 2) 15 0) false s s1 g b ∧ Calm s1
      ∧ ∀ l ∈ g.evalLanes (.v 1), Passes s1 b .load 8 [evGets] 15 (g.readR (.v 2) l))
    ∧ ∃ s s1 g b, Issues (.ldu (.s 1) .z false 3 0) false s s1 g b ∧ Calm s1 ∧ ∀ l ∈ [0], Passes s1 b .load 8 [evGets] 3 (g.readS .z) :=
  ⟨⟨mem2 (.ld .b64 .dflt (.v 1) (.v 2) 15 0) false, lanes_pass (by decide)⟩, ⟨mem2 (.ldu (.s 1) .z false 3 0) false,
    lanes_pass (ls := fun _ => [0]) (va := fun g _ => g.readS .z) (by decide)⟩⟩

/-- A probe whose lanes pass. -/
theorem witness_probe : ∃ s s1 g b, Issues (.ld .n32 .dflt .z (.v 2) 1 0) false s s1 g b ∧ Calm s1
    ∧ ∀ l ∈ g.lanesOn, Passes s1 b .load 4 [evGets] 1 (g.readR (.v 2) l) :=
  ⟨mem2 (.ld .n32 .dflt .z (.v 2) 1 0) false, lanes_pass (by decide)⟩

theorem witness_store : ∃ s s1 g b, Issues (.st .b64 .dflt (.v 3) (.v 2) 15 0) false s s1 g b ∧ Calm s1
    ∧ ∀ l ∈ g.lanesOn, Passes s1 b .store 8 storeEvs 15 (g.readR (.v 2) l) :=
  ⟨mem2 (.st .b64 .dflt (.v 3) (.v 2) 15 0) false, lanes_pass (by decide)⟩

/-- Lane 0 is misaligned and lane 1 is not: the fault of the earliest check. -/
theorem witness_access_fault : ∃ s s1 g b, Issues (.ld .b64 .dflt (.v 1) (.v 2) 15 0) false s s1 g b
    ∧ g.evalLanes (.v 1) = [0, 1] ∧ laneChk s1 b.ctx .load 8 (g.readR (.v 2) 0) = .bad 2 .alignment
    ∧ ∃ t, laneChk s1 b.ctx .load 8 (g.readR (.v 2) 1) = .ok t := by
  obtain ⟨s1, g, b, h, hp⟩ := issuing_meets (i := .ld .b64 .dflt (.v 1) (.v 2) 15 0) (sync := false)
    (s := ready (.ld .b64 .dflt (.v 1) (.v 2) 15 0) fun g => { g with exec := 3, vregs := [(64, 0x10104), (65, 0x10108)] })
    (p := fun s g b => decide (g.evalLanes (.v 1) = [0, 1] ∧ laneChk s b.ctx .load 8 (g.readR (.v 2) 0) = .bad 2 .alignment)
      && passesB s b .load 8 [] 15 (g.readR (.v 2) 1)) (by decide)
  obtain ⟨h1, h2⟩ := and_of hp
  refine ⟨_, s1, g, b, h, (of_decide_eq_true h1).1, (of_decide_eq_true h1).2, ?_⟩
  obtain ⟨-, h3⟩ | ⟨t, h3, -⟩ := passes_of h2
  · exact absurd rfl h3
  · exact ⟨t, h3.chk⟩

/-- Do no two lanes name one line. -/
def apartB (ls : List Nat) (chk : Nat → LaneChk) : Bool :=
  ls.all fun l => ls.all fun m => l == m || match chk l, chk m with
    | .ok t, .ok u => t.pa / 128 != u.pa / 128
    | _, _ => true

theorem apart_of {ls : List Nat} {chk : Nat → LaneChk} (h : apartB ls chk = true) : apart ls chk := by
  intro l hl m hm hne t u ht hu
  have := List.all_eq_true.mp (List.all_eq_true.mp h l hl) m hm
  simpa [ht, hu, hne] using this

theorem witness_atomic : ∃ s s1 g b, Issues (.atomAdd (.v 1) (.v 2) 15 0) false s s1 g b ∧ Calm s1
    ∧ ∀ l ∈ (g.evalLanes (.v 1)).filter g.isMember, Passes s1 b .rmw 8 [evAtom] 15 (g.readB (.v 2) 0 l) :=
  ⟨mem2 (.atomAdd (.v 1) (.v 2) 15 0) false, lanes_pass (by decide)⟩

theorem witness_update : ∃ s s1 g b, Issues (.atomwOr .z (.v 2) 15 0) false s s1 g b ∧ Calm s1
    ∧ (∀ l ∈ g.lanesOn.filter g.isMember, Passes s1 b .update 4 [evGetm] 15 (g.readB (.v 2) 0 l))
    ∧ (∀ pa, protoId s1 pa ≠ 4) ∧ apart (g.lanesOn.filter g.isMember) fun l => laneChk s1 b.ctx .update 4 (g.readB (.v 2) 0 l) := by
  obtain ⟨s1, g, b, h, hp⟩ := issuing_meets (i := .atomwOr .z (.v 2) 15 0) (sync := false) (s := mem2 (.atomwOr .z (.v 2) 15 0) false)
    (p := fun s g b => (calmB s && (g.lanesOn.filter g.isMember).all fun l => passesB s b .update 4 [evGetm] 15 (g.readB (.v 2) 0 l))
      && (s.rmap.isEmpty && apartB (g.lanesOn.filter g.isMember) fun l => laneChk s b.ctx .update 4 (g.readB (.v 2) 0 l))) (by decide)
  obtain ⟨h1, h2⟩ := and_of hp
  obtain ⟨h1, h3⟩ := and_of h1
  obtain ⟨h2, h4⟩ := and_of h2
  refine ⟨_, s1, g, b, h, calm_of h1, fun l hl => passes_of (List.all_eq_true.mp h3 l hl), fun pa => ?_, apart_of h4⟩
  simp [protoId, List.isEmpty_iff.mp h2]

/-- v1 of lanes 0 and 1 after a memory instruction, and eight bytes of memory at a place. -/
def mem2After (i : Instr) (va : Nat) : Option (Nat × Nat × Nat) :=
  match exec i (mem2 i false) with
  | .next t => (aget t.groups 96).map fun g =>
    ((g.readR (.v 1) 0).toNat, (g.readR (.v 1) 1).toNat, ofBytes (readRaw t (trOf t 1 va).key (trOf t 1 va).pa 8))
  | _ => none

/-- Loads extend and stores put the low bytes, the first byte lowest (R3, R315); operations of R320 give the old value. -/
theorem test_memory : mem2After (.ld .b64 .dflt (.v 1) (.v 2) 15 0) 0x10100 = some (0xF807060580FF8788, 0, 0xF807060580FF8788)
    ∧ mem2After (.ld .s32 .dflt (.v 1) (.v 2) 15 0) 0x10180 = some (0xFFFFFFFF80FF8788, 0, 0)
    ∧ mem2After (.ldx .s8 .dflt (.v 1) (.v 2) 15 0) 0x10180 = some (0xFFFFFFFFFFFFFF88, 0, 0)
    ∧ mem2After (.ldx .n16 .dflt (.v 1) (.v 2) 15 0) 0x10180 = some (0x8788, 0, 0)
    ∧ mem2After (.st .b64 .dflt (.v 3) (.v 2) 15 0) 0x10100 = some (0, 0, 0x1122334455667788)
    ∧ mem2After (.st .b32 .dflt (.v 3) (.v 2) 15 0) 0x10180 = some (0, 0, 5)
    ∧ mem2After (.stx .b16 .dflt (.v 3) (.v 2) 15 0) 0x10100 = some (0, 0, 0xF807060580FF7788) := by decide +kernel

theorem test_atomics : mem2After (.atomAdd (.v 1) (.v 2) 15 0) 0x10180 = some (0xF807060580FF8788, 0, 5)
    ∧ mem2After (.atomwXchg (.v 1) (.v 2) 15 0) 0x10100 = some (0x80FF8788, 0, 0xF807060555667788)
    ∧ mem2After (.atomwIncw (.v 1) (.v 2) 15 0) 0x10180 = some (0x80FF8788, 0, 1)
    ∧ mem2After (.atomMins (.v 1) (.v 2) 15 0) 0x10100 = some (0xF807060580FF8788, 0, 0xF807060580FF8788)
    ∧ mem2After (.atomMaxs (.v 1) (.v 2) 15 0) 0x10100 = some (0xF807060580FF8788, 0, 0x1122334455667788)
    ∧ mem2After (.atomCas (.v 1) (.v 2) 15 0) 0x10180 = some (0xF807060580FF8788, 0, 5) := by decide +kernel

/-! Scratchpad (R317, R318). -/

/-- Does an access of the group's own block go to offset o. -/
def inSpadB (s : State) (g : Group) (b : Block) (n : Nat) (va : Dword) : Bool :=
  match aget s.blocks g.blk with
  | some t => bits va 63 19 == 0 && bits va 18 0 % n == 0 && decide (bits va 18 0 + n ≤ b.spadKB * 1024)
      && decide (b.rank < (headerOf s b.launch).csize) && decide (t.st = .placed) && decide (regionAt t (bits va 18 0) = none)
      && !spadInError t (bits va 18 0) n && decide (rankBlock s g.blk b b.rank = some (g.blk, t))
  | none => false

theorem inSpad_of {s : State} {g : Group} {b : Block} {n : Nat} {va : Dword} (h : inSpadB s g b n va = true) :
    InSpad s g b false n va g.blk (bits va 18 0) := by
  unfold inSpadB at h
  split at h
  · rename_i t ht
    simp only [Bool.and_eq_true, decide_eq_true_eq, beq_iff_eq, Bool.not_eq_true'] at h
    obtain ⟨⟨⟨⟨⟨⟨⟨h1, h2⟩, h3⟩, h4⟩, h5⟩, h6⟩, h7⟩, h8⟩ := h
    exact ⟨h1, ⟨rfl, h2, h3⟩, h4, t, ht, h5, h6, h7, h8⟩
  · cases h

/-- v2 names offsets 0 and 16376, the last of 16 KiB. -/
def padLanes (g : Group) : Group := { g with exec := 3, vregs := [(65, 16376), (96, 0x1122334455667788), (97, 5)] }

theorem witness_scratchpad : ∃ s s1 g b, Issues (.sts .w64 (.v 3) (.v 2) 15 0) false s s1 g b
    ∧ ∀ l ∈ g.lanesOn.filter g.isMember, InSpad s1 g b false 8 (g.readR (.v 2) l) g.blk (bits (g.readR (.v 2) l) 18 0) := by
  obtain ⟨s1, g, b, h, hp⟩ := issuing_meets (i := .sts .w64 (.v 3) (.v 2) 15 0) (sync := false)
    (s := ready (.sts .w64 (.v 3) (.v 2) 15 0) padLanes)
    (p := fun s g b => (g.lanesOn.filter g.isMember).all fun l => inSpadB s g b 8 (g.readR (.v 2) l)) (by decide)
  exact ⟨_, s1, g, b, h, fun l hl => inSpad_of (List.all_eq_true.mp hp l hl)⟩

/-- A store and a load of the scratchpad: the low bytes, extended with zeros (R318). -/
theorem test_scratchpad : (match exec (.sts .w16 (.v 3) (.v 2) 15 0) (ready (.sts .w16 (.v 3) (.v 2) 15 0) padLanes) with
      | .next t => (aget t.blocks 3).map Block.spad
      | _ => none) = some [(0, 0x88), (1, 0x77), (16376, 5)]
    ∧ (after (.lds .w16 (.v 1) (.v 2) 15 0) (let s := ready (.lds .w16 (.v 1) (.v 2) 15 0) padLanes
        { s with blocks := amod s.blocks 3 fun b => { b with spad := [(0, 0x88), (1, 0x97), (2, 1)] } })).map
      (fun g => g.readR (.v 1) 0) = some 0x9788 := by decide

/-! Accumulators (R57 to R73, R322, R343 to R352). -/

theorem laOf_nil (g : Group) (n l : Nat) : laOf g [] n l = LA.zero := rfl

/-- FP32 in A and B, and v2, v3 with 1.5 and 2.5 in lane 0. -/
def sums (g : Group) : Group :=
  { g with fmt := 0x11, vregs := [(64, 0x3FC00000), (96, 0x40200000)] }

theorem fresh_las {i : Instr} {s : State} {p : Group → Block → Prop} [∀ g b, Decidable (p g b)]
    (h : issuing i false s (fun _ g b => decide (p g b) && b.las.isEmpty) = true) :
    ∃ s1 g b, Issues i false s s1 g b ∧ p g b ∧ ∀ n l, (laOf g b.las n l).bad = false := by
  obtain ⟨s1, g, b, hi, hp⟩ := issuing_meets h
  obtain ⟨h1, h2⟩ := and_of hp
  exact ⟨s1, g, b, hi, of_decide_eq_true h1, fun n l => by rw [List.isEmpty_iff.mp h2, laOf_nil]; rfl⟩

/-- An adding instruction at the last index; a run of two; an index out of the allotment; a format it does not take. -/
theorem witness_additions :
    (∃ s s1 g b, Issues (.laadd 127 (.v 2)) false s s1 g b ∧ (laFits g.fmt false .fp32 .fp32 ∧ allotted g b 127)
      ∧ ∀ n l, (laOf g b.las n l).bad = false)
    ∧ (∃ s s1 g b, Issues (.lamad 126 (.v 2) (.v 3)) false s s1 g b ∧ (laFits g.fmt true .fp32 .fp32 ∧ allotted g b 126 ∧ allotted g b 127)
      ∧ ∀ n l, (laOf g b.las n l).bad = false)
    ∧ (∃ s s1 g b, Issues (.laadd 120 (.v 2)) false s s1 g b ∧ ¬allotted g b 120)
    ∧ ∃ s s1 g b, Issues (.laadd 0 (.v 2)) false s s1 g b ∧ allotted g b 0 ∧ laFormat (bits g.fmt 3 0) = none :=
  ⟨⟨ready (.laadd 127 (.v 2)) sums, fresh_las (by decide)⟩, ⟨ready (.lamad 126 (.v 2) (.v 3)) sums, fresh_las (by decide)⟩,
   ⟨ready (.laadd 120 (.v 2)) fun g => { g with awbase := 8 }, meets_of (by decide)⟩,
   ⟨ready (.laadd 0 (.v 2)) fun g => { g with fmt := 0xB }, meets_of (by decide)⟩⟩

/-- LA instructions that move, at the two ends of the window. -/
theorem witness_moves : ∀ i ∈ [Instr.laclr 0 127, .lacrs 126 1, .lamrg 127 0, .lamov 0 127, .laneg 1 1, .laxl 2 3 (.v 2), .laxb 2 3 31],
    ∃ s s1 g b, Issues i false s s1 g b ∧ (∀ k < 128, allotted g b k) ∧ ∀ n l, (laOf g b.las n l).bad = false := by
  intro i hi
  simp only [List.mem_cons, List.not_mem_nil, or_false] at hi
  obtain rfl | rfl | rfl | rfl | rfl | rfl | rfl := hi
  · exact ⟨ready (.laclr 0 127) id, fresh_las (by decide)⟩
  · exact ⟨ready (.lacrs 126 1) id, fresh_las (by decide)⟩
  · exact ⟨ready (.lamrg 127 0) id, fresh_las (by decide)⟩
  · exact ⟨ready (.lamov 0 127) id, fresh_las (by decide)⟩
  · exact ⟨ready (.laneg 1 1) id, fresh_las (by decide)⟩
  · exact ⟨ready (.laxl 2 3 (.v 2)) id, fresh_las (by decide)⟩
  · exact ⟨ready (.laxb 2 3 31) id, fresh_las (by decide)⟩

/-- LAPUT of a segment and of a status word without its reserved bits; LAFLG, LASEG and LARND of runs in the allotment. -/
theorem witness_parts :
    (∃ s s1 g b, Issues (.laput 5 (.v 2) 9) false s s1 g b ∧ allotted g b 5 ∧ ∀ n l, (laOf g b.las n l).bad = false)
    ∧ (∃ s s1 g b, Issues (.laput 5 (.v 2) 10) false s s1 g b
      ∧ (allotted g b 5 ∧ ∀ l ∈ g.lanesOn, bits (g.readR (.v 2) l) 63 48 = 0 ∧ bits (g.readR (.v 2) l) 39 26 = 0 ∧ bits (g.readR (.v 2) l) 15 7 = 0)
      ∧ ∀ n l, (laOf g b.las n l).bad = false)
    ∧ (∃ s s1 g b, Issues (.laflg (.v 1) 127) false s s1 g b ∧ allotted g b 127 ∧ ∀ n l, (laOf g b.las n l).bad = false)
    ∧ (∃ s s1 g b, Issues (.laseg (.v 1) 127 9 0) false s s1 g b ∧ allotted g b 127 ∧ ∀ n l, (laOf g b.las n l).bad = false)
    ∧ ∃ s s1 g b, Issues (.larnd (.v 1) 126 (some .fp32) none 0) false s s1 g b ∧ (∀ j < 64 / numBits .fp32, allotted g b (126 + j))
      ∧ ∀ n l, (laOf g b.las n l).bad = false :=
  ⟨⟨ready (.laput 5 (.v 2) 9) id, fresh_las (by decide)⟩,
   ⟨ready (.laput 5 (.v 2) 10) fun g => { g with exec := 1, vregs := [(64, 0x40)] }, fresh_las (by decide)⟩,
   ⟨ready (.laflg (.v 1) 127) id, fresh_las (by decide)⟩, ⟨ready (.laseg (.v 1) 127 9 0) id, fresh_las (by decide)⟩,
   ⟨ready (.larnd (.v 1) 126 (some .fp32) none 0) id, fresh_las (by decide)⟩⟩

/-- The example of R69: N = 2^298 + 1 in the four modes. -/
theorem test_rounding : let a := LA.zero.addN (2 ^ 298 + 1)
    (a.round .fp32 .rn 0).1 = 0x3F800000 ∧ (a.round .fp32 .rz 0).1 = 0x3F800000 ∧ (a.round .fp32 .ru 0).1 = 0x3F800001
      ∧ (a.round .fp32 .rd 0).1 = 0x3F800000 ∧ (a.round .fp32 .rn 0).2.nx = true := by decide

/-- The other: 2^100, 2^−100 and −2^100 hold 2^−100, which is 0x0D80_0000, inexact nowhere (R69). -/
theorem test_exact_sum : (((LA.zero.addTerm (some (.fin false 1 100))).addTerm (some (.fin false 1 (-100)))).addTerm (some (.fin true 1 100))).round
    .fp32 .rn 0 = (0x0D800000, Flg.none) := by decide

/-- Sums of few terms formed in two orders, and within the bound (the hypotheses of the statement on order). -/
theorem witness_order : ∃ ts us a b, Formed ts a ∧ Formed us b ∧ ts.Perm us ∧ ts.length = 2
    ∧ ((ts.map fun t => (addend t).natAbs).sum : Nat) < 2 ^ (348 + 298) := by
  refine ⟨[some (.fin false 1 0), some (.fin true 1 5)], [some (.fin true 1 5), some (.fin false 1 0)], _, _,
    .add _ (.sweep 3 (by decide) (.add _ .clear)), .merge (.image (.add _ .clear)) (.resolve (.add _ .clear)), .swap _ _ _, rfl, by decide⟩

/-- The image of −1.5, from the example of R71. -/
theorem test_image : ((LA.zero.addTerm (some (.fin true 3 (-1)))).image.drop 32).take 9 = [0, 0, 0, 0, 0, 0xFA, 0xFF, 0xFF, 0xFF]
    ∧ fitsGuard (LA.zero.addTerm (some (.fin true 3 (-1)))).n := by decide

/-- LAADD of 1.5 in FP32, twice, then LARND: 3.0. -/
theorem test_accumulate : (match exec (.laadd 5 (.v 2)) (ready (.laadd 5 (.v 2)) fun g => { sums g with exec := 1 }) with
      | .next t => (aget t.blocks 3).map fun b => (laOf { blk := 3, idx := 0, quad := 0, slot := 0 } b.las 5 0).n
      | _ => none) = some (3 * 2 ^ 297)
    ∧ (after (.larnd (.v 1) 5 (some .fp32) none 0) (let s := ready (.larnd (.v 1) 5 (some .fp32) none 0) fun g => { g with exec := 1 }
        { s with blocks := amod s.blocks 3 fun b => { b with las := [(160, LA.zero.addN (3 * 2 ^ 298))] } })).map
      (fun g => g.readR (.v 1) 0) = some 0x40400000
    ∧ (after (.laseg (.v 1) 5 4 0) (let s := ready (.laseg (.v 1) 5 4 0) fun g => { g with exec := 1 }
        { s with blocks := amod s.blocks 3 fun b => { b with las := [(160, LA.zero.addN (3 * 2 ^ 298))] } })).map
      (fun g => g.readR (.v 1) 0) = some 0x00000C0000000000 := by decide +kernel

/-- Cells: LAST, ATACC.clr, LALD and contributions reach a page that holds accumulators. -/
theorem witness_cells :
    (∃ s s1 g b, Issues (.last 5 (.v 2) 15 0) false s s1 g b ∧ Calm s1 ∧ ∀ l ∈ g.lanesOn, Passes s1 b .last 128 storeEvs 15 (g.readR (.v 2) l))
    ∧ (∃ s s1 g b, Issues (.ataccClr (.v 1) (.v 2) 15 0) false s s1 g b ∧ Calm s1
      ∧ ∀ l ∈ g.lanesOn, Passes s1 b .accumClr 128 storeEvs 15 (g.readB (.v 2) 0 l))
    ∧ (∃ s s1 g b, Issues (.lald 5 (.v 2) 15 0) false s s1 g b ∧ Calm s1 ∧ ∀ l ∈ g.lanesOn, Passes s1 b .lald 128 [evGets] 15 (g.readR (.v 2) l))
    ∧ ∃ s s1 g b, Issues (.ataccAddv (.v 3) (.v 2) 15 0) false s s1 g b ∧ Calm s1
      ∧ ∀ l ∈ g.lanesOn.filter g.isMember, Passes s1 b .accum 128 [evGetm] 15 (g.readB (.v 2) 0 l) :=
  ⟨⟨mem2 (.last 5 (.v 2) 15 0) true, lanes_pass (by decide)⟩, ⟨mem2 (.ataccClr (.v 1) (.v 2) 15 0) true, lanes_pass (by decide)⟩,
   ⟨mem2 (.lald 5 (.v 2) 15 0) true, lanes_pass (by decide)⟩, ⟨mem2 (.ataccAddv (.v 3) (.v 2) 15 0) true, lanes_pass (by decide)⟩⟩

/-- A pass of FP16 by FP16 outside a gang. -/
theorem witness_matrix : ∃ s s1 g b, Issues (.mma 120 16 20 false 0) false s s1 g b
    ∧ (gangMode g.gang = 0 ∧ fmtAf g.fmt = some .fp16 ∧ fmtBf g.fmt = some .fp16 ∧ passOf .fp16 .fp16 = some (16, 32) ∧ ∀ j < 8, allotted g b (120 + j))
    ∧ ∀ n l, (laOf g b.las n l).bad = false :=
  ⟨ready (.mma 120 16 20 false 0) fun g => { g with fmt := 0x22 }, fresh_las (by decide)⟩

/-- A sparse pass whose metadata fill the scratchpad's last bytes. -/
theorem witness_sparse : ∃ s s1 g b, Issues (.mmas 120 16 20 false 0) false s s1 g b
    ∧ (gangMode g.gang = 0 ∧ fmtAf g.fmt = some .fp16 ∧ fmtBf g.fmt = some .fp16 ∧ fmtTa g.fmt = false ∧ (∀ j < 8, allotted g b (120 + j))
      ∧ bits g.mdata 63 28 = 0 ∧ bit g.mdata 19 = false ∧ bits g.mdata 5 0 = 0 ∧ bits g.mdata 18 6 * 64 + 4 * 32 ≤ b.spadKB * 1024
      ∧ b.regions = [] ∧ b.spadBad = []) ∧ ∀ n l, (laOf g b.las n l).bad = false :=
  ⟨ready (.mmas 120 16 20 false 0) fun g => { g with fmt := 0x22, mdata := 0x3F80 }, fresh_las (by decide)⟩

/-- One product: A holds 1.0 (FP16) at (0, 0) and B at (0, 0), so C at (0, 0), accumulator 0 of lane 0, gains 1. -/
theorem test_matrix : (match exec (.mma 0 16 20 false 0) (ready (.mma 0 16 20 false 0) fun g =>
      { g with fmt := 0x22, exec := 3, vregs := [(512, 0x3C00), (640, 0x3C00)] }) with
    | .next t => (aget t.blocks 3).map fun b => (b.las.map fun e => (e.1, e.2.n)).filter fun e => e.2 ≠ 0
    | _ => none) = some [(0, 2 ^ 298)] := by decide +kernel

/-! Fences, barriers, batches and waits (R162 to R173). -/

/-- The placed block changed. -/
def withB (f : Block → Block) (s : State) : State := { s with blocks := amod s.blocks 3 f }

/-- The placed context changed. -/
def withC (f : Ctx → Ctx) (s : State) : State := { s with ctxs := amod s.ctxs 1 f }

/-- A write of the group to another module that it has not acknowledged. -/
def unacked : Posted := ⟨96, 0, 1, 0x8000000000, [1], 0⟩

/-- Fences: at group scope; at system scope with nothing on its way, with a lost write, and with a write unacknowledged. -/
theorem witness_fences :
    (∃ s s1 g b, Issues (.fenceAcq 1 .sys) true s s1 g b) ∧ (∃ s s1 g b, Issues (.fenceRel 1 .grp) true s s1 g b)
    ∧ (∃ s s1 g b, Issues (.fenceAr 15 .sys) true s s1 g b ∧ g.fenceAt = none ∧ (s1.posted.filter fun w => w.grp == s1.cur) = []
        ∧ (s1.lostPeers.filter fun x => x.1 == s1.cur) = [])
    ∧ (∃ s s1 g b, Issues (.fenceRel 1 .sys) true s s1 g b ∧ g.fenceAt = none ∧ (s1.posted.filter fun w => w.grp == s1.cur) = []
        ∧ (s1.lostPeers.filter fun x => x.1 == s1.cur) ≠ [])
    ∧ ∃ s s1 g b, Issues (.fenceRel 1 .sys) true s s1 g b ∧ g.fenceAt = none
        ∧ ∃ w ∈ s1.posted.filter fun w => w.grp == s1.cur, reachable s1 (partOfDie s1 (b.core / 40)) w.peer = true := by
  refine ⟨?_, ?_, ?_, ?_, ?_⟩
  · obtain ⟨s1, g, b, h, -⟩ := issuing_meets (i := .fenceAcq 1 .sys) (sync := true) (s := ready (.fenceAcq 1 .sys) id)
      (p := fun _ _ _ => true) (by decide)
    exact ⟨_, s1, g, b, h⟩
  · obtain ⟨s1, g, b, h, -⟩ := issuing_meets (i := .fenceRel 1 .grp) (sync := true) (s := ready (.fenceRel 1 .grp) id)
      (p := fun _ _ _ => true) (by decide)
    exact ⟨_, s1, g, b, h⟩
  · exact ⟨ready (.fenceAr 15 .sys) id, meets_of (by decide)⟩
  · exact ⟨{ ready (.fenceRel 1 .sys) id with lostPeers := [(96, 1)] }, meets_of (by decide)⟩
  · exact ⟨{ ready (.fenceRel 1 .sys) id with posted := [unacked], reach := [(18, 2)], uports := [⟨.up, 5, false, 0, 0, true, 0, 0, 0⟩] }, meets_of (by decide)⟩

/-- Predicate 1 of lane 0 after a fence, from 2: 0xFF, or 0 where a write was lost (R163, R182). -/
theorem test_fences : (after (.fenceAcq 1 .sys) (ready (.fenceAcq 1 .sys) id)).map (fun g => g.readP 1 0) = some 0xFF
    ∧ (after (.fenceAr 1 .sys) (ready (.fenceAr 1 .sys) id)).map (fun g => g.readP 1 0) = some 0xFF
    ∧ (after (.fenceRel 1 .sys) { ready (.fenceRel 1 .sys) id with lostPeers := [(96, 1)] }).map (fun g => g.readP 1 0) = some 0 := by
  decide

/-- The group is member 0 of barrier 2, of its block or of its cluster, in phase 3, its lanes as members 0 and 1 of 2; a
second live group stands beside it. -/
def barred (clu : Bool) (x : Bar) (s : State) : State :=
  let s := withB (fun b => { b with groups := 2, bars := if clu then [] else [(2, x)] }) s
  { s with clusters := if clu then amod s.clusters 2 fun c => { c with bars := [(2, x)] } else s.clusters,
           groups := aset s.groups 97 { agetD s.groups 96 { blk := 3, idx := 0, quad := 0, slot := 0 } with idx := 1, slot := 1 } }

/-- Barriers whose members are groups 0 and 1. -/
abbrev pair : Bar := { mask := 3, phase := 3 }

theorem witness_barriers_init :
    (∃ s s1 g b, Issues (.barInit 20 (.s 1)) true s s1 g b ∧ b.barsN ≤ 20)
    ∧ (∃ s s1 g b, Issues (.barInit 2 (.s 1)) true s s1 g b ∧ 2 < b.barsN ∧ 2 ^ b.groups ≤ bits (g.readS (.s 1)) 31 0)
    ∧ (∃ s s1 g b, Issues (.barInit 2 (.s 1)) true s s1 g b ∧ 2 < b.barsN ∧ BitVec.ofNat 128 (bits (g.readS (.s 1)) 31 0) &&& liveBlock s1 g.blk = 0)
    ∧ (∃ s s1 g b, Issues (.barInit 2 (.s 1)) true s s1 g b ∧ 2 < b.barsN ∧ bits (g.readS (.s 1)) 31 0 < 2 ^ b.groups
        ∧ BitVec.ofNat 128 (bits (g.readS (.s 1)) 31 0) &&& liveBlock s1 g.blk ≠ 0 ∧ (namedBar b 2).arr ≠ 0)
    ∧ ∃ s s1 g b, Issues (.barInit 2 (.s 1)) true s s1 g b ∧ 2 < b.barsN ∧ bits (g.readS (.s 1)) 31 0 < 2 ^ b.groups
        ∧ BitVec.ofNat 128 (bits (g.readS (.s 1)) 31 0) &&& liveBlock s1 g.blk ≠ 0 ∧ (namedBar b 2).arr = 0 :=
  ⟨⟨ready (.barInit 20 (.s 1)) (withS [(1, 3)]), meets_of (by decide)⟩,
   ⟨barred false pair (ready (.barInit 2 (.s 1)) (withS [(1, 4)])), meets_of (by decide)⟩,
   ⟨barred false pair (ready (.barInit 2 (.s 1)) (withS [(1, 0)])), meets_of (by decide)⟩,
   ⟨barred false { pair with arr := 2 } (ready (.barInit 2 (.s 1)) (withS [(1, 3)])), meets_of (by decide)⟩,
   ⟨barred false pair (ready (.barInit 2 (.s 1)) (withS [(1, 3)])), meets_of (by decide)⟩⟩

theorem witness_arrivals : ∀ clu : Bool, let i : Instr := if clu then .cbarArr 2 else .barArr 2
    arrivals i = some (clu, 2) ∧ (∃ s s1 g b, Issues i true s s1 g b ∧ (clu = true → (aget s1.clusters b.clu).isSome = true)
      ∧ mayArrive g b clu 2 (barOf s1 b g.blk clu 2) ∧ fillsPhase (barOf s1 b g.blk clu 2) (liveOf s1 g b clu) (memberNum g b clu))
    ∧ ∃ s s1 g b, Issues i true s s1 g b ∧ (clu = true → (aget s1.clusters b.clu).isSome = true)
      ∧ mayArrive g b clu 2 (barOf s1 b g.blk clu 2) ∧ ¬fillsPhase (barOf s1 b g.blk clu 2) (liveOf s1 g b clu) (memberNum g b clu) := by
  intro clu
  cases clu
  · exact ⟨rfl, ⟨barred false { pair with arr := 2 } (ready (.barArr 2) id), meets_of (by decide)⟩,
      ⟨barred false pair (ready (.barArr 2) id), meets_of (by decide)⟩⟩
  · exact ⟨rfl, ⟨barred true { pair with arr := 2 } (ready (.cbarArr 2) id), meets_of (by decide)⟩,
      ⟨barred true pair (ready (.cbarArr 2) id), meets_of (by decide)⟩⟩

/-- An id that is absent, a group that is no member, and one that has arrived. -/
theorem witness_arrival_faults :
    (∃ s s1 g b, Issues (.barArr 63) true s s1 g b ∧ b.barsN ≤ 63)
    ∧ (∃ s s1 g b, Issues (.barArr 2) true s s1 g b ∧ 2 < b.barsN ∧ (namedBar b 2).mask.getLsbD g.idx = false)
    ∧ ∃ s s1 g b, Issues (.barArr 2) true s s1 g b ∧ 2 < b.barsN ∧ (namedBar b 2).mask.getLsbD g.idx = true
        ∧ (namedBar b 2).arr.getLsbD g.idx = true :=
  ⟨⟨ready (.barArr 63) id, meets_of (by decide)⟩, ⟨barred false { mask := 2 } (ready (.barArr 2) id), meets_of (by decide)⟩,
   ⟨barred false { pair with arr := 1 } (ready (.barArr 2) id), meets_of (by decide)⟩⟩

theorem witness_bar_waits : ∀ clu : Bool, let i : Instr := if clu then .cbarWait 1 2 else .barWait 1 2
    barWaits i = some (clu, 1, 2)
    ∧ (∃ s s1 g b, Issues i true s s1 g b ∧ (barOf s1 b g.blk clu 2).seen.getLsbD (memberNum g b clu) = false)
    ∧ (∃ s s1 g b, Issues i true s s1 g b ∧ (barOf s1 b g.blk clu 2).seen.getLsbD (memberNum g b clu) = true
        ∧ agetD (barOf s1 b g.blk clu 2).lph (memberNum g b clu) 0 ≠ (barOf s1 b g.blk clu 2).phase)
    ∧ ∃ s s1 g b, Issues i true s s1 g b ∧ 2 < barCount b clu ∧ (barOf s1 b g.blk clu 2).seen.getLsbD (memberNum g b clu) = true
        ∧ agetD (barOf s1 b g.blk clu 2).lph (memberNum g b clu) 0 = (barOf s1 b g.blk clu 2).phase
        ∧ (barOf s1 b g.blk clu 2).arr.getLsbD (memberNum g b clu) = true := by
  intro clu
  cases clu
  · exact ⟨rfl, ⟨barred false pair (ready (.barWait 1 2) id), meets_of (by decide)⟩,
      ⟨barred false { pair with seen := 1, lph := [(0, 2)] } (ready (.barWait 1 2) id), meets_of (by decide)⟩,
      ⟨barred false { pair with seen := 1, lph := [(0, 3)], arr := 1 } (ready (.barWait 1 2) id), meets_of (by decide)⟩⟩
  · exact ⟨rfl, ⟨barred true pair (ready (.cbarWait 1 2) id), meets_of (by decide)⟩,
      ⟨barred true { pair with seen := 1, lph := [(0, 2)] } (ready (.cbarWait 1 2) id), meets_of (by decide)⟩,
      ⟨barred true { pair with seen := 1, lph := [(0, 3)], arr := 1 } (ready (.cbarWait 1 2) id), meets_of (by decide)⟩⟩

theorem witness_bar_syncs : ∀ clu : Bool, let i : Instr := if clu then .cbarSync 1 2 else .barSync 1 2
    barSyncs i = some (clu, 1, 2) ∧ ∀ last : Bool, ∃ s s1 g b, Issues i true s s1 g b ∧ g.wait = none ∧ g.synced.contains (clu, 2, g.pc) = false
      ∧ (clu = true → (aget s1.clusters b.clu).isSome = true) ∧ memberNum g b clu < 128
      ∧ mayArrive g b clu 2 (barOf s1 b g.blk clu 2)
      ∧ (fillsPhase (barOf s1 b g.blk clu 2) (liveOf s1 g b clu) (memberNum g b clu) ↔ last = true) := by
  intro clu
  cases clu <;> refine ⟨rfl, fun last => ?_⟩ <;> cases last
  · exact ⟨barred false pair (ready (.barSync 1 2) id), meets_of (by decide)⟩
  · exact ⟨barred false { pair with arr := 2 } (ready (.barSync 1 2) id), meets_of (by decide)⟩
  · exact ⟨barred true pair (ready (.cbarSync 1 2) id), meets_of (by decide)⟩
  · exact ⟨barred true { pair with arr := 2 } (ready (.cbarSync 1 2) id), meets_of (by decide)⟩

/-- Barrier 2 of the block after an instruction: phase, arrivals, abandoned. -/
def barAfter (i : Instr) (x : Bar) : Option (Nat × Nat × Bool) :=
  match exec i (barred false x (ready i (withS [(1, 1)]))) with
  | .next t => (aget t.blocks 3).map fun b => let y := namedBar b 2; (y.phase.toNat, y.arr.toNat, y.abnd)
  | _ => none

/-- The first arrival of two waits, the last completes the phase (R164); a new mask leaves the phase (R166). -/
theorem test_barriers : barAfter (.barArr 2) pair = some (3, 1, false) ∧ barAfter (.barArr 2) { pair with arr := 2 } = some (4, 0, false)
    ∧ barAfter (.barSync 15 2) { pair with arr := 2, abnd := true } = some (4, 0, false) ∧ barAfter (.barInit 2 (.s 1)) pair = some (3, 0, false) := by
  decide

/-- Sixteen batches that are not complete. -/
def open16 : List BatchRec := (List.range 16).map fun n => ⟨n + 1, 1, false⟩

theorem witness_batches :
    (∃ s s1 g b, Issues .batch true s s1 g b ∧ 16 ≤ (g.batches.filter fun x => x.left != 0).length)
    ∧ (∃ s s1 g b, Issues .batch true s s1 g b ∧ (g.batches.filter fun x => x.left != 0).length < 16)
    ∧ (∃ s s1 g b, Issues (.bwait 1 (.s 1)) true s s1 g b ∧ 1 ≤ (bits (g.readS (.s 1)) 31 0 + 2 ^ 32 - g.lastBatch) % 2 ^ 32
        ∧ (bits (g.readS (.s 1)) 31 0 + 2 ^ 32 - g.lastBatch) % 2 ^ 32 ≤ 2 ^ 31)
    ∧ (∃ s s1 g b, Issues (.bwait 1 (.s 1)) true s s1 g b ∧ (bits (g.readS (.s 1)) 31 0 + 2 ^ 32 - g.lastBatch) % 2 ^ 32 = 0
        ∧ g.batches = [⟨5, 1, false⟩])
    ∧ ∃ s s1 g b, Issues (.bwait 1 (.s 1)) true s s1 g b ∧ (bits (g.readS (.s 1)) 31 0 + 2 ^ 32 - g.lastBatch) % 2 ^ 32 = 0
        ∧ g.batches = [⟨5, 0, true⟩] :=
  ⟨⟨ready .batch fun g => { g with batches := open16, lastBatch := 16 }, meets_of (by decide)⟩,
   ⟨ready .batch fun g => { g with openRecs := 2 }, meets_of (by decide)⟩,
   ⟨ready (.bwait 1 (.s 1)) (withS [(1, 1)]), meets_of (by decide)⟩,
   ⟨ready (.bwait 1 (.s 1)) fun g => { withS [(1, 5)] g with lastBatch := 5, batches := [⟨5, 1, false⟩] }, meets_of (by decide)⟩,
   ⟨ready (.bwait 1 (.s 1)) fun g => { withS [(1, 5)] g with lastBatch := 5, batches := [⟨5, 0, true⟩] }, meets_of (by decide)⟩⟩

/-- One address of a lane passes. -/
theorem reach_meets {i : Instr} {sync : Bool} {s : State} {k : AccKind} {n ev : Nat} {va : Group → Dword} {p : State → Group → Block → Prop}
    [∀ s g b, Decidable (p s g b)]
    (h : issuing i sync s (fun s g b => decide (p s g b) && (calmB s && (answersB s ev && match laneChk s b.ctx k n (va g) with
      | .ok t => plainTr s n t
      | _ => false))) = true) :
    ∃ s1 g b t, Issues i sync s s1 g b ∧ p s1 g b ∧ Calm s1 ∧ Reaches s1 b k n (va g) t ∧ Answers s1 t.pa ev := by
  obtain ⟨s1, g, b, hi, hp⟩ := issuing_meets h
  obtain ⟨h0, h1⟩ := and_of hp
  obtain ⟨h1, h2⟩ := and_of h1
  obtain ⟨h2, h3⟩ := and_of h2
  split at h3
  · rename_i t e
    exact ⟨s1, g, b, t, hi, of_decide_eq_true h0, calm_of h1, reaches_of e h3, answers_of h2 _⟩
  · cases h3

/-- A dword of memory that is 5, compared with s2. -/
def watch (n : Nat) : State := put 0x10200 [5] (ready (.waitm 1 .sys (.s 1) (.s 2)) (withS [(1, 0x10200), (2, n)]))

theorem witness_waitm : ∀ same : Bool, ∃ s s1 g b t, Issues (.waitm 1 .sys (.s 1) (.s 2)) true s s1 g b
    ∧ (bits (g.readS (.s 1)) 57 56 = 0 ∧ (numAt s1 (trOf s1 1 0x10200).key (trOf s1 1 0x10200).pa 8 = (g.readS (.s 2)).toNat ↔ same = true))
    ∧ Calm s1 ∧ Reaches s1 b .load 8 (dw (bits (g.readS (.s 1)) 55 0)) t ∧ Answers s1 t.pa evGets := by
  intro same
  cases same
  · exact ⟨watch 6, reach_meets (va := fun g => dw (bits (g.readS (.s 1)) 55 0)) (by decide)⟩
  · exact ⟨watch 5, reach_meets (va := fun g => dw (bits (g.readS (.s 1)) 55 0)) (by decide)⟩

/-- The group's queue register 4 is bound to slot 1 of its context, which holds l. -/
def bound (l : List QRec) (x : QRegState) (s : State) : State :=
  { s with eps := [(65, { kind := 1, die := 0, recs := l, nextSeq := l.length, bound := 1 })],
           groups := amod s.groups 96 fun g => { g with qregs := [(4, x)] } }

/-- A register bound to slot 1 with n outstanding records and completions. -/
abbrev qreg (n : Nat) (l : List Completion) : QRegState := ⟨false, 1, n, l⟩

theorem witness_qfence : ∀ named : Bool, ∃ s s1 g b, Issues (.qfence (.s 1)) true s s1 g b
    ∧ ((∃ q < 16, ∃ x ∈ aget g.qregs q, bit (g.readS (.s 1)) q = true ∧ x.slot = 1) ↔ named = true) := by
  intro named
  cases named
  · exact ⟨bound [] (qreg 0 []) (ready (.qfence (.s 1)) (withS [(1, 0xFFEF)])), meets_of (by decide)⟩
  · exact ⟨bound [] (qreg 0 []) (ready (.qfence (.s 1)) (withS [(1, 0x10)])), meets_of (by decide)⟩

/-- BATCH closes 2 records under 6; BWAIT gives 0 for a failed batch; QFENCE puts one entry in. -/
theorem test_batches : (after .batch (ready .batch fun g => { g with openRecs := 2, lastBatch := 5 })).map (fun g => (g.batches, g.openRecs, g.lastBatch))
      = some ([⟨6, 2, false⟩], 0, 6)
    ∧ (after (.bwait 1 (.s 1)) (ready (.bwait 1 (.s 1)) fun g => { withS [(1, 5)] g with lastBatch := 5, batches := [⟨5, 0, true⟩] })).map
        (fun g => (g.readP 1 0, g.batches)) = some (0, [])
    ∧ (after (.waitm 1 .sys (.s 1) (.s 2)) (watch 6)).map (fun g => g.readP 1 0) = some 0xFF
    ∧ (after (.waitm 1 .sys (.s 1) (.s 2)) (watch 5)).map (fun g => g.st) = some .blocked
    ∧ (match exec (.qfence (.s 1)) (bound [] (qreg 0 []) (ready (.qfence (.s 1)) (withS [(1, 0x10)]))) with
      | .next t => (aget t.eps 65).map fun e => e.recs.map fun r => r.fence.isSome
      | _ => none) = some [true] := by decide +kernel

/-! Pages (R222 to R241). -/

/-- The group's lane 0 has an address in v2; more pages as given. -/
def paged (i : Instr) (va : Nat) : State := ready i fun g => { g with exec := 1, vregs := [(64, dw va)] }

/-- The pages of a context without a page there are backed, zeros on die 0. -/
def backed (s : State) : State :=
  withC (fun c => { c with backing := [(2, ⟨2, 1, false, 0, 1, 7, 0, some 0⟩)] }) s

theorem witness_pages :
    (∀ i ∈ [Instr.pgqry (.v 1) (.v 2) 15 0, .pgreq (.v 1) (.v 2) 3 0], ∃ s s1 g b, Issues i false s s1 g b
      ∧ (∀ l ∈ g.evalLanes (.v 1), g.isMember l = true → bits (g.readR (.v 2) l) 63 56 = 0)
      ∧ g.evalLanes (.v 1) = [0] ∧ g.isMember 0 = true ∧ (walk s1 b.ctx (g.readR (.v 2) 0).toNat).isSome = true)
    ∧ (∃ s s1 g b, Issues (.pgreq (.v 1) (.v 2) 15 0) false s s1 g b ∧ g.evalLanes (.v 1) = [0] ∧ g.isMember 0 = true
      ∧ walk s1 b.ctx (g.readR (.v 2) 0).toNat = none ∧ backingOf (ctxOf s1 b.ctx) ((g.readR (.v 2) 0).toNat / 65536) = none)
    ∧ (∃ s s1 g b, Issues (.pgreq (.v 1) (.v 2) 15 0) false s s1 g b ∧ g.evalLanes (.v 1) = [0] ∧ g.isMember 0 = true
      ∧ walk s1 b.ctx (g.readR (.v 2) 0).toNat = none ∧ (backingOf (ctxOf s1 b.ctx) ((g.readR (.v 2) 0).toNat / 65536)).isSome = true
      ∧ (takeFrame s1 (partOfDie s1 (b.core / 40)) (some 0) (b.core / 40) false).isSome = true ∧ chainRoom s1 b.ctx 2 1 = true)
    ∧ ∀ i ∈ [Instr.pgqry (.v 1) (.v 2) 15 0, .pgreq (.v 1) (.v 2) 15 0], ∃ s s1 g b, Issues i false s s1 g b
      ∧ g.evalLanes (.v 1) = [0] ∧ g.isMember 0 = true ∧ bits (g.readR (.v 2) 0) 63 56 ≠ 0 := by
  refine ⟨fun i hi => ?_, ⟨paged (.pgreq (.v 1) (.v 2) 15 0) 0x20000, meets_of (by decide)⟩,
    ⟨backed (paged (.pgreq (.v 1) (.v 2) 15 0) 0x20000), meets_of (by decide)⟩, fun i hi => ?_⟩ <;>
    simp only [List.mem_cons, List.not_mem_nil, or_false] at hi <;> obtain rfl | rfl := hi
  · exact ⟨paged (.pgqry (.v 1) (.v 2) 15 0) 0x10000, meets_of (by decide)⟩
  · exact ⟨paged (.pgreq (.v 1) (.v 2) 3 0) 0x10000, meets_of (by decide)⟩
  · exact ⟨paged (.pgqry (.v 1) (.v 2) 15 0) (2 ^ 56), meets_of (by decide)⟩
  · exact ⟨paged (.pgreq (.v 1) (.v 2) 15 0) (2 ^ 56), meets_of (by decide)⟩

theorem witness_pref : ∃ s s1 g b, Issues (.pref (.v 2) 3 0) false s s1 g b ∧ Calm s1 := by
  obtain ⟨s1, g, b, h, hp⟩ := issuing_meets (i := .pref (.v 2) 3 0) (sync := false) (s := paged (.pref (.v 2) 3 0) 0x10000)
    (p := fun s _ _ => calmB s) (by decide)
  exact ⟨_, s1, g, b, h, calm_of hp⟩

/-- The context privileged or not. -/
def priv (p : Bool) : State → State := withC fun c => { c with priv := p }

/-- The page is pinned n times. -/
def pinnedBy (n : Nat) (s : State) : State :=
  { s with frames := s.frames.map fun e => (e.1, { e.2 with pincnt := n, st := .pinned }) }

/-- PGPIN and PGUNPIN: not privileged; privileged, of one lane, below the limit and at it. -/
theorem witness_pins : ∀ pin : Bool, let i : Instr := if pin then .pgpin (.v 1) (.v 2) 15 0 else .pgunpin (.v 1) (.v 2) 15 0
    (∃ s s1 g b, Issues i false s s1 g b ∧ (ctxOf s1 b.ctx).priv = false)
    ∧ ∀ limit : Bool, ∃ s s1 g b, Issues i false s s1 g b ∧ (ctxOf s1 b.ctx).priv = true ∧ g.evalLanes (.v 1) = [0] ∧ g.isMember 0 = true
      ∧ bits (g.readR (.v 2) 0) 63 56 = 0 ∧ (∃ t ∈ walk s1 b.ctx (g.readR (.v 2) 0).toNat, t.aper = false ∧ t.absentFor pin = false
        ∧ ∃ e ∈ aget s1.frames t.entry, e.large = false ∧ ((if pin then e.pincnt = 255 else e.pincnt = 0) ↔ limit = true))
      ∧ s1.pageOps = [] := by
  intro pin
  cases pin
  · refine ⟨⟨priv false (paged (.pgunpin (.v 1) (.v 2) 15 0) 0x10000), meets_of (by decide)⟩, fun limit => ?_⟩
    cases limit
    · exact ⟨priv true (pinnedBy 1 (paged (.pgunpin (.v 1) (.v 2) 15 0) 0x10000)), meets_of (by decide)⟩
    · exact ⟨priv true (paged (.pgunpin (.v 1) (.v 2) 15 0) 0x10000), meets_of (by decide)⟩
  · refine ⟨⟨priv false (paged (.pgpin (.v 1) (.v 2) 15 0) 0x10000), meets_of (by decide)⟩, fun limit => ?_⟩
    cases limit
    · exact ⟨priv true (paged (.pgpin (.v 1) (.v 2) 15 0) 0x10000), meets_of (by decide)⟩
    · exact ⟨priv true (pinnedBy 255 (paged (.pgpin (.v 1) (.v 2) 15 0) 0x10000)), meets_of (by decide)⟩

/-- v1 of lane 0, and the state and PINCNT of the page's frame after. -/
def pageAfter (i : Instr) (s : State) : Option (Nat × List (PState × Nat)) :=
  match exec i s with
  | .next t => (aget t.groups 96).map fun g => ((g.readR (.v 1) 0).toNat, t.frames.map fun e => (e.2.st, e.2.pincnt))
  | _ => none

/-- RESIDENT is 2; no page is 8; a request of a resident page gives 1, one with backing 0 and REQUESTED, one without 4; a pin. -/
theorem test_pages : ∀ r ∈ ([(.pgqry (.v 1) (.v 2) 15 0, 0x10000, id, (2, [(.resident, 0)])), (.pgqry (.v 1) (.v 2) 15 0, 0x20000, id, (8, [(.resident, 0)])),
    (.pgreq (.v 1) (.v 2) 15 0, 0x10000, id, (1, [(.resident, 0)])),
    (.pgreq (.v 1) (.v 2) 15 0, 0x20000, backed, (0, [(.resident, 0), (.requested, 0)])),
    (.pgreq (.v 1) (.v 2) 15 0, 0x20000, id, (4, [(.resident, 0)])), (.pgpin (.v 1) (.v 2) 15 0, 0x10000, priv true, (0, [(.pinned, 1)])),
    (.pgunpin (.v 1) (.v 2) 15 0, 0x10000, priv true, (1, [(.resident, 0)])), (.pref (.v 2) 15 0, 0x10000, id, (0, [(.resident, 0)]))]
      : List (Instr × Nat × (State → State) × (Nat × List (PState × Nat)))),
    pageAfter r.1 (r.2.2.1 (paged r.1 r.2.1)) = some r.2.2.2 := by decide

/-! Spill space and regions (R86, R120, R231 to R233, R326, R327). -/

/-- The launch's private memory: two dwords a lane at 0x10400; the context's spilling mode; the bin of the block. -/
def spilling (pinned : Bool) (s : State) : State :=
  let s := { s with launches := amod s.launches 1 fun l => { l with hdr := some { bootHeader with privBase := 0x10400, privLane := 16 } } }
  withB (fun b => { b with bin := some (0, 4096) }) (withC (fun c => { c with pinned := pinned }) s)

/-- The state of a spill or fill: two lanes, v3 stored or loaded, s1 = j. -/
def spill (store pinned : Bool) (j : Nat) : State :=
  spilling pinned (ready (if store then .spl 3 (.s 1) 15 0 else .fil 3 (.s 1) 15 0) fun g => withS [(1, j)] (twoLanes g))

theorem witness_spill_faults : ∀ store : Bool, let i : Instr := if store then .spl 3 (.s 1) 15 0 else .fil 3 (.s 1) 15 0
    (∃ s s1 g b, Issues i false s s1 g b ∧ bits (g.readS (.s 1)) 63 32 ≠ 0)
    ∧ (∃ s s1 g b, Issues i false s s1 g b ∧ bits (g.readS (.s 1)) 63 32 = 0 ∧ (ctxOf s1 b.ctx).pinned = true
        ∧ 16 * b.vregs = bits (g.readS (.s 1)) 31 0)
    ∧ ∃ s s1 g b, Issues i false s s1 g b ∧ bits (g.readS (.s 1)) 63 32 = 0 ∧ (ctxOf s1 b.ctx).pinned = false
        ∧ (headerOf s1 b.launch).privLane / 8 = bits (g.readS (.s 1)) 31 0 := by
  intro store
  cases store
  · exact ⟨⟨spill false false (2 ^ 32), meets_of (by decide)⟩, ⟨spill false true 48, meets_of (by decide)⟩,
      ⟨spill false false 2, meets_of (by decide)⟩⟩
  · exact ⟨⟨spill true false (2 ^ 32), meets_of (by decide)⟩, ⟨spill true true 48, meets_of (by decide)⟩,
      ⟨spill true false 2, meets_of (by decide)⟩⟩

theorem witness_spill_pinned : ∀ store : Bool, ∃ s s1 g b, Issues (if store then Instr.spl 3 (.s 1) 15 0 else .fil 3 (.s 1) 15 0) false s s1 g b
    ∧ bits (g.readS (.s 1)) 63 32 = 0 ∧ (ctxOf s1 b.ctx).pinned = true ∧ bits (g.readS (.s 1)) 31 0 < 16 * b.vregs
    ∧ (aget s1.ctxs b.ctx).isSome = true := by
  intro store
  cases store
  · exact ⟨spill false true 47, meets_of (by decide)⟩
  · exact ⟨spill true true 47, meets_of (by decide)⟩

theorem witness_spill_private :
    (∃ s s1 g b, Issues (.spl 3 (.s 1) 15 0) false s s1 g b ∧ Calm s1 ∧ ∀ l ∈ g.lanesOn, Passes s1 b .store 8 storeEvs 15 (dw (0x10500 + l * 8)))
    ∧ ∃ s s1 g b, Issues (.fil 3 (.s 1) 15 0) false s s1 g b ∧ Calm s1 ∧ ∀ l ∈ g.lanesOn, Passes s1 b .load 8 [evGets] 15 (dw (0x10500 + l * 8)) :=
  ⟨⟨spill true false 1, lanes_pass (ls := Group.lanesOn) (va := fun _ l => dw (0x10500 + l * 8)) (by decide)⟩,
   ⟨spill false false 1, lanes_pass (ls := Group.lanesOn) (va := fun _ l => dw (0x10500 + l * 8)) (by decide)⟩⟩

/-- What FIL gives lanes 0 and 1 after SPL of the same dword. -/
def spilled (pinned : Bool) : Option (Nat × Nat) :=
  match exec (.spl 3 (.s 1) 15 0) (spill true pinned 1) with
  | .next t =>
    match exec (.fil 4 (.s 1) 15 0) { t with groups := amod t.groups 96 fun g => { g with pc := 0x10000 } } with
    | .next u => (aget u.groups 96).map fun g => ((g.readR (.v 4) 0).toNat, (g.readR (.v 4) 1).toNat)
    | _ => none
  | _ => none

theorem test_spill : spilled true = some (0x1122334455667788, 5) ∧ spilled false = some (0x1122334455667788, 5) := by decide +kernel

/-- The control dword of a region: slot 1, length 1 (512 bytes), place in the scratchpad sp; and its virtual address. -/
def region (i : Instr) (c va : Nat) (l : AMap Region) : State :=
  withB (fun b => { b with regions := l, spad := [(3, 9)], marks := [(3, 3)] }) (ready i (withS [(1, c), (2, va)]))

/-- MAPR: each misuse, and a region that opens. -/
theorem witness_mapr : ∀ e ∈ ([(2 ^ 35 + 0x100000, 0x10000, []), (0x100000, 2 ^ 56, []), (0x100000, 0x10001, []), (0x30100000, 0x10000, []),
      (0x400100000, 0x10000, [(1, ⟨0, false, 1, 5⟩)]), (0x100020, 0x10000, []), (0x100000, 0x10000, [(1, ⟨0, false, 1, 0⟩)]),
      (0x40010001F, 0x1FE00, [(1, ⟨0, false, 1, 0⟩)])] : List (Nat × Nat × AMap Region)),
    ∃ s s1 g b, Issues (.mapr (.s 1) (.s 2) 15 0) false s s1 g b ∧ (g.readS (.s 1) = dw e.1 ∧ g.readS (.s 2) = dw e.2.1 ∧ b.regions = e.2.2)
      ∧ ∃ t ∈ walk s1 b.ctx 0x10000, t.perm = 7 ∧ t.absentFor true = false ∧ t.aper = false ∧ ∃ f ∈ aget s1.frames t.entry, f.rcnt < 255 := by
  intro e he
  simp only [List.mem_cons, List.not_mem_nil, or_false] at he
  obtain rfl | rfl | rfl | rfl | rfl | rfl | rfl | rfl := he
  · exact ⟨region (.mapr (.s 1) (.s 2) 15 0) (2 ^ 35 + 0x100000) 0x10000 [], meets_of (by decide)⟩
  · exact ⟨region (.mapr (.s 1) (.s 2) 15 0) 0x100000 (2 ^ 56) [], meets_of (by decide)⟩
  · exact ⟨region (.mapr (.s 1) (.s 2) 15 0) 0x100000 0x10001 [], meets_of (by decide)⟩
  · exact ⟨region (.mapr (.s 1) (.s 2) 15 0) 0x30100000 0x10000 [], meets_of (by decide)⟩
  · exact ⟨region (.mapr (.s 1) (.s 2) 15 0) 0x400100000 0x10000 [(1, ⟨0, false, 1, 5⟩)], meets_of (by decide)⟩
  · exact ⟨region (.mapr (.s 1) (.s 2) 15 0) 0x100020 0x10000 [], meets_of (by decide)⟩
  · exact ⟨region (.mapr (.s 1) (.s 2) 15 0) 0x100000 0x10000 [(1, ⟨0, false, 1, 0⟩)], meets_of (by decide)⟩
  · exact ⟨region (.mapr (.s 1) (.s 2) 15 0) 0x40010001F 0x1FE00 [(1, ⟨0, false, 1, 0⟩)], meets_of (by decide)⟩

/-- SYNCR and UNMAPR: a reserved bit, a slot that is not open, and a region whose one dirty byte goes to memory. -/
theorem witness_syncr : ∀ close : Bool, let i : Instr := if close then .unmapr (.s 1) 15 0 else .syncr (.s 1) 15 0
    (∃ s s1 g b, Issues i false s s1 g b ∧ bits (g.readS (.s 1)) 63 3 ≠ 0)
    ∧ (∃ s s1 g b, Issues i false s s1 g b ∧ bits (g.readS (.s 1)) 63 3 = 0 ∧ aget b.regions (bits (g.readS (.s 1)) 2 0) = none)
    ∧ ∃ s s1 g b t, Issues i false s s1 g b
      ∧ (bits (g.readS (.s 1)) 63 3 = 0 ∧ aget b.regions (bits (g.readS (.s 1)) 2 0) = some ⟨0x10200, true, 1, 0⟩
        ∧ s1.pageOps = [] ∧ (b.marks.filter fun m => decide (m.1 < 512) && m.2.getLsbD 1).map Prod.fst = [3]
        ∧ ∀ ev ∈ storeEvs, answersB s1 ev = true)
      ∧ Calm s1 ∧ Reaches s1 b .store 1 0x10203 t ∧ Answers s1 t.pa evGetx := by
  intro close
  cases close
  · exact ⟨⟨region (.syncr (.s 1) 15 0) 8 0 [], meets_of (by decide)⟩, ⟨region (.syncr (.s 1) 15 0) 7 0 [], meets_of (by decide)⟩,
      ⟨region (.syncr (.s 1) 15 0) 7 0 [(7, ⟨0x10200, true, 1, 0⟩)], reach_meets (va := fun _ => 0x10203) (by decide)⟩⟩
  · exact ⟨⟨region (.unmapr (.s 1) 15 0) 8 0 [], meets_of (by decide)⟩, ⟨region (.unmapr (.s 1) 15 0) 7 0 [], meets_of (by decide)⟩,
      ⟨region (.unmapr (.s 1) 15 0) 7 0 [(7, ⟨0x10200, true, 1, 0⟩)], reach_meets (va := fun _ => 0x10203) (by decide)⟩⟩

/-- A region's slot, length and place; what UNMAPR puts in memory. -/
theorem test_regions :
    (match exec (.mapr (.s 1) (.s 2) 15 0) (region (.mapr (.s 1) (.s 2) 15 0) 0x40010001F 0x1FE00 []) with
      | .next t => (aget t.blocks 3).map fun b => b.regions
      | _ => none) = some [(4, ⟨0x1FE00, true, 1, 31⟩)]
    ∧ (match exec (.unmapr (.s 1) 15 0) (region (.unmapr (.s 1) 15 0) 7 0 [(7, ⟨0x10200, true, 1, 0⟩)]) with
      | .next t => (aget t.blocks 3).map fun b => (b.regions, readByte t (trOf t 1 0x10203).key (trOf t 1 0x10203).pa)
      | _ => none) = some ([], 9) := by decide +kernel

/-! Queues of a group (R108 to R112, R278, R331 to R335). -/

/-- The state of an instruction that uses queue register 4. -/
def queued (i : Instr) (x : QRegState) : State :=
  bound [{ dw := List.replicate 8 0, seq := 0 }] x (ready i (withS [(1, 0x1234), (2, 7), (3, 8)]))

/-- A completion record. -/
abbrev done1 (st : Nat) : Completion := ⟨dw (2 ^ 63 + st), 3, false, none, true⟩

def pushSamples : List Instr :=
  [.qpush 4 1 3, .ecpy 4 1 3, .egath 4 1 0, .escat 4 1 3, .ercpy 4 1 3, .efill 4 1 3, .emig 4 1 3]

theorem witness_pushes : ∀ i ∈ pushSamples, (pushes i).isSome = true ∧ ∃ s s1 g b, Issues i false s s1 g b
    ∧ aget g.qregs 4 = some (qreg 31 []) ∧ ((aget s1.eps (b.ctx * 64 + 1)).map fun e => e.recs.length) = some 1 := by
  have h : (pushSamples.all fun i => (pushes i).isSome && issuing i false (queued i (qreg 31 [])) fun s g b =>
      decide (aget g.qregs 4 = some (qreg 31 []) ∧ ((aget s.eps (b.ctx * 64 + 1)).map fun e => e.recs.length) = some 1)) = true := by decide
  intro i hi
  obtain ⟨h1, h2⟩ := and_of (List.all_eq_true.mp h i hi)
  exact ⟨h1, _, meets_of h2⟩

theorem witness_push_faults :
    (∃ s s1 g b, Issues (.qpush 4 1 3) false s s1 g b ∧ aget g.qregs 4 = none)
    ∧ (∃ s s1 g b, Issues (.qpush 4 1 3) false s s1 g b ∧ aget g.qregs 4 = some ⟨true, 1, 0, []⟩)
    ∧ ∃ s s1 g b, Issues (.qpush 4 1 3) false s s1 g b ∧ aget g.qregs 4 = some (qreg 32 [])
        ∧ (aget s1.eps (b.ctx * 64 + 1)).isSome = true :=
  ⟨⟨ready (.qpush 4 1 3) id, meets_of (by decide)⟩, ⟨queued (.qpush 4 1 3) ⟨true, 1, 0, []⟩, meets_of (by decide)⟩,
   ⟨queued (.qpush 4 1 3) (qreg 32 []), meets_of (by decide)⟩⟩

/-- TYPE of the record a push appends, and its next dwords. -/
theorem test_pushes : ∀ e ∈ ([(.qpush 4 1 1, 0x34, 7, 0), (.efill 4 1 2, 0x14, 7, 8), (.ercpy 4 1 0, 0x13, 0, 0)] : List (Instr × Nat × Nat × Nat)),
    (match exec e.1 (queued e.1 (qreg 0 [])) with
      | .next t => (aget t.eps 65).bind fun q => q.recs[1]?.map fun r => (bits (dwd r.dw 0) 7 0, (dwd r.dw 1).toNat, (dwd r.dw 2).toNat)
      | _ => none) = some e.2 := by decide

/-- LAUNCH through queue 3 of the context, with 64 bytes at 0x10240; s1 and s2 as given. -/
def launching (va qv depth : Nat) : State :=
  let s := put 0x10240 [1] (ready (.launch (.s 1) (.s 2)) (withS [(1, va), (2, qv)]))
  { s with queues := aset s.queues 3 { HostQ.zero with ctx := 1, depth := depth, nextSeq := 4 } }

theorem witness_launches :
    (∃ s s1 g b, Issues (.launch (.s 1) (.s 2)) false s s1 g b ∧ bits (g.readS (.s 2)) 63 13 ≠ 0)
    ∧ (∃ s s1 g b, Issues (.launch (.s 1) (.s 2)) false s s1 g b ∧ bits (g.readS (.s 2)) 63 13 = 0 ∧ (g.readS (.s 1)).toNat % 64 ≠ 0)
    ∧ ∀ full : Bool, ∃ s s1 g b t, Issues (.launch (.s 1) (.s 2)) false s s1 g b
      ∧ (bits (g.readS (.s 2)) 63 13 = 0 ∧ bits (g.readS (.s 2)) 12 0 = 3 ∧ b.ctx ≠ 0
        ∧ ∃ q ∈ aget s1.queues (portOfPart s1 (partOfDie s1 (b.core / 40)) * 8192 + 3), q.ctx = b.ctx ∧ q.dying = false ∧ q.halted = false
          ∧ (q.depth ≤ q.recs.length ↔ full = true))
      ∧ Calm s1 ∧ Reaches s1 b .load 64 (g.readS (.s 1)) t ∧ Answers s1 t.pa evGets := by
  refine ⟨⟨launching 0x10240 0x2003 1, meets_of (by decide)⟩, ⟨launching 0x10220 3 1, meets_of (by decide)⟩, fun full => ?_⟩
  cases full
  · exact ⟨launching 0x10240 3 1, reach_meets (va := fun g => g.readS (.s 1)) (by decide)⟩
  · exact ⟨launching 0x10240 3 0, reach_meets (va := fun g => g.readS (.s 1)) (by decide)⟩

theorem test_launch : (match exec (.launch (.s 1) (.s 2)) (launching 0x10240 3 1) with
    | .next t => (aget t.queues 3).map fun q => (q.nextSeq, q.recs.map fun r => (r.seq, (dwd r.dw 0).toNat))
    | _ => none) = some (5, [(4, 1)]) := by decide +kernel

theorem witness_collects :
    (∃ s s1 g b, Issues (.qpop (.s 4) 4) false s s1 g b ∧ aget g.qregs 4 = none)
    ∧ (∃ s s1 g b, Issues (.qpop (.s 4) 4) false s s1 g b ∧ aget g.qregs 4 = some (qreg 0 []))
    ∧ (∃ s s1 g b, Issues (.qpop (.s 4) 4) false s s1 g b ∧ aget g.qregs 4 = some (qreg 1 []))
    ∧ (∀ i ∈ [Instr.qpop (.s 4) 4, .qtry (.s 4) 4], ∃ s s1 g b, Issues i false s s1 g b ∧ aget g.qregs 4 = some (qreg 1 [done1 0]))
    ∧ (∃ s s1 g b, Issues (.qtry (.s 4) 4) false s s1 g b ∧ ∀ x ∈ aget g.qregs 4, x.done = [])
    ∧ (∃ s s1 g b, Issues (.qdrain (.s 4) 4) false s s1 g b ∧ aget g.qregs 4 = none)
    ∧ (∃ s s1 g b, Issues (.qdrain (.s 4) 4) false s s1 g b ∧ aget g.qregs 4 = some (qreg 2 [done1 0]))
    ∧ (∃ s s1 g b, Issues (.qdrain (.s 4) 4) false s s1 g b ∧ aget g.qregs 4 = some (qreg 1 [done1 0x80]))
    ∧ (∃ s s1 g b, Issues (.qstat (.s 4) 4) false s s1 g b ∧ aget g.qregs 4 = none)
    ∧ ∃ s s1 g b, Issues (.qstat (.s 4) 4) false s s1 g b ∧ aget g.qregs 4 = some (qreg 1 [])
        ∧ ((aget s1.eps (b.ctx * 64 + 1)).map fun e => e.kind) = some 1 := by
  refine ⟨⟨ready (.qpop (.s 4) 4) id, meets_of (by decide)⟩, ⟨queued (.qpop (.s 4) 4) (qreg 0 []), meets_of (by decide)⟩,
    ⟨queued (.qpop (.s 4) 4) (qreg 1 []), meets_of (by decide)⟩, fun i hi => ?_, ⟨ready (.qtry (.s 4) 4) id, meets_of (by decide)⟩,
    ⟨ready (.qdrain (.s 4) 4) id, meets_of (by decide)⟩, ⟨queued (.qdrain (.s 4) 4) (qreg 2 [done1 0]), meets_of (by decide)⟩,
    ⟨queued (.qdrain (.s 4) 4) (qreg 1 [done1 0x80]), meets_of (by decide)⟩, ⟨ready (.qstat (.s 4) 4) id, meets_of (by decide)⟩,
    ⟨queued (.qstat (.s 4) 4) (qreg 1 []), meets_of (by decide)⟩⟩
  simp only [List.mem_cons, List.not_mem_nil, or_false] at hi
  obtain rfl | rfl := hi
  · exact ⟨queued (.qpop (.s 4) 4) (qreg 1 [done1 0]), meets_of (by decide)⟩
  · exact ⟨queued (.qtry (.s 4) 4) (qreg 1 [done1 0]), meets_of (by decide)⟩

/-- QBIND: reserved bits; a free slot, one of the same kind, and a slot that the context does not have. -/
theorem witness_binds : ∀ e ∈ ([(0x40, 64, false), (0x101, 64, true), (0x101, 64, false), (0x101, 1, false)] : List (Nat × Nat × Bool)),
    ∃ s s1 g b, Issues (.qbind 4 (.s 1)) false s s1 g b ∧ aget g.qregs 4 = none ∧ g.readS (.s 1) = dw e.1 ∧ (ctxOf s1 b.ctx).epMax = e.2.1
      ∧ (aget s1.eps (b.ctx * 64 + 1)).map (fun x => x.kind) = if e.2.2 then some 1 else none := by
  intro e he
  simp only [List.mem_cons, List.not_mem_nil, or_false] at he
  obtain rfl | rfl | rfl | rfl := he
  · exact ⟨ready (.qbind 4 (.s 1)) (withS [(1, 0x40)]), meets_of (by decide)⟩
  · exact ⟨{ ready (.qbind 4 (.s 1)) (withS [(1, 0x101)]) with eps := [(65, ⟨1, 0, [], 0, 1⟩)] }, meets_of (by decide)⟩
  · exact ⟨ready (.qbind 4 (.s 1)) (withS [(1, 0x101)]), meets_of (by decide)⟩
  · exact ⟨withC (fun c => { c with epMax := 1 }) (ready (.qbind 4 (.s 1)) (withS [(1, 0x101)])), meets_of (by decide)⟩

/-- QPOP's two dwords; QDRAIN's count of failed records; QSTAT of a bound register of kind 1; QBIND's register. -/
theorem test_collects :
    (after (.qpop (.s 4) 4) (queued (.qpop (.s 4) 4) (qreg 1 [done1 0]))).map (fun g => (g.readSn 4, g.readSn 5)) = some (0x8000000000000000, 3)
    ∧ (after (.qdrain (.s 4) 4) (queued (.qdrain (.s 4) 4) (qreg 1 [done1 0x80]))).map (fun g => g.readSn 4) = some 1
    ∧ (after (.qstat (.s 4) 4) (queued (.qstat (.s 4) 4) (qreg 1 []))).map (fun g => g.readSn 4) = some 0x4001000100000001
    ∧ (after (.qbind 4 (.s 1)) (ready (.qbind 4 (.s 1)) (withS [(1, 0x101)]))).map (fun g => g.qregs) = some [(4, qreg 0 [])] := by decide

/-! Steps, completion, faults (R142 to R157, R242, R392). -/

/-- No group, as a default. -/
abbrev noOne : Group := { blk := 0, idx := 0, quad := 0, slot := 0 }

/-- The choice of the placed group's turn. -/
def chosen (w : BitVec 32) : State := (chooseTurn (placeWord State.reset w)).1

/-- That group and its block, and the state that its issue is recorded in. -/
def issuer (w : BitVec 32) : Group := agetD (chosen w).groups 96 noOne
def issuerBlock (w : BitVec 32) : Block := agetD (chosen w).blocks 3 (bootBlock State.reset 1)
def issueState (w : BitVec 32) : State := (issueRecord { chosen w with cur := 96 } 96 (issuer w) (issuerBlock w)).1

/-- A word that decodes, and one that does not, at the pc of a group whose turn it is. -/
theorem witness_step : ∀ w ∈ [(0x58000FFE : BitVec 32), 0xFFFFFFFF],
    chooseTurn (placeWord State.reset w) = (chosen w, some (.turn (.issue 96))) ∧ Ready (chosen w) 96 (issueState w) (issuer w) (issuerBlock w)
      ∧ Fetches (issueState w) (issuerBlock w) (issuer w).pc (trOf (issueState w) 1 0x10000)
      ∧ ∀ m < 4, readByte (issueState w) (trOf (issueState w) 1 0x10000).key ((trOf (issueState w) 1 0x10000).pa + m)
          = BitVec.ofNat 8 (w.toNat / 256 ^ m) := by
  intro w hw
  simp only [List.mem_cons, List.not_mem_nil, or_false] at hw
  obtain rfl | rfl := hw <;>
    exact ⟨by rfl, ⟨by decide, by decide, by decide, by decide, by rfl⟩,
      ⟨by decide, by decide, by decide, by decide, by decide, by decide⟩, by decide⟩

/-- Nothing of that code was overwritten; and of two words overwritten, that of the
launch is older. -/
theorem witness_step_stale : (issueState 0x58000FFE).stale = []
    ∧ (let t := trOf (issueState 0x58000FFE) 1 0x10000
      let l := (issuerBlock 0x58000FFE).launch
      oldWords { issueState 0x58000FFE with stale := [(memKey t.key t.pa / 4, [⟨7, none, []⟩, ⟨9, none, [l]⟩])] } l t = [9]) := by decide

theorem witness_step_word : (decodeWord 0x58000FFE).toOption = some (.addi .z .z (-2)) := by decide

theorem witness_step_error : ∃ e, decodeWord 0xFFFFFFFF = .error e := by
  have h : (match decodeWord 0xFFFFFFFF with
    | .error _ => true
    | .ok _ => false) = true := by decide
  split at h
  · exact ⟨_, ‹_›⟩
  · cases h

/-- A group that has completed an instruction without a lookahead, and one with. -/
theorem witness_completion : (∃ i, ∃ s : State, ∃ k, ∃ new : Group, (promised i).2 = 0 ∧ aget s.groups k = some new)
    ∧ ∃ i, ∃ s : State, ∃ k, ∃ old new : Group, (promised i).2 ≠ 0 ∧ aget s.groups k = some new ∧ new.pend = old.pend :=
  ⟨⟨.nop, ready .nop id, 96, agetD (ready .nop id).groups 96 noOne, by decide⟩,
   ⟨.ld .b64 .dflt (.v 1) (.v 2) 15 3, ready .nop id, 96, agetD (ready .nop id).groups 96 noOne,
    agetD (ready .nop id).groups 96 noOne, by decide⟩⟩

/-- LC1, which ends at the instruction, has 2 left: the pc goes back; with 1 left it goes on. -/
theorem test_loop_end : ∀ e ∈ ([(2, 0xFFFC, 1, true), (1, 0x10004, 0, false)] : List (Nat × Nat × Nat × Bool)),
    (after .nop (ready .nop fun g => { g with lc1 := ⟨true, BitVec.ofNat 32 e.1, 0xFFFC, 2, 1⟩ })).map
      (fun g => (g.pc.toNat, g.lc1.count.toNat, g.lc1.active)) = some e.2 := by decide

/-- A result promised for v1 by an instruction at 0x8000. -/
abbrev promise (n : Nat) : Pend := ⟨0x8000, n, true, [1], [], [], [], [], [], [], []⟩

/-- WIN in a span; IADD that reads what is promised; a register out of the window. -/
theorem witness_early_faults :
    (∃ s, ∃ x ∈ atIssue (.win (.s 1)) true s, x.2.1.grem ≠ 0 ∧ barredInSpan (.win (.s 1)) = true)
    ∧ (∃ s, ∃ x ∈ atIssue (.iadd .w64 (.v 2) (.v 1) .z) false s, x.2.1.grem = 0 ∧ x.2.1.pend = [promise 2]
        ∧ 1 ∈ runNums (usesIn x.2.1 (.iadd .w64 (.v 2) (.v 1) .z)).v ∧ x.2.1.wbase = 0)
    ∧ ∃ s, ∃ x ∈ atIssue (.iadd .w64 (.v 2) (.v 7) .z) false s, x.2.1.grem = 0 ∧ x.2.1.pend = []
        ∧ runNums (usesIn x.2.1 (.iadd .w64 (.v 2) (.v 7) .z)).v ∈ [[7, 2], [2, 7]] ∧ x.2.1.wbase + 7 = 32 * x.2.2.vregs - 1 + 0 + 1 := by
  refine ⟨⟨ready (.win (.s 1)) fun g => { g with grem := 3 }, by decide⟩,
    ⟨ready (.iadd .w64 (.v 2) (.v 1) .z) fun g => { g with pend := [promise 2] }, by decide⟩,
    ⟨ready (.iadd .w64 (.v 2) (.v 7) .z) fun g => { g with wbase := 89 }, by decide⟩⟩

/-- A fault that enters a handler, and one that halts a group beside which another lives. -/
theorem witness_raise :
    (∃ s k g b, aget s.groups k = some g ∧ aget s.blocks g.blk = some b ∧ g.inh = false ∧ (ctxOf s b.ctx).handler ≠ 0)
    ∧ ∃ s k g b, aget s.groups k = some g ∧ aget s.blocks g.blk = some b ∧ (ctxOf s b.ctx).handler = 0
      ∧ ∃ o x, o ≠ k ∧ aget s.groups o = some x ∧ x.blk = g.blk ∧ x.ended = false :=
  ⟨⟨withC (fun c => { c with handler := 0x20000 }) (ready .nop id), 96, agetD (ready .nop id).groups 96 noOne,
      agetD (ready .nop id).blocks 3 (bootBlock State.reset 1), by decide⟩,
    ⟨barred false pair (ready .nop id), 96, agetD (ready .nop id).groups 96 noOne,
      agetD (barred false pair (ready .nop id)).blocks 3 (bootBlock State.reset 1), by decide, by decide, by decide,
      97, agetD (barred false pair (ready .nop id)).groups 97 noOne, by decide⟩⟩

/-- POISON and ILLEGAL_INSTRUCTION of a word that does not decode: cause and value of the trap, the pc saved. -/
theorem test_undecodable : (match step (withC (fun c => { c with handler := 0x20000 }) (placeWord State.reset 0xFFFFFFFF)) with
    | .next t => (aget t.groups 96).map fun g => (g.trapCause, g.trapVal, g.trapPc, g.pc, g.inh)
    | _ => none) = some (1, 0xFFFFFFFF, 0x10000, 0x20000, true) := by decide

/-! Records (R96 to R112, R336 to R341). -/

/-- The record at the head of a queue. -/
def top (s : State) (q : QRef) : QRec := (queueRecs s q).headD (record [])

/-- The checks of a record at the head of its queue. -/
def headB (s : State) (q : QRef) (ty : Nat) (ok : QRec → Bool) (r : QRec) (l : List QRec) : Bool :=
  decide (queueRecs s q = r :: l) && startable s q && decide (recType r = ty) && queueAccepts s q ty && eventOk r && ok r

theorem head_of {s : State} {q : QRef} {ty : Nat} {ok : QRec → Bool} {r : QRec} {l : List QRec} (h : headB s q ty ok r l = true) :
    Head s q ty ok r l := by
  simp only [headB, Bool.and_eq_true, decide_eq_true_eq] at h
  exact ⟨h.1.1.1.1.1, h.1.1.1.1.2, h.1.1.1.2, h.1.1.2, h.1.2, h.2⟩

/-- Dword i of memory of the page of context 0, and the records left in queue 0 and the completion dword at 0x10700. -/
def mem0 (va : Nat) (l : List Nat) (s : State) : State :=
  writeRaw s (trOf s 0 va).key (trOf s 0 va).pa ((l.map fun n => (List.range 8).map fun k => BitVec.ofNat 8 (n / 256 ^ k)).flatten)

/-- What stands at an address of context 0. -/
def at0 (s : State) (va : Nat) : Nat := numAt s (trOf s 0 va).key (trOf s 0 va).pa 8

/-- After an event: records left in queue 0, whether it is halted, and dwords of memory. -/
def ran (i : Instr) (s : State) (l : List Nat) : Option (Nat × Bool × List Nat) :=
  match exec i s with
  | .next t => (aget t.queues 0).map fun q => (q.recs.length, q.halted, l.map (at0 t))
  | _ => none

/-- EVENT 0, one that is misaligned, one behind an earlier event, and one that is written. -/
theorem witness_completions : ∀ e ∈ ([(0, []), (0x10701, []), (0x10700, [⟨0, q0, 3, 0x10708, 1⟩]), (0x10700, [])] : List (Nat × List EvWrite)),
    let s := { sys [record [0x03, 0x10600, 5, 0, 0, 0, 0, e.1]] with evq := e.2 }
    ∃ r l, queueRecs s q0 = r :: l ∧ r.fence = none ∧ r.owner = none ∧ recType r ≠ 1 ∧ (dwd r.dw 7).toNat = e.1 ∧ s.evq = e.2
      ∧ calmB s = true ∧ agentB s (queueCtx s q0) 0x10700 8 true (trOf s 0 0x10700) = true := by
  intro e he
  simp only [List.mem_cons, List.not_mem_nil, or_false] at he
  obtain rfl | rfl | rfl | rfl := he <;> exact ⟨_, _, rfl, by decide⟩

theorem witness_event_reaches : ∃ s t, Calm s ∧ AgentReaches s q0 (queueCtx s q0) 0x10700 8 true t :=
  ⟨sys [], trOf (sys []) 0 0x10700, calm_of (by decide), agent_of (by decide) q0⟩

/-- A record of an endpoint of a group. -/
def epRec (s : State) : State :=
  { s with eps := aset s.eps 65 { kind := 1, die := 0, recs := [{ record [0x14] with owner := some (96, 4), copy := true }], nextSeq := 8, bound := 1 } }

theorem witness_ep_completion : ∃ r g y, let s := epRec (queued .nop (qreg 1 []))
    queueRecs s (.ep 1 1) = r :: [] ∧ r.fence = none ∧ r.owner = some (96, 4) ∧ r.batch = none ∧ aget s.groups 96 = some g ∧ g.ended = false
      ∧ aget g.qregs 4 = some y :=
  ⟨{ record [0x14] with owner := some (96, 4), copy := true }, agetD (epRec (queued .nop (qreg 1 []))).groups 96 noOne,
    qreg 1 [], by decide⟩

/-- A WAIT for ≥ 5 with a limit of 1 µs, not started or started at 9; memory there holds v. -/
def waitRec (v : Nat) (st : Option Nat) : State :=
  mem0 0x10600 [v] (sys [{ record [0x02, 0x10600, 5, 0xFF, 1, 0, 0, 0x10700] with started := st }])

theorem witness_waits : ∀ e ∈ ([(5, none), (4, none), (5, some 9), (4, some 9)] : List (Nat × Option Nat)),
    let s := waitRec e.1 e.2
    let r := top s q0
    Head s q0 0x02 waitOk r [] ∧ r.started = e.2 ∧ Calm s ∧ bits (dwd r.dw 4) 31 0 ≠ 0
      ∧ AgentReaches s q0 (queueCtx s q0) (dwd r.dw 1).toNat 8 false (trOf (sys []) 0 0x10600)
      ∧ numAt s (trOf (sys []) 0 0x10600).key (trOf (sys []) 0 0x10600).pa 8 = e.1 := by
  intro e he
  simp only [List.mem_cons, List.not_mem_nil, or_false] at he
  obtain rfl | rfl | rfl | rfl := he <;>
    exact ⟨head_of (by decide), rfl, calm_of (by decide), by decide, agent_of (by decide +kernel) q0, by decide +kernel⟩

/-- A SIGNAL of OP op with 5. -/
def signalRec (op : Nat) : State := mem0 0x10600 [0x104] (sys [record [0x03 + op * 256, 0x10600, 5, 0, 0, 0, 0, 0x10700]])

theorem witness_signals : ∀ op ∈ [0, 1, 2], let s := signalRec op
    let r := top s q0
    Head s q0 0x03 signalOk r [] ∧ closeOf s q0 r = none ∧ Calm s
      ∧ AgentReaches s q0 (queueCtx s q0) (dwd r.dw 1).toNat 8 true (trOf (sys []) 0 0x10600)
      ∧ paKind (trOf (sys []) 0 0x10600).pa = .hbm ∧ Answers s (trOf (sys []) 0 0x10600).pa evNcrd := by
  intro op h
  simp only [List.mem_cons, List.not_mem_nil, or_false] at h
  obtain rfl | rfl | rfl := h <;>
    exact ⟨head_of (by decide), by decide, calm_of (by decide), agent_of (by decide +kernel) q0, by decide, answers_of (by decide) _⟩

/-- A WAIT that is met completes with SEQ 7 and status 0; one not met stays, and its time halts the queue with ERR_TIMEOUT;
SIGNAL writes, adds and ors (R101, R103, R104). -/
theorem test_waits_and_signals : ∀ e ∈ ([(.wait q0, waitRec 5 none, 0x10700, (0, false, [2 ^ 63 + 7 * 256])),
      (.wait q0, waitRec 4 none, 0x10700, (1, false, [0])), (.waitMet q0, waitRec 5 (some 9), 0x10700, (0, false, [2 ^ 63 + 7 * 256])),
      (.waitTimeout q0, waitRec 4 (some 9), 0x10700, (0, false, [2 ^ 63 + 7 * 256 + 0x85])), (.signal q0, signalRec 0, 0x10600, (0, false, [5])),
      (.signal q0, signalRec 1, 0x10600, (0, false, [0x109])), (.signal q0, signalRec 2, 0x10600, (0, false, [0x105]))]
        : List (Instr × State × Nat × (Nat × Bool × List Nat))), ran e.1 e.2.1 [e.2.2.1] = some e.2.2.2 := by decide +kernel

/-- A work queue halts where a system queue does not (R107); an ill-formed record. -/
theorem test_illformed : ran (.wait q0) (sys [record [0x02, 0x10601, 5, 0xFF, 1, 0, 0, 0x10700]]) [0x10700] = some (0, false, [2 ^ 63 + 7 * 256 + 0x80])
    ∧ (aget (haltQueue { State.reset with queues := [(3, { HostQ.zero with ctx := 1 })] } (.host 0 3)).queues 3).map HostQ.halted = some true := by decide +kernel

/-- Records that meet the statements on forms: one that is not there, of another TYPE, and ill-formed. -/
theorem witness_forms : let s := sys [record [0x02, 0x10601]]
    queueRecs s q0 = top s q0 :: [] ∧ startable s q0 = true ∧ recType (top s q0) = 0x02 ∧ (top s q0).started = none ∧ waitOk (top s q0) = false
      ∧ records (.wait q0) = some (q0, 2, fun _ r => waitOk r) :=
  ⟨rfl, by decide, by decide, rfl, by decide, rfl⟩

theorem witness_command_form : let s := sys [record [0x22]]
    Head s q0 0x22 (fun _ => true) (top s q0) [] ∧ (top s q0).started = none ∧ cmdOk (top s q0) 0 false = false
      ∧ commands (.ctxSuspend q0) = some (q0, 0x22, 0, false) :=
  ⟨head_of (by decide), rfl, by decide, rfl⟩

/-- A record that copies, with eight bytes at 0x10600. -/
def copyRec (l : List Nat) : State := mem0 0x10600 [0x0807060504030201] (sys [record l])

/-- No byte of one span lies in the other, both in one page. -/
theorem apart_keys {s : State} {c n src dst : Nat} {t : Tr} (hs : walk s c src = some t) (h1 : src % 65536 + n ≤ 65536)
    (hd : dst / 65536 = src / 65536) (h2 : dst % 65536 + n ≤ 65536) (h3 : src + n ≤ dst) (hh : t.pa + 65536 < 2 ^ 39) :
    apartKeys s c n (fun j => src + j) (fun j => dst + j) := by
  have hw (j : Nat) (hj : src % 65536 + j < 65536) := walk_shift s c src j hj
  have key (j : Nat) (hj : src % 65536 + j < 65536) (hk : j < 65536) : keyOf s c (src + j) = memKey t.key (t.pa + j) := by
    simp [keyOf, hw j hj, hs]
  have m (x : Nat) (hx : x < 65536) : memKey t.key (t.pa + x) = t.key * 2 ^ 52 + t.pa + x := by
    have h4 : t.pa + x < 2 ^ 39 := by omega
    simp only [memKey, if_pos h4, Nat.add_assoc]
  intro i hi j hj
  have e1 : dst + j = src + (dst - src + j) := by omega
  have e2 : dst + i = src + (dst - src + i) := by omega
  show keyOf s c (src + i) ≠ keyOf s c (dst + j) ∧ (i ≠ j → keyOf s c (dst + i) ≠ keyOf s c (dst + j))
  rw [e1, e2, key i (by omega) (by omega), key (dst - src + j) (by omega) (by omega), key (dst - src + i) (by omega) (by omega),
    m _ (by omega), m _ (by omega), m _ (by omega)]
  omega

/-- A record of an endpoint of kind k of context 0. -/
def epSys (k : Nat) (l : List Nat) : State :=
  { mem0 0x10600 [0x0807060504030201] (sys []) with eps := [(1, { kind := k, die := 0, recs := [record l], nextSeq := 8, bound := 0 })] }

/-- The endpoint. -/
abbrev e1 : QRef := .ep 0 1

/-- COPY, ECPY and ERCPY of eight bytes, ERCPY in two rows of four. -/
theorem witness_copies : ∀ e ∈ ([(.copy q0, copyRec [0x04, 0x10600, 0x10800, 8], q0), (.ecpyRecord e1, epSys 0 [0x08000010, 0x10600, 0x10800], e1),
      (.ercpyRecord e1, epSys 0 [0x40002000013, 0x10600, 0x10800, 0x400000004], e1)] : List (Instr × State × QRef)),
    ∃ ty ok len src dst count, copies e.1 = some (e.2.2, ty, ok, len, src, dst, count) ∧ Head e.2.1 e.2.2 ty ok (top e.2.1 e.2.2) []
      ∧ (top e.2.1 e.2.2).work = 0 ∧ Calm e.2.1 ∧ len (top e.2.1 e.2.2) = 8 ∧ spanOpen e.2.1 e.2.2 0 8 (src (top e.2.1 e.2.2)) false
      ∧ spanOpen e.2.1 e.2.2 0 8 (dst (top e.2.1 e.2.2)) true
      ∧ apartKeys e.2.1 0 8 (src (top e.2.1 e.2.2)) (dst (top e.2.1 e.2.2)) := by
  have ap (s : State) (h : walk s 0 0x10600 = some (trOf s 0 0x10600)) (h2 : (trOf s 0 0x10600).pa + 65536 < 2 ^ 39) :
      apartKeys s 0 8 (fun j => 0x10600 + j) (fun j => 0x10800 + j) := apart_keys h (by decide) (by decide) (by decide) (by decide) h2
  intro e he
  simp only [List.mem_cons, List.not_mem_nil, or_false] at he
  obtain rfl | rfl | rfl := he
  · exact ⟨_, _, _, _, _, _, rfl, head_of (by decide), rfl, calm_of (by decide),
      by decide, span_of (base := 0x10600) (t := trOf (copyRec [0x04, 0x10600, 0x10800, 8]) 0 0x10600) (by decide +kernel) _,
      span_of (base := 0x10800) (t := trOf (copyRec [0x04, 0x10600, 0x10800, 8]) 0 0x10800) (by decide +kernel) _, ap _ (by decide) (by decide)⟩
  · exact ⟨_, _, _, _, _, _, rfl, head_of (by decide), rfl, calm_of (by decide),
      by decide, span_of (base := 0x10600) (t := trOf (epSys 0 [0x08000010, 0x10600, 0x10800]) 0 0x10600) (by decide +kernel) _,
      span_of (base := 0x10800) (t := trOf (epSys 0 [0x08000010, 0x10600, 0x10800]) 0 0x10800) (by decide +kernel) _, ap _ (by decide) (by decide)⟩
  · have e1 : (fun i => 0x10600 + i / 4 * 4 + i % 4) = fun i => 0x10600 + i := by funext i; omega
    have e2 : (fun i => 0x10800 + i / 4 * 4 + i % 4) = fun i => 0x10800 + i := by funext i; omega
    refine ⟨_, _, _, _, _, _, rfl, head_of (by decide), rfl, calm_of (by decide), by decide, ?_, ?_, ?_⟩
    · show spanOpen _ _ 0 8 (fun i => 0x10600 + i / 4 * 4 + i % 4) false
      rw [e1]
      exact span_of (t := trOf (epSys 0 [0x40002000013, 0x10600, 0x10800, 0x400000004]) 0 0x10600) (by decide +kernel) _
    · show spanOpen _ _ 0 8 (fun i => 0x10800 + i / 4 * 4 + i % 4) true
      rw [e2]
      exact span_of (t := trOf (epSys 0 [0x40002000013, 0x10600, 0x10800, 0x400000004]) 0 0x10800) (by decide +kernel) _
    · show apartKeys _ 0 8 (fun i => 0x10600 + i / 4 * 4 + i % 4) (fun i => 0x10800 + i / 4 * 4 + i % 4)
      rw [e1, e2]
      exact ap _ (by decide) (by decide)

theorem witness_fill : let s := epSys 0 [0x08000014, 0x10800, 0x0102030405060708]
    Head s e1 0x14 (fun r => zeroBits (dwd r.dw 0) [(23, 8)] && addrOk (dwd r.dw 1) && dwd r.dw 3 == 0) (top s e1) []
      ∧ (top s e1).work = 0 ∧ Calm s ∧ bits (dwd (top s e1).dw 0) 63 24 = 8 ∧ spanOpen s e1 (queueCtx s e1) 8 (fun j => 0x10800 + j) true :=
  ⟨head_of (by decide), rfl, calm_of (by decide), by decide,
    span_of (t := trOf (epSys 0 [0x08000014, 0x10800, 0x0102030405060708]) 0 0x10800) (by decide +kernel) _⟩

/-- EGATH and ESCAT of one dword by an index of four bytes, which is 0. -/
theorem witness_gathers : ∀ scatter : Bool, let s := epSys 1 (if scatter then [0x100000312, 0x10900, 0x10700, 0x10600] else [0x100000311, 0x10600, 0x10700, 0x10900])
    Head s e1 (if scatter then 0x12 else 0x11) elemsOk (top s e1) [] ∧ (top s e1).work = 0 ∧ Calm s
      ∧ spanOpen s e1 0 4 (fun j => 0x10700 + j) false ∧ spanOpen s e1 0 8 (fun j => 0x10600 + j) false
      ∧ spanOpen s e1 0 8 (fun j => 0x10900 + j) true ∧ apartKeys s 0 8 (fun j => 0x10600 + j) (fun j => 0x10900 + j)
      ∧ apartKeys s 0 8 (fun j => 0x10700 + j) (fun j => 0x10900 + j) ∧ numAt s (trOf s 0 0x10700).key (trOf s 0 0x10700).pa 4 = 0 := by
  intro scatter
  cases scatter <;>
    exact ⟨head_of (by decide), rfl, calm_of (by decide), span_of (t := trOf (epSys 1 []) 0 0x10700) (by decide +kernel) _,
      span_of (t := trOf (epSys 1 []) 0 0x10600) (by decide +kernel) _, span_of (t := trOf (epSys 1 []) 0 0x10900) (by decide +kernel) _,
      apart_keys (t := trOf (epSys 1 []) 0 0x10600) (by decide) (by decide) (by decide) (by decide) (by decide) (by decide),
      apart_keys (t := trOf (epSys 1 []) 0 0x10700) (by decide) (by decide) (by decide) (by decide) (by decide) (by decide), by decide +kernel⟩

/-- The page's frame changed. -/
def withF (f : Frame → Frame) (s : State) : State := { s with frames := amod s.frames 5 f }

/-- EMIG of the page, with n pages done, on whose frame m regions count. -/
def moving (n m : Nat) : State :=
  let s := epSys 3 [0x100000515, 0x10000]
  withF (fun f => { f with rcnt := m }) { s with eps := amod s.eps 1 fun x => { x with recs := x.recs.map fun r => { r with work := n } } }

/-- EMIG of one page to die 1: all done, a page on which regions count, and one that has a place there. -/
theorem witness_migrations : ∀ e ∈ ([(1, 0), (0, 1), (0, 0)] : List (Nat × Nat)),
    let s := moving e.1 e.2
    Head s e1 0x15 (fun r => zeroBits (dwd r.dw 0) [(31, 11)] && bits (dwd r.dw 0) 63 32 != 0
        && zeroBits (dwd r.dw 1) [(63, 56), (15, 0)] && zeroDwords r 2 3) (top s e1) []
      ∧ (∀ x ∈ s.pageOps, opOf e1 x.2 = false) ∧ (top s e1).work = e.1 ∧ bits (dwd (top s e1).dw 0) 63 32 = 1
      ∧ (∃ t ∈ walk s 0 0x10000, t.aper = false ∧ t.large = false ∧ ∃ f ∈ aget s.frames t.entry, f.large = false ∧ f.st = .resident ∧ f.pincnt = 0
          ∧ f.perm &&& 1 = 1 ∧ keyLoaded s f.key = true ∧ aget s.pageOps t.entry = none ∧ f.rcnt = e.2 ∧ (moveFrame s t.entry (some 1) false).isSome = true) ∧ Calm s := by
  intro e he
  simp only [List.mem_cons, List.not_mem_nil, or_false] at he
  obtain rfl | rfl | rfl := he <;>
    exact ⟨head_of (by decide), by decide, by decide, by decide, by decide, calm_of (by decide)⟩

/-- Dwords of memory after a record of the endpoint, and how many records are left. -/
def ranEp (i : Instr) (s : State) (l : List Nat) : Option (Nat × List Nat) :=
  match exec i s with
  | .next t => some ((queueRecs t e1).length, l.map (at0 t))
  | _ => none

/-- A fill puts byte X mod 8 of the pattern at X; a tile of two rows of four with a stride of eight at the destination; a
gather of element 0. -/
theorem test_engines : ∀ e ∈ ([(.efillRecord e1, epSys 0 [0x04000014, 0x10802, 0x0807060504030201], [0x10800], [0x0000060504030000]),
      (.ercpyRecord e1, epSys 0 [0x40002000013, 0x10600, 0x10800, 0x800000004], [0x10800, 0x10808], [0x04030201, 0x08070605]),
      (.egathRecord e1, epSys 1 [0x100000311, 0x10600, 0x10700, 0x10900], [0x10900], [0x0807060504030201])]
        : List (Instr × State × List Nat × List Nat)), ranEp e.1 e.2.1 e.2.2.1 = some (0, e.2.2.2) := by decide +kernel

/-! Contexts and keys (R79 to R93, R428). -/

/-- A command with ADDR and MASK, and the descriptor of context 5 at 0x10600, whose save area is a page at 0x20000. -/
def commanded (ty id addr mask : Nat) : State :=
  withPage (mem0 0x10600 [5 + 64 * 2 ^ 32, 0, 0x30000, 0x20000, 1] (sys [record [ty + id * 256, addr, mask]])) 5 0x20000 6

/-- A context in a state. -/
def withCtx (c : Nat) (st : CState) (s : State) : State :=
  { s with ctxs := aset s.ctxs c { st := st, saveBase := 0x20000, savePages := 1 } }

/-- Where a descriptor names no collectives, no table is read. -/
theorem no_table (x : Ctx) (h : x.collTab = 0 ∧ x.collN = 0) (t : State) : readTable t q0 5 x.collTab x.collN = (t, .ok []) := by
  rw [h.1, h.2]
  simp [readTable, engReadSpan, show pieces 0 0 = [] from rfl]

theorem witness_defines :
    let s := commanded 0x20 5 0x10600 0
    Command s q0 0x20 128 false (top s q0) [] ∧ Calm s ∧ AgentReaches s q0 0 0x10600 128 false (trOf s 0 0x10600) ∧ ahas s.ctxs 5 = false
      ∧ descOk (dwordsAt s (trOf s 0 0x10600) 16) 5 = true ∧ keyLoaded s (ctxOfDesc (dwordsAt s (trOf s 0 0x10600) 16)).keySlot = true
      ∧ (∀ t, (let x := ctxOfDesc (dwordsAt s (trOf s 0 0x10600) 16)
          readTable t q0 5 x.collTab x.collN) = (t, .ok [])) ∧ (saveFrames s 5 0x20000 1).isSome = true
      ∧ overBudget s (ctxOfDesc (dwordsAt s (trOf s 0 0x10600) 16)) = false :=
  ⟨⟨head_of (by decide), rfl, rfl⟩, calm_of (by decide +kernel), agent_of (by decide +kernel) q0, by decide, by decide +kernel, by decide +kernel, fun t => no_table _ (by decide +kernel) t,
    by decide +kernel, by decide +kernel⟩

/-- A context that is there already, one whose descriptor names another, one with an empty key slot, and one without its save area. -/
theorem witness_define_refusals :
    (ahas (withCtx 5 .defined (commanded 0x20 5 0x10600 0)).ctxs 5 = true)
    ∧ (descOk (dwordsAt (commanded 0x20 4 0x10600 0) (trOf (sys []) 0 0x10600) 16) 4 = false)
    ∧ (let s := mem0 0x10600 [5 + 64 * 2 ^ 32 + 3 * 4096, 0, 0x30000, 0x20000, 1] (commanded 0x20 5 0x10600 0)
       descOk (dwordsAt s (trOf s 0 0x10600) 16) 5 = true ∧ aget s.keys (ctxOfDesc (dwordsAt s (trOf s 0 0x10600) 16)).keySlot = none)
    ∧ saveFrames (commanded 0x20 5 0x10600 0) 5 0x20000 2 = none := by decide +kernel

theorem witness_ctx_update : let s := withCtx 5 .resident (commanded 0x21 5 0x10600 5)
    Command s q0 0x21 128 true (top s q0) [] ∧ Calm s ∧ AgentReaches s q0 0 0x10600 128 false (trOf s 0 0x10600)
      ∧ (aget s.ctxs 5).map Ctx.st = some .resident ∧ bits (dwd (top s q0).dw 2) 2 0 = 5 ∧ (5 : Nat) ≠ queueCtx s q0
      ∧ descOk (dwordsAt s (trOf s 0 0x10600) 16) 5 = true :=
  ⟨⟨head_of (by decide), rfl, rfl⟩, calm_of (by decide +kernel), agent_of (by decide +kernel) q0, by decide, by decide, by decide, by decide +kernel⟩

theorem witness_key_install : let s := commanded 0x25 5 0x10600 0
    Command s q0 0x25 64 false (top s q0) [] ∧ Calm s ∧ AgentReaches s q0 0 0x10600 64 false (trOf s 0 0x10600) ∧ aget s.keys 5 = none :=
  ⟨⟨head_of (by decide), rfl, rfl⟩, calm_of (by decide +kernel), agent_of (by decide +kernel) q0, by decide⟩

/-- CTX_SUSPEND and CTX_RESUME of a context that is not there, DEFINED, WIPING and RESIDENT. -/
theorem witness_suspend : ∀ ty ∈ [0x22, 0x23], (let s := commanded ty 5 0 0
      Command s q0 ty 0 false (top s q0) [] ∧ (top s q0).work = 0 ∧ aget s.ctxs 5 = none)
    ∧ ∀ st ∈ [CState.defined, .wiping, .saving, .resident], let s := withCtx 5 st (commanded ty 5 0 0)
      Command s q0 ty 0 false (top s q0) [] ∧ (aget s.ctxs 5).map Ctx.st = some st ∧ ∀ e ∈ s.blocks, e.2.ctx ≠ 5 := by
  intro ty h
  simp only [List.mem_cons, List.not_mem_nil, or_false] at h
  obtain rfl | rfl := h <;> refine ⟨⟨⟨head_of (by decide), rfl, rfl⟩, rfl, rfl⟩, fun st hs => ?_⟩ <;>
    simp only [List.mem_cons, List.not_mem_nil, or_false] at hs <;> obtain rfl | rfl | rfl | rfl := hs <;>
    exact ⟨⟨head_of (by decide), rfl, rfl⟩, rfl, by decide⟩

/-- A block of a RESIDENT context whose save area holds no block. -/
theorem witness_no_slot : let s := { withCtx 5 .resident (commanded 0x22 5 0 0) with blocks := [(9, { bootBlock State.reset 5 with vregs := 16, groups := 32 })] }
    Command s q0 0x22 0 false (top s q0) [] ∧ (assignSlots (startHead s q0) 5 (placedBlocks (startHead s q0) 5)).isNone = true :=
  ⟨⟨head_of (by decide), rfl, rfl⟩, by decide +kernel⟩

/-- CTX_DESTROY of a context that is not there, of one that is idle, and its end; KEY_RETIRE of a slot in use and of one not in use. -/
theorem witness_destroys :
    (let s := commanded 0x24 5 0 0
     Head s q0 0x24 (fun r => cmdOk r 0 false) (top s q0) [] ∧ (top s q0).work = 0 ∧ (top s q0).started = none ∧ aget s.ctxs 5 = none)
    ∧ (let s := withCtx 6 .resident (commanded 0x24 6 0 0)
       Head s q0 0x24 (fun r => cmdOk r 0 false) (top s q0) [] ∧ (aget s.ctxs 6).map Ctx.st = some .resident ∧ Idle s 6 ∧ queueCtx s q0 ≠ 6)
    ∧ (let s := sys [{ record [0x24 + 5 * 256] with work := 1, started := some 0 }]
       Head s q0 0x24 (fun r => cmdOk r 0 false) (top s q0) [] ∧ aget s.ctxs 5 = none)
    ∧ ∀ n ∈ [0, 3], let s := { withCtx 5 .resident (commanded 0x26 3 0 0) with keys := [(0, ⟨false, []⟩), (3, ⟨false, []⟩)], ctxs := [(0, { Ctx.system with keySlot := n })] }
      Head s q0 0x26 (fun r => cmdOk r 0 false) (top s q0) [] ∧ (aget s.keys 3).map KeySlot.retiring = some false
        ∧ ((∃ x ∈ (startHead s q0).ctxs, x.2.keySlot = 3) ↔ n = 3) := by
  refine ⟨⟨head_of (by decide), rfl, rfl, rfl⟩, ⟨head_of (by decide), rfl, ⟨by decide, by decide, by decide, by decide, by decide, rfl⟩, by decide⟩,
    ⟨head_of (by decide), rfl⟩, fun n hn => ?_⟩
  simp only [List.mem_cons, List.not_mem_nil, or_false] at hn
  obtain rfl | rfl := hn <;> exact ⟨head_of (by decide), rfl, by decide⟩

/-- A context after a command: its state, whether it is held, its handler. -/
def ctxAfter (i : Instr) (s : State) : Option (Option (CState × Bool × Nat)) :=
  match exec i s with
  | .next t => some ((aget t.ctxs 5).map fun x => (x.st, x.held, x.handler.toNat))
  | _ => none

theorem test_contexts : ∀ e ∈ ([(.ctxDefine q0, commanded 0x20 5 0x10600 0, some (.defined, false, 0x30000)),
      (.ctxUpdate q0, withCtx 5 .resident (commanded 0x21 5 0x10600 1), some (.resident, false, 0x30000)),
      (.ctxSuspend q0, withCtx 5 .defined (commanded 0x22 5 0 0), some (.defined, true, 0)),
      (.ctxDestroy q0, withCtx 5 .defined { commanded 0x24 5 0 0 with frames := [], anchors := [] }, some (.wiping, false, 0)),
      (.contextWipeComplete 5, withCtx 5 .wiping State.reset, none)] : List (Instr × State × Option (CState × Bool × Nat))),
    ctxAfter e.1 e.2.1 = some e.2.2 := by decide +kernel

/-- What f sees in the next state. -/
def seen {α : Type} (i : Instr) (s : State) (f : State → Option α) : Option α :=
  match exec i s with
  | .next t => f t
  | _ => none

/-! Queues from outside, and residency (R84, R85, R96, R97, R106, R107). -/

/-- QUEUE_CREATE of queue 3 of context c. -/
def creating (c : Nat) : State := sys [record [0x30 + c * 256 + 6 * 2 ^ 28 + 3 * 2 ^ 32, 0, 0, 0, 0, 0, 0, 0x10700]]

theorem witness_creates :
    (∀ c ∈ [0, 5], Head (creating c) q0 0x30 (adminOk true) (top (creating c) q0) [] ∧ aget (creating c).queues (adminKey q0 (top (creating c) q0)) = none
      ∧ ((aget (creating c).ctxs (bits (dwd (top (creating c) q0).dw 0) 19 8)).isSome = true ↔ c = 0))
    ∧ let s := { creating 0 with queues := aset (creating 0).queues 3 HostQ.zero }
      Head s q0 0x30 (adminOk true) (top s q0) [] ∧ (aget s.queues (adminKey q0 (top s q0))).isSome = true := by
  refine ⟨fun c h => ?_, head_of (by decide), by decide⟩
  simp only [List.mem_cons, List.not_mem_nil, or_false] at h
  obtain rfl | rfl := h <;> exact ⟨head_of (by decide), by decide, by decide⟩

/-- QUEUE_RESET or QUEUE_DESTROY of queue 3, which is halted and holds a record that has not started, or is not there. -/
def administering (destroy there : Bool) : State :=
  let s := sys [record [(if destroy then 0x32 else 0x31) + 3 * 2 ^ 32, 0, 0, 0, 0, 0, 0, 0x10700]]
  if there then { s with queues := aset s.queues 3 { HostQ.zero with halted := true, recs := [record [0x03, 0x10600, 5]] } } else s

theorem witness_resets : ∀ destroy there : Bool, let s := administering destroy there
    Head s q0 (if destroy then 0x32 else 0x31) (adminOk false) (top s q0) [] ∧ (top s q0).started = none ∧ (top s q0).work = 0
      ∧ q0 ≠ .host (portOf q0) (bits (dwd (top s q0).dw 0) 44 32)
      ∧ ((aget s.queues (adminKey q0 (top s q0))).map fun x => x.recs.all fun y => y.started.isNone) = if there then some true else none := by
  intro destroy there
  cases destroy <;> cases there <;> exact ⟨head_of (by decide), rfl, rfl, by decide, by decide⟩

/-- After reset, with both PCIe ports trained. -/
def hosted : State := { State.reset with pports := State.reset.pports.map fun p => { p with st := .up, width := 5 } }

/-- A write to queue 0's window: a port that is down, an open window with room, and a queue that is not there. -/
theorem witness_windows_written :
    ((State.reset.pports[2]?).isNone = true ∧ (State.reset.pports[0]?).map Port.st = some .down)
    ∧ (partOfPort hosted 0 ≠ none ∧ (hosted.pports[0]?).map Port.st = some .up ∧ hosted.resetUntil ≤ hosted.clock
      ∧ (aget hosted.queues 0).map (fun x => (x.halted, x.dying, x.recs.length, x.depth)) = some (false, false, 0, 256))
    ∧ aget hosted.queues 5 = none ∧ ¬{ hosted with resetUntil := 9 }.resetUntil ≤ hosted.clock := by decide

/-- The queue that is created; what becomes of queue 3; the record a write of 64 bytes appends, and a write that is dropped. -/
theorem test_queues :
    seen (.queueCreate q0) (creating 0) (fun t => (aget t.queues 3).map fun x => (x.depth, x.ctx, x.halted, at0 t 0x10700)) = some (64, 0, false, 2 ^ 63 + 7 * 256)
    ∧ seen (.queueReset q0) (administering false true) (fun t => (aget t.queues 3).map fun x => (x.recs.length, x.halted, at0 t 0x10700))
        = some (0, false, 2 ^ 63 + 7 * 256)
    ∧ seen (.queueDestroy q0) (administering true true) (fun t => some ((aget t.queues 3).isSome, at0 t 0x10700)) = some (false, 2 ^ 63 + 7 * 256)
    ∧ seen (.landingWrite 0 64 (2 :: List.replicate 63 0)) hosted (fun t => (aget t.queues 0).map fun x => (x.nextSeq, x.recs.map fun r => ((dwd r.dw 0).toNat, r.seq)))
        = some (1, [(2, 0)])
    ∧ (∀ s ∈ [hosted, { hosted with resetUntil := 9 }], seen (.landingWrite 0 0x5000 (List.replicate 64 0)) s (fun t => some (t.drops, t.log))
        = some ([(5, 1)], [.dropped 0 0x5000])) := by decide +kernel

/-- A DEFINED context 300 with a queue that holds a record; n contexts are resident beside context 0. -/
def waiting (n : Nat) : State :=
  { State.reset with
    ctxs := (0, Ctx.system) :: (List.range n).map (fun k => (k + 1, { st := .resident, served := 500 - k })) ++ [(300, { st := .defined })]
    queues := [(3, { HostQ.zero with ctx := 300, recs := [record [3]] })] }

theorem witness_residency :
    ((aget (waiting 2).ctxs 300).map (fun x => (x.st, x.held)) = some (.defined, false) ∧ hasWork (waiting 2) 300 = true ∧ evicting (waiting 2) 300 = false ∧ slotsUsed (waiting 2) < 256)
    ∧ (hasWork (waiting 255) 300 = true ∧ evicting (waiting 255) 300 = false ∧ 256 ≤ slotsUsed (waiting 255) ∧ idleVictim (waiting 255) = some 255 ∧ (aget (waiting 255).ctxs 255).isSome = true)
    ∧ (let s := withCtx 5 .loading State.reset
       (aget s.ctxs 5).map Ctx.st = some .loading ∧ ∀ e ∈ s.blocks, e.2.ctx = 5 → e.2.st ≠ .saved)
    ∧ (let s := withCtx 5 .resident State.reset
       (aget s.ctxs 5).map Ctx.st = some .resident ∧ (∀ q ∈ queuesOf s 5, queueRecs s q = []) ∧ (∀ e ∈ s.launches, e.2.ctx ≠ 5) ∧ ∀ e ∈ s.blocks, e.2.ctx ≠ 5)
    ∧ (let s := { withCtx 5 .resident State.reset with queues := [(3, { HostQ.zero with ctx := 5, halted := true, recs := [record [3]] })] }
       (aget s.ctxs 5).map Ctx.st = some .resident ∧ queuesOf s 5 ≠ [] ∧ (∀ q ∈ queuesOf s 5, queueRecs s q ≠ [] ∧ queueHalted s q = true)
        ∧ (∀ e ∈ s.launches, e.2.ctx ≠ 5) ∧ ∀ e ∈ s.blocks, e.2.ctx ≠ 5)
    ∧ ((aget (withCtx 5 .wiping State.reset).ctxs 5).map Ctx.st = some .wiping)
    ∧ (aget { State.reset with keys := [(3, ⟨true, []⟩)] }.keys 3).map KeySlot.retiring = some true := by decide +kernel

theorem witness_wiped : Idle (withCtx 5 .wiping State.reset) 5 ∧ Calm { State.reset with keys := [(3, ⟨true, []⟩)] } :=
  ⟨⟨by decide, by decide, by decide, by decide, by decide, rfl⟩, calm_of (by decide)⟩

/-- States of contexts 5, 255 and 300 after. -/
def statesAfter (i : Instr) (s : State) : Option (List (Option CState)) :=
  match exec i s with
  | .next t => some ([5, 255, 300].map fun c => (aget t.ctxs c).map Ctx.st)
  | _ => none

theorem test_residency : ∀ e ∈ ([(.contextLoad 300, waiting 2, [none, none, some .loading]), (.contextLoad 300, waiting 255, [some .resident, some .defined, some .loading]),
      (.contextLoadComplete 5, withCtx 5 .loading State.reset, [some .resident, none, none]), (.contextIdleRelease 5, withCtx 5 .resident State.reset, [some .defined, none, none])]
        : List (Instr × State × List (Option CState))), statesAfter e.1 e.2.1 = some e.2.2 := by decide +kernel

/-! Launches and blocks (R116 to R132). -/

/-- A launch record of a kernel of 1 by 1 by 1 blocks, its header at 0x10400. -/
def launchRec (health : Health) : State :=
  { sys [record [0x01, 0x10400 / 256, 1 + 2 ^ 32 + 2 ^ 48, 0, 0, 0, 0, 0x10700]] with health := health }

theorem witness_launch_records : ∀ h ∈ [Health.nominal, .failed],
    Head (launchRec h) q0 0x01 launchOk (top (launchRec h) q0) [] ∧ (top (launchRec h) q0).started = none := by
  intro h hh
  simp only [List.mem_cons, List.not_mem_nil, or_false] at hh
  obtain rfl | rfl := hh <;> exact ⟨head_of (by decide), rfl⟩

/-- An early launch with its class, whose predecessor runs; and a launch that waits for this very record. -/
theorem witness_producers :
    (let s := { sys [record [0x01, 0x10400 / 256 + 0x000F * 2 ^ 48, 1 + 2 ^ 32 + 2 ^ 48, 0, 0, 0, 0, 0x10700]] with
        nextId := 4, launches := [(3, { bootLaunch State.reset 0 with detached := false, queue := q0, seq := 6 })] }
     Head s q0 0x01 launchOk (top s q0) [] ∧ (top s q0).started = none ∧ bits (dwd (top s q0).dw 1) 51 50 = 3
       ∧ (∃ y ∈ s.launches, y.2.queue = q0 ∧ y.2.detached = false ∧ y.2.seq + 1 = (top s q0).seq))
    ∧ let s := { launchRec .nominal with nextId := 4, launches := [(3, { bootLaunch State.reset 0 with st := .waiting, queuedProd := [(q0, 7)] })] }
      Head s q0 0x01 launchOk (top s q0) [] ∧ (top s q0).started = none ∧ ∃ y ∈ aget s.launches 3, (q0, (top s q0).seq) ∈ y.queuedProd :=
  ⟨⟨head_of (by decide), by decide⟩, head_of (by decide), by decide⟩

/-- A launch of context 0 that is WAITING with a dependence at 0x10300, whose header's dwords are given. -/
def entering (dep : Nat) (h : List Nat) (m : Nat) : State :=
  let s := mem0 0x10300 [dep] (mem0 0x10400 h (sys []))
  { s with launches := [(2, { bootLaunch s 0 with
      st := .waiting, detached := false, event := 0x10700, hdr := none, hdrAt := 0x10400, deps := [0x10300, 0, 0, 0], gx := m })] }

/-- The header's dwords: code at 0x10000, clusters of n, 3 vector registers a group, PINNED or not, one group, 16 KB. -/
def header (n pinned kb : Nat) : List Nat := [0x10000, pinned * 2 ^ 61 + n * 2 ^ 56 + kb * 2 ^ 32 + 3 * 2 ^ 8 + 1]

/-- A header of 16 groups of 16 registers, which no core holds. -/
def wideHeader : List Nat := [0x10000, 2 ^ 56 + 16 * 2 ^ 32 + 16 * 2 ^ 8 + 16]

/-- Dependence met with a good header, failed, and not met; an ill-formed header, a grid that clusters do not divide, another
spilling mode, and more than a core has. -/
theorem witness_leaving : ∀ e ∈ ([(2 ^ 63, header 1 0 16, 1), (2 ^ 63 + 5, header 1 0 16, 1), (0, header 1 0 16, 1), (2 ^ 63, header 0 0 16, 1), (2 ^ 63, header 2 0 16, 1),
      (2 ^ 63, header 1 1 16, 1), (2 ^ 63, wideHeader, 1)] : List (Nat × List Nat × Nat)),
    let s := entering e.1 e.2.1 e.2.2
    ∃ l ∈ aget s.launches 2, l.st = .waiting ∧ (ctxOf s l.ctx).st = .resident ∧ calmB s = true ∧ agentB s 0 0x10300 8 false (trOf s 0 0x10300) = true
      ∧ agentB s 0 0x10400 256 false (trOf s 0 0x10400) = true ∧ (∀ x ∈ s.launches, x.2.queue = l.queue → l.seq ≤ x.2.seq)
      ∧ dwordsAt s (trOf s 0 0x10400) 2 = e.2.1.map dw := by
  intro e he
  simp only [List.mem_cons, List.not_mem_nil, or_false] at he
  obtain rfl | rfl | rfl | rfl | rfl | rfl | rfl := he <;> exact by decide +kernel

/-- The launch, not early, with an earlier one of its queue that still runs; and, early, with a producer that waits. -/
def behind (dep : Nat) (early : Bool) : State :=
  let s := entering dep (header 1 0 16) 1
  { s with launches := (1, { bootLaunch s 0 with st := if early then .waiting else .running, detached := false, seq := 4 }) ::
      s.launches.map fun e => (e.1, { e.2 with seq := 5, early := early, producers := if early then [1] else [] }) }

/-- Dependences met and failed of a launch that is not first; and a dependence not met that a producer will meet. -/
theorem witness_behind : (∀ e ∈ ([(2 ^ 63, false), (2 ^ 63, true), (2 ^ 63 + 5, false), (2 ^ 63 + 5, true)] : List (Nat × Bool)), let s := behind e.1 e.2
      ∃ l ∈ aget s.launches 2, l.st = .waiting ∧ l.early = e.2 ∧ (ctxOf s l.ctx).st = .resident ∧ calmB s = true
        ∧ agentB s 0 0x10300 8 false (trOf s 0 0x10300) = true ∧ agentB s 0 0x10400 256 false (trOf s 0 0x10400) = true
        ∧ ((∃ x ∈ s.launches, x.2.queue = l.queue ∧ x.2.detached = false ∧ x.2.seq < l.seq) ∧ ∃ x ∈ aget s.launches 1, x.st = .waiting ↔ e.2))
    ∧ let s := { entering 0 (header 1 0 16) 1 with launches := (entering 0 (header 1 0 16) 1).launches.map fun e => (e.1, { e.2 with prodDeps := [0], early := true }) }
      ∃ l ∈ aget s.launches 2, l.st = .waiting ∧ l.queuedProd = [] ∧ l.producers = [] ∧ 0 ∈ l.prodDeps ∧ numAt s (trOf s 0 0x10300).key (trOf s 0 0x10300).pa 8 = 0 := by
  refine ⟨fun e he => ?_, by decide +kernel⟩
  simp only [List.mem_cons, List.not_mem_nil, or_false] at he
  obtain rfl | rfl | rfl | rfl := he <;> exact by decide +kernel

theorem witness_leaving_reaches : let s := entering (2 ^ 63) (header 1 0 16) 1
    Calm s ∧ AgentReaches s q0 0 0x10300 8 false (trOf s 0 0x10300) ∧ AgentReaches s q0 0 0x10400 256 false (trOf s 0 0x10400) :=
  ⟨calm_of (by decide +kernel), agent_of (by decide +kernel) q0, agent_of (by decide +kernel) q0⟩

/-- Launch 2 after an event: its state, or the completion dword of one that has ended. -/
def launchAfter (i : Instr) (s : State) : Option (Option LState × Nat) :=
  match exec i s with
  | .next t => some ((aget t.launches 2).map Launch.st, at0 t 0x10700)
  | _ => none

theorem test_leaving : ∀ e ∈ ([(2 ^ 63, header 1 0 16, some .placing, 0), (2 ^ 63 + 5, header 1 0 16, none, 2 ^ 63 + 5), (0, header 1 0 16, some .waiting, 0),
      (2 ^ 63, header 0 0 16, none, 2 ^ 63 + 0x80), (2 ^ 63, header 2 0 16, none, 2 ^ 63 + 0x80), (2 ^ 63, header 1 1 16, none, 2 ^ 63 + 1), (2 ^ 63, wideHeader, none, 2 ^ 63 + 2)]
        : List (Nat × List Nat × Option LState × Nat)), launchAfter (.leaveWaiting 2) (entering e.1 e.2.1 1) = some e.2.2 := by decide +kernel

/-- No bay has a core left. -/
theorem witness_no_bay : let s := { entering (2 ^ 63) (header 1 0 16) 1 with ltp := List.replicate 144 255 }
    hasBay s (queuePart s q0) 1 = false ∧ calmB s = true ∧ agentB s 0 0x10300 8 false (trOf s 0 0x10300) = true
      ∧ agentB s 0 0x10400 256 false (trOf s 0 0x10400) = true ∧ launchAfter (.leaveWaiting 2) s = some (none, 2 ^ 63 + 3) := by decide +kernel

/-- A launch of context 0 that is PLACING a cluster of two blocks. -/
def placing : State :=
  { State.reset with
    nextId := 10
    launches := [(2, { bootLaunch State.reset 0 with st := .placing, gx := 2, nextClu := 0, args := 0x1234, hdr := some { bootHeader with csize := 2 } })] }

theorem witness_placement : (∃ l, (placeOrder placing 0 = (2, l) :: [] ∧ aget placing.launches 2 = some l) ∧ (∃ h ∈ l.hdr, h.groups ≤ 32 ∧ (findSpot placing 0 l h.csize true).isSome = true)
      ∧ savedClusters placing 2 = [] ∧ l.hasNew = true ∧ (∀ e ∈ placing.launches, e.2.over = false) ∧ l.retired = 0)
    ∧ ∃ l ∈ aget placing.launches 2, mayPlace placing 2 l = true ∧ l.starved = false ∧ floorRefused placing 2 l = false :=
  ⟨⟨agetD placing.launches 2 (bootLaunch State.reset 0), by decide +kernel⟩, by decide +kernel⟩

/-- An early launch whose producer's blocks take a core each, and wait, in a module with four cores; its floor is every core (R126). -/
theorem witness_floor :
    let s := { placing with
      launches := [(1, { bootLaunch State.reset 0 with st := .placing, gx := 1000, nextClu := 0, hdr := some { bootHeader with spadKB := 384 } }),
        (2, { bootLaunch State.reset 0 with st := .placing, early := true, floor := 255, producers := [1], nextClu := 0, order := 9 })]
      ltp := State.reset.ltp.take 4 ++ List.replicate 140 255 }
    ∃ l ∈ aget s.launches 2, mayPlace s 2 l = true ∧ l.starved = false ∧ floorRefused s 2 l = true := by decide +kernel

/-- Two blocks with ranks 0 and 1 in one cluster, their groups at the code with the arguments in s0 and the block in s1. -/
theorem test_placement : seen (.clusterPlacement 0) placing (fun t => some (t.blocks.map fun e => [e.2.rank, e.2.id, e.2.slot])) = some [[0, 0, 0], [1, 1, 0]]
    ∧ seen (.clusterPlacement 0) placing (fun t => some (t.groups.map fun e => [e.2.pc, e.2.readSn 0, e.2.readSn 1])) = some [[0x10000, 0x1234, 0], [0x10000, 0x1234, 1]]
    ∧ seen (.clusterPlacement 0) placing (fun t => some (t.launches.map fun e => e.2.st)) = some [.running] := by decide +kernel

/-! Groups without an instruction (R65, R77, R90, R150, R170, R174, R178, R182, R274). -/

/-- The placed group, changed, and the state it stands in. -/
def stood (f : Group → Group) : State := ready .nop f

theorem witness_timers :
    (∃ g ∈ aget (stood fun g => { g with st := .blocked, wait := some (.sleep (.s 1), .sleep 50) }).groups 96, g.wait = some (.sleep (.s 1), .sleep 50))
    ∧ (∃ g ∈ aget (stood fun g => { g with nopre := some 7 }).groups 96, g.nopre = some 7 ∧ g.st ≠ .exited ∧ g.st ≠ .halted ∧ g.st ≠ .saved ∧ g.inh = false)
    ∧ (ctxOf (withC (fun c => { c with handler := 0x20000 }) (stood id)) 1).handler ≠ 0
    ∧ (ctxOf (stood id) 1).handler = 0
    ∧ (let s := stood fun g => { g with nopre := some 7, inh := true }
       let s := { s with groups := s.groups ++ [(97, noOne)] }
       (∃ g ∈ aget s.groups 96, g.inh = true ∧ g.blk = 3) ∧ ∃ x ∈ aget (amod s.groups 97 fun g => { g with blk := 3 }) 97, x.blk = 3 ∧ x.ended = false)
    ∧ (∃ g ∈ aget (stood fun g => { g with nopre := some 7, st := .saved }).groups 96, g.nopre = some 7 ∧ g.st = .saved)
    ∧ (∃ g ∈ aget (stood fun g => { g with st := .blocked, stalled := true, held := some (.fenceRel 1 .sys), fenceAt := some 3 }).groups 96, g.fenceAt = some 3
        ∧ g.held = some (.fenceRel 1 .sys))
    ∧ ∀ pd ∈ [1, 15], let s := { withC (fun c => { c with handler := 0x20000 }) (stood fun g => { g with st := .blocked, stalled := true, held := some (.fenceRel pd .sys), fenceAt := some 3 }) with posted := [unacked] }
      ∃ g ∈ aget s.groups 96, g.fenceAt = some 3 ∧ g.inh = false ∧ ((s.posted.filter fun w => w.grp == 96) ≠ [])
        ∧ ∃ b ∈ aget s.blocks g.blk, (ctxOf s b.ctx).handler ≠ 0 := by decide

/-- A WAITM that waits for the dword of `watch` to differ from 5 until clock 99; whether a store has changed it. -/
def watching (n : Nat) (met : Bool) : State :=
  let s := watch n
  { s with groups := amod s.groups 96 fun g => { g with st := .blocked, wait := some (.waitm 1 .sys (.s 1) (.s 2), .mem (some 99) met) } }

theorem witness_waitm_met (n : Nat) (met : Bool) (h : n = 5 ∨ n = 6) : let s := watching n met
    ∃ g b, aget s.groups 96 = some g ∧ aget s.blocks g.blk = some b ∧ Calm s
      ∧ g.wait = some (.waitm 1 .sys (.s 1) (.s 2), .mem (some 99) met)
      ∧ Reaches s b .load 8 (dw (bits (g.readS (.s 1)) 55 0)) (trOf s 1 0x10200)
      ∧ Answers s (trOf s 1 0x10200).pa evGets ∧ (g.readS (.s 2)).toNat = n := by
  refine ⟨agetD (watching n met).groups 96 noOne, agetD (watching n met).blocks 3 (bootBlock State.reset 1), ?_⟩
  obtain rfl | rfl := h <;> cases met <;>
    exact ⟨by decide, by decide, calm_of (by decide +kernel), by decide, reaches_of (by rfl) (by decide +kernel), answers_of (by decide +kernel) _, by decide⟩

/-- The group after an event: state, pc and predicate 1 of lane 0. -/
def groupAfter (i : Instr) (s : State) : Option (GState × Nat × Nat) :=
  match exec i s with
  | .next t => (aget t.groups 96).map fun g => (g.st, g.pc.toNat, (g.readP 1 0).toNat)
  | _ => none

theorem test_timers : ∀ e ∈ ([(.sleepExpiry 96, stood fun g => { g with st := .blocked, wait := some (.sleep (.s 1), .sleep 50) }, .running, 0x10004, 0),
      (.waitmMet 96, watching 6 false, .running, 0x10004, 0xFF), (.waitmMet 96, watching 5 false, .blocked, 0x10000, 0), (.waitmMet 96, watching 5 true, .running, 0x10004, 0xFF), (.waitmTimeout 96, watching 5 false, .running, 0x10004, 0),
      (.nopreTimeout 96, withC (fun c => { c with handler := 0x20000 }) (stood fun g => { g with nopre := some 7 }), .running, 0x20000, 0),
      (.systemFenceTimeout 96, stood fun g => { g with st := .blocked, stalled := true, held := some (.fenceRel 1 .sys), fenceAt := some 3 }, .running, 0x10004, 0xFF)]
        : List (Instr × State × GState × Nat × Nat)), groupAfter e.1 e.2.1 = some e.2.2 := by decide +kernel

/-- An LA with a carry; an update buffered in a line; a pending result; a write to a peer. -/
def carried : State := withB (fun b => { b with las := [(0, { car := [1, 0, 0, 0, 0, 0, 0, 0, 0] })] }) (stood id)
def buffered : State :=
  let s := put 0x10200 [5] (stood id)
  { s with upd := [⟨96, 0, (trOf s 1 0x10200).key, (trOf s 1 0x10200).pa, 8, .add, 3, none, none, false, false⟩] }
def pending : State := stood fun g => { g with pend := [⟨0x8000, 2, false, [1], [], [], [], [(32, 7)], [], [], []⟩] }

/-- A write to module 1, whose one plane is in a state. -/
def toPeer : Posted := ⟨96, 0, 1, 2 ^ 51 + 2 ^ 39, [1], 0⟩
def reaching (st : LinkSt) : State :=
  { State.reset with posted := [toPeer], reach := [(18, 2)], uports := [⟨st, 5, false, 0, 0, true, 0, 0, 0⟩] }

theorem witness_landings :
    (∃ b ∈ aget carried.blocks 3, b.st = .placed ∧ ahas b.las 0 = true)
    ∧ (∃ u, buffered.upd = [] ++ u :: [] ∧ u.pa / 128 = (trOf buffered 1 0x10200).pa / 128 ∧ u.cell = none ∧ u.note = none ∧ u.bad = false ∧ u.size = 8
        ∧ u.pa % u.size = 0 ∧ paKind u.pa = .hbm ∧ wayTo buffered (partOfDie buffered (u.core / 40)) u.pa = .free
        ∧ inError buffered u.pa u.size = false ∧ inTables u.pa = false ∧ answersB buffered evPutm = true ∧ calmB { buffered with upd := [], posted := [] } = true)
    ∧ (∃ g ∈ aget pending.groups 96, ∃ p ∈ g.pend[0]?, p.landed = false ∧ p.left ≠ 0 ∧ (∀ x ∈ g.pend, x.landed = true → x.left ≠ 0)
        ∧ aRising p.vw = true ∧ aRising p.sw = true ∧ aRising p.pw = true)
    ∧ ∀ st ∈ [LinkSt.up, .retraining, .down], let s := reaching st
      s.posted = [] ++ toPeer :: [] ∧ toPeer.peer = 1 ∧ 2 ^ 39 ≤ toPeer.pa ∧ (wayTo s toPeer.part toPeer.pa = .free ↔ st = .up) :=
  ⟨by decide, ⟨_, rfl, by decide +kernel⟩, by decide, by decide⟩

theorem witness_line_eviction : Calm { buffered with upd := [], posted := [] } ∧ ∀ pa, Takes buffered pa evPutm :=
  ⟨calm_of (by decide +kernel), takes_of (by decide +kernel)⟩

/-- A request to pre-empt the block at clock 4, its group running or in NOPRE; and all its groups saved in a SAVING context. -/
def preempted (np : Bool) : State :=
  withB (fun b => { b with pre := some 4, saveAt := some (0, 4096), vregs := 1, lapl := 0, spadKB := 0 }) (stood fun g => { g with nopre := if np then some 2 else none })
def quiet : State :=
  withC (fun c => { c with st := .saving, why := .suspend }) (withB (fun b => { b with pre := some 4, saveAt := some (0, 4096), vregs := 1, lapl := 0, spadKB := 0 }) (stood fun g => { g with st := .saved, kind := .dump }))

theorem witness_saves :
    (∀ np : Bool, ∃ g ∈ aget (preempted np).groups 96, ∃ b ∈ aget (preempted np).blocks g.blk, b.pre = some 4
      ∧ ((g.st = .running ∧ g.nopre = none ∧ g.fenceAt = none ∧ g.inRoutine = false) ↔ np = false))
    ∧ ∃ x ∈ aget quiet.blocks 3, x.pre.isSome = true ∧ x.st = .placed ∧ blockQuiet quiet 3 = true ∧ quiet.draining = [] ∧ x.regions = []
      ∧ (aget quiet.ctxs x.ctx).map Ctx.st = some .saving ∧ aRising quiet.blocks = true
      ∧ ∀ e ∈ quiet.blocks, e.1 ≠ 3 → e.2.ctx ≠ x.ctx ∨ e.2.st = .saved := by decide

theorem test_landings :
    seen (.carrySweep 3 0 0) carried (fun t => (aget t.blocks 3).map fun b => ((agetD b.las 0 LA.zero).n, (agetD b.las 0 LA.zero).car))
        = some (2 ^ 64, List.replicate 9 0)
    ∧ seen (.updateLineEviction (trOf buffered 1 0x10200).key (trOf buffered 1 0x10200).pa) buffered
        (fun t => some (t.upd.length, numAt t (trOf t 1 0x10200).key (trOf t 1 0x10200).pa 8)) = some (0, 8)
    ∧ seen (.pendingResultComplete 96 0) pending (fun t => (aget t.groups 96).map fun g => ((g.readV 1 0).toNat, g.pend.map Pend.landed)) = some (7, [true]) := by
  decide +kernel

theorem test_saves : seen (.blockSave 3) quiet (fun t => (aget t.blocks 3).map fun b => (b.st, (aget t.ctxs 1).map fun c => (c.st, c.held)))
    = some (.saved, some (.defined, true)) := by decide +kernel

/-! Coherence (R202 to R216). -/

/-- A request for n words of the second quarter of a line, by requester 3. -/
abbrev req (n : Nat) : CohReq := ⟨0, 0x50000, 8, n, 3, .none⟩

/-- The quarter in a state of table INV, which requester 3 holds. -/
def quarter (st : Nat) (staged : Option (Nat × CohReq)) : State :=
  setDir State.reset 0 0x50020 { st := st, holders := 8, owner := if st = 4 then some 3 else none, staged := staged }

/-- The same under the protocol of slot pid. -/
def under (pid st : Nat) : State := { quarter st none with rmap := [(1, ⟨5, 1, pid⟩)] }

/-- Each request meets an entry that moves the quarter on: an eviction of what nobody else holds is taken as PUTL. -/
theorem witness_requests : ∀ e ∈ ([(.gets (req 8), 0, 0, req 8), (.getx (req 1), 1, 1, req 1), (.upgr (req 8), 2, 2, req 8), (.puts (req 1), 3, 4, req 1),
    (.putl (req 8), 4, 4, req 8), (.putx (req 1), 5, 4, req 1), (.wthr (req 8), 6, 6, req 8), (.atomRequest (req 2), 7, 7, req 2), (.getm (req 8), 8, 8, req 8),
    (.putm (req 8), 9, 9, req 8), (.iack (req 1), 10, 10, req 1), (.fack (req 1), 11, 11, req 1), (.recl (req 8), 12, 12, req 8), (.flsh (req 8), 13, 13, req 8),
    (.ncrd (req 8), 14, 14, req 8), (.ncwr (req 8), 15, 15, req 8)] : List (Instr × Nat × Nat × CohReq)),
    let s := State.reset
    let r := e.2.2.2
    let x := CohTable.at (protoTable s 0x50020) (dirAt s r.key 0x50020).st e.2.2.1
    requests e.1 = some (e.2.1, r) ∧ OneQuarter r 0x50020 ∧ Classified s r 0x50020 e.2.1 e.2.2.1 ∧ (14 ≤ e.2.1 → HostQuiet s r e.2.1)
      ∧ x.has 22 = false ∧ x.has 25 = false ∧ (protoTable s 0x50020).isStable x.next = true
      ∧ (dirAt s r.key 0x50020).staged = none ∧ (dirAt s r.key 0x50020).held = [] := by
  intro e he
  simp only [List.mem_cons, List.not_mem_nil, or_false] at he
  obtain rfl | rfl | rfl | rfl | rfl | rfl | rfl | rfl | rfl | rfl | rfl | rfl | rfl | rfl | rfl | rfl := he <;>
    exact ⟨rfl, ⟨by decide, by decide, by decide⟩, ⟨by decide, by decide, by decide, by decide⟩, fun _ => ⟨by decide, fun _ => ⟨by decide, by decide⟩, by decide, by decide, fun _ => by decide⟩,
      by decide, by decide, by decide, by decide, by decide⟩

/-- An eviction of an owner's dirty quarter, and of a reader's, where another holds it too; an integer update under ACCUM. -/
theorem witness_classified : (let s := setDir State.reset 0 0x50020 { st := 3, holders := 24, owner := some 3 }
      Classified s { req 8 with load := .bytes [1] } 0x50020 3 5 ∧ Classified s (req 8) 0x50020 5 3)
    ∧ Classified (under 4 0) { req 2 with load := .atomic .add true 5 0 } 0x50020 8 7 :=
  ⟨⟨⟨by decide, by decide, by decide, by decide⟩, ⟨by decide, by decide, by decide, by decide⟩⟩, ⟨by decide, by decide, by decide, by decide⟩⟩

/-- WAIT while invalidations are out; ERR of a store and of a host's write under WONCE; a write-through that has to wait for
invalidations, and one that is taken once an acknowledgement of its own has come (U of ACCUM); and the last acknowledgement. -/
theorem witness_request_cases :
    (CohTable.at (protoTable (quarter 5 none) 0x50020) (dirAt (quarter 5 none) 0 0x50020).st 0).has 22 = true
    ∧ (∀ ev ∈ [6, 15], let e := CohTable.at (protoTable (under 3 1) 0x50020) (dirAt (under 3 1) 0 0x50020).st ev
      e.has 25 = true ∧ e.has 22 = false ∧ (protoTable (under 3 1) 0x50020).isStable e.next = true)
    ∧ ((protoTable (quarter 1 none) 0x50020).isStable (CohTable.at (protoTable (quarter 1 none) 0x50020) (dirAt (quarter 1 none) 0 0x50020).st 6).next = false)
    ∧ ∀ c ∈ [6, 15, 22], let s := quarter 5 (some (c, req 8))
      let t := protoTable s 0x50020
      let e := CohTable.at t (dirAt s 0 0x50020).st 10
      let e2 := CohTable.at t e.next (c % 16)
      t.isStable (dirAt s 0 0x50020).st = false ∧ (dirAt s 0 0x50020).staged = some (c, req 8) ∧ (dirAt s 0 0x50020).held = []
        ∧ e.has 22 = false ∧ e.has 25 = false ∧ e.has 24 = true ∧ e.acks = [] ∧ t.isStable e.next = true ∧ movesData e = false
        ∧ e2.has 22 = false ∧ e2.has 25 = false ∧ e2.has 18 = false ∧ t.isStable e2.next = true := by decide

/-- A write-through over two quarters, and requests that are not well-formed or not for HBM. -/
theorem witness_wide_request : let r : CohReq := ⟨0, 0x50000, 7, 2, 3, .bytes [1, 2, 3, 4, 5, 6, 7, 8]⟩
    Calm State.reset ∧ Takes State.reset (r.line + 4 * r.word) evWthr ∧ paKind (r.line + 4 * r.word) = .hbm ∧ (r.line + 28) / 32 ≠ (r.line + 35) / 32
      ∧ inError State.reset (r.line + 28) 8 = false ∧ (∀ i < 8, inTables (r.line + 28 + i) = false)
      ∧ ¬(1 ≤ (req 0).len) ∧ paKind ({ req 8 with line := 2 ^ 48 }.line + 4 * 8) ≠ .hbm := ⟨calm_of (by decide), takes_of (by decide) _, by decide⟩

/-- A host's access to an observed page whose book is full; and its read of poison. -/
theorem witness_host_waits :
    (let s := withF (fun f => { f with observed := true }) { sys [] with
        ctxs := amod (sys []).ctxs 0 fun c => { c with obs := true }
        books := [(0, { arm := true, pages := 1, head := 65536 })] }
     (∀ e ∈ s.dir, e.2.ncwrWaits = false) ∧ pageLogged s 0x50020 = some 0 ∧ bookFull s 0 (agentPieces 32 0x50020 32).length = true)
    ∧ let s := { State.reset with bad := [(0x50020, 1)] }
      (∀ e ∈ s.dir, e.2.ncwrWaits = false) ∧ pageLogged s 0x50020 = none ∧ cohReqOk (req 8) = true ∧ inError s 0x50020 32 = true := by decide +kernel

/-- From the table INV (R213): GETS of an idle quarter takes it to E with the requester as holder, its eviction gives it back,
and the last acknowledgement lets a staged write through. From WONCE: a second write is counted, a host's aborted (R211). -/
theorem test_requests : seen (.gets (req 8)) State.reset (fun t => some ((dirAt t 0 0x50020).st, (dirAt t 0 0x50020).holders)) = some (2, 8)
    ∧ seen (.puts (req 8)) (quarter 2 none) (fun t => some ((dirAt t 0 0x50020).st, (dirAt t 0 0x50020).holders)) = some (0, 0)
    ∧ seen (.wthr (req 8)) (under 3 1) (fun t => some ((dirAt t 0 0x50020).st, t.cohErrs)) = some (1, [(0, 1)])
    ∧ seen (.ncwr (req 8)) (under 3 1) (fun t => some (t.cohErrs, t.ncOut)) = some ([], [none])
    ∧ seen (.iack (req 1)) (quarter 5 (some (6, req 8))) (fun t => some ((dirAt t 0 0x50020).st, (dirAt t 0 0x50020).staged.isSome)) = some (0, false) := by
  decide +kernel

/-- The smallest table: one stable state, every event answered at once. -/
def smallTable : List Nat := [2 ^ 48, 0, 0, 0, 0, 0, 0, 0] ++ List.replicate 8 (cohCell 0 0 [15] + cohCell 0 0 [15] * 2 ^ 32)

/-- COH_CHECK, or COH_LOAD into slot 6, of the image at 0x10600. -/
def checking (load : Bool) (l : List Nat) : State :=
  mem0 0x10600 l (sys [record [if load then 0x641 else 0x40, 0x10600]])

theorem witness_tables : ∀ load good : Bool, let s := checking load (if good then smallTable else [])
    Head s q0 (if load then 0x41 else 0x40) (fun r => cohImageOk r && (if load then 5 ≤ cohArg r && cohArg r ≤ 7 else cohArg r == 0)) (top s q0) []
      ∧ Calm s ∧ s.rmap = [] ∧ spanOpen s q0 0 1088 (fun j => 0x10600 + j) false := by
  intro load good
  cases load <;> cases good <;>
    exact ⟨head_of (by decide +kernel), calm_of (by decide +kernel), by rfl, span_of (t := trOf (sys []) 0 0x10600) (by decide +kernel) _⟩

/-- A table in use, and an image at an address without a page. -/
theorem witness_table_refusals :
    (let s := { checking true [] with rmap := [(1, ⟨0, 1, 6⟩)] }
     Head s q0 0x41 (fun r => cohImageOk r && (5 ≤ cohArg r && cohArg r ≤ 7)) (top s q0) [] ∧ ∃ e ∈ s.rmap, e.1 / 64 = queuePart s q0 ∧ e.2.pid = cohArg (top s q0) ∧ e.2.pages ≠ 0)
    ∧ let s := sys [record [0x40, 0x20000]]
      Head s q0 0x40 (fun r => cohImageOk r && cohArg r == 0) (top s q0) [] ∧ walk s 0 0x20000 = none ∧ backingOf (ctxOf s 0) 2 = none :=
  ⟨⟨head_of (by decide +kernel), by decide +kernel⟩, head_of (by decide), by decide, by decide⟩

/-- RMAP_SET of entry 2: protocol pid over n pages from a frame on. -/
def ranged (base n pid : Nat) (m : AMap RangeE) : State :=
  { sys [record [0x242, base * 65536, n + pid * 2 ^ 24]] with rmap := m }

/-- A range that meets another, one out of HBM, one with a slot that is empty, one that is good, the end of one, also under an empty slot, and one larger than HBM. -/
theorem witness_ranges : ∀ e ∈ ([(4, 2, 1, [(1, ⟨5, 1, 1⟩)]), (2 ^ 23, 1, 1, []), (4, 2, 6, []), (4, 2, 4, [(1, ⟨6, 1, 1⟩)]), (4, 0, 1, [(2, ⟨5, 1, 1⟩)]), (4, 0, 6, []), (0, 2 ^ 23 + 1, 1, [])]
      : List (Nat × Nat × Nat × AMap RangeE)), let s := ranged e.1 e.2.1 e.2.2.1 e.2.2.2
    Head s q0 0x42 (fun r => zeroBits (dwd r.dw 0) [(63, 14)] && zeroBits (dwd r.dw 1) [(63, 52), (15, 0)]
      && zeroBits (dwd r.dw 2) [(63, 27)] && zeroDwords r 3 6) (top s q0) [] ∧ Calm s := by
  intro e he
  simp only [List.mem_cons, List.not_mem_nil, or_false] at he
  obtain rfl | rfl | rfl | rfl | rfl | rfl | rfl := he <;> exact ⟨head_of (by decide), calm_of (by decide)⟩

theorem test_tables : seen (.cohLoad q0) (checking true smallTable) (fun t => some (t.tables.map fun e => (e.1, e.2.ns, e.2.stable), t.log)) = some ([(6, 1, 1)], [])
    ∧ seen (.cohLoad q0) (checking true []) (fun t => some (t.tables.map fun e => (e.1, e.2.ns, e.2.stable), t.log)) = some ([], [.tableError 0 0])
    ∧ seen (.rmapSet q0) (ranged 4 2 4 []) (fun t => some t.rmap) = some [(2, ⟨4, 2, 4⟩)]
    ∧ seen (.rmapSet q0) (ranged 4 2 6 []) (fun t => some t.rmap) = some []
    ∧ seen (.rmapSet q0) (ranged 4 0 1 [(2, ⟨5, 1, 1⟩)]) (fun t => some t.rmap) = some [] := by decide +kernel

/-! Page records and the page engine (R225, R230, R234 to R239). -/

/-- A page record of TYPE ty of context c and a VPN: one page, RWX, and what dword 2 holds. -/
def paging (ty c vpn src gran : Nat) : State :=
  sys [record [ty + c * 256 + gran * 2 ^ 20 + 7 * 2 ^ 22 + 2 ^ 32, vpn * 65536, src, 0, 0, 0, 0, 0x10700]]

theorem witness_maps : ∀ e ∈ ([(5, 2, 0), (0, 2, 0x10000), (0, 1, 0), (0, 2, 0), (0, 2, 2 ^ 48)] : List (Nat × Nat × Nat)),
    let s := paging 0x50 e.1 e.2.1 e.2.2 1
    let r := top s q0
    Head s q0 0x50 (fun r => pageOk r false true false) r [] ∧ onePage r ∧ (aget s.ctxs (pgCtx r)).isSome = decide (e.1 = 0)
      ∧ mappedIn s (pgCtx r) (pgVpn r) 1 = (decide (e.1 = 0) && decide (e.2.1 = 1))
      ∧ (pgSrc r = 0 ∨ srcOk s (pgSrc r) 65536 65536 = decide (e.2.2 = 2 ^ 48)) := by
  intro e he
  simp only [List.mem_cons, List.not_mem_nil, or_false] at he
  obtain rfl | rfl | rfl | rfl | rfl := he <;> exact ⟨head_of (by decide), by decide, by decide, by decide, by decide⟩

/-- A page without a source, and one with a source in the host, which is reached. -/
theorem witness_map_frame : ∀ src ∈ [0, 2 ^ 48], let s := { paging 0x50 0 2 src 1 with pports := hosted.pports }
    chainRoom s 0 2 1 = true ∧ takeFrame s (queuePart s q0) (pgDie (top s q0)) (((diesOf s (queuePart s q0)).head?).getD 0) false = some 0x100000
      ∧ (src = 0 ∨ (srcOk s src 65536 65536 = true ∧ farStatus s (queuePart s q0) src = .ok [])) := by decide +kernel

/-- PAGE_BACK: a context that is not there, a bad source, ranges that meet, and a good one. -/
theorem witness_backs : ∀ e ∈ ([(5, 2, 0), (0, 2, 0x10000), (0, 3, 0), (0, 2, 0)] : List (Nat × Nat × Nat)),
    let s := { paging 0x53 e.1 e.2.1 e.2.2 1 with ctxs := [(0, { Ctx.system with backing := [(1, ⟨3, 1, false, 0, 1, 7, 0, none⟩)] })] }
    Head s q0 0x53 (fun r => pageOk r true false true) (top s q0) [] := by
  intro e he
  simp only [List.mem_cons, List.not_mem_nil, or_false] at he
  obtain rfl | rfl | rfl | rfl := he <;> exact head_of (by decide)

/-- The page as it stands, pinned, with regions, or MIGRATING. -/
def changed (n ty gran : Nat) (e : Nat × Nat) : State :=
  withF (fun f => match n with
    | 0 => f
    | 1 => { f with pincnt := 1 }
    | 2 => { f with rcnt := 1 }
    | _ => { f with st := .migrating }) (paging ty e.1 e.2 0 gran)

/-- The premises of a statement on page records. -/
def changeB (ty : Nat) (s : State) : Bool :=
  headB s q0 ty (fun r => pageOk r false false false) (top s q0) []
    && decide ((top s q0).work = 0 ∧ onePage (top s q0) ∧ pgSrc (top s q0) = 0) && calmB s

/-- PAGE_UNMAP and PAGE_ATTR: a context that is not there, a page that is not there, and one that is pinned, has regions, is
free to go, and is MIGRATING. -/
theorem witness_changes : ∀ ty ∈ [0x51, 0x52], ∀ e ∈ [(0, 5, 1), (0, 0, 2), (0, 0, 1), (1, 0, 1), (2, 0, 1), (3, 0, 1)],
    changeB ty (changed e.1 ty 2 e.2) = true := by decide +kernel

theorem witness_changes_head {ty : Nat} {s : State} (h : changeB ty s = true) :
    Head s q0 ty (fun r => pageOk r false false false) (top s q0) [] ∧ (top s q0).work = 0 ∧ onePage (top s q0) ∧ pgSrc (top s q0) = 0 ∧ Calm s := by
  unfold changeB at h
  obtain ⟨h1, h3⟩ := and_of h
  obtain ⟨h1, h2⟩ := and_of h1
  have h2 := of_decide_eq_true h2
  exact ⟨head_of h1, h2.1, h2.2.1, h2.2.2, calm_of h3⟩

theorem witness_changed : let s := paging 0x51 0 1 0 1
    pageLink s 0 0 1 false = some 5 ∧ linkAper 5 = false ∧ (∃ f ∈ aget s.frames (linkKey 5), f.large = false ∧ f.st = .resident ∧ f.pincnt = 0 ∧ f.rcnt = 0 ∧ f.gran = 1 ∧ f.bad = false)
      ∧ aget s.pageOps 5 = none ∧ aget s.pageOps (2 ^ 24 + 5) = none ∧ plainFrame 5 ∧ (moveFrame s 5 none false).isSome = true := by decide +kernel

/-- A page that is POISONED, to unmap. -/
def poisoned (rcnt : Nat) : State := withF (fun f => { f with st := .poisoned, bad := true, rcnt := rcnt }) (paging 0x51 0 1 0 1)

theorem witness_poisoned : steadyHealth (poisoned 0) ∧ steadyHealth (retireFrame (poisoned 0) 5)
    ∧ ∀ n ∈ [0, 1], changeB 0x51 (poisoned n) = true ∧ pageLink (poisoned n) 0 0 1 false = some 5
      ∧ ∃ f ∈ aget (poisoned n).frames 5, f.st = .poisoned ∧ f.bad = true ∧ f.pincnt = 0 ∧ f.rcnt = n ∧ aget (poisoned n).pageOps 5 = none := by decide +kernel

/-- FRAME_RETIRE of n frames. -/
def retiring (id n : Nat) : State := sys [record [0x54 + n * 2 ^ 32, id * 65536, 0, 0, 0, 0, 0, 0x10700]]

theorem witness_steady : steadyHealth (changed 0 0x51 1 (0, 1)) ∧ steadyHealth (retireFrames (retiring 9 2) [9, 10]) ∧ steadyHealth (retiring 5 1) := by decide +kernel

/-- FRAME_RETIRE: frames of the page tables, two free ones, and one with a page. -/
theorem witness_retires : ∀ e ∈ ([(0xFFEA0, 1, true, false), (9, 2, false, true), (5, 1, false, false)] : List (Nat × Nat × Bool × Bool)), let s := retiring e.1 e.2.1
    Head s q0 0x54 (retireOk s q0) (top s q0) [] ∧ (top s q0).work = 0 ∧ pgCount (top s q0) = e.2.1 ∧ pgLarge (top s q0) = false ∧ reservedFrame e.1 = e.2.2.1
      ∧ ((∀ id ∈ retireIds (top s q0), frameFree s id = true) ↔ e.2.2.2 = true) ∧ Calm s := by
  intro e he
  simp only [List.mem_cons, List.not_mem_nil, or_false] at he
  obtain rfl | rfl | rfl := he <;> exact ⟨head_of (by decide), rfl, by decide, by decide, by decide, by decide, calm_of (by decide)⟩

/-- The page of the frame pinned, with a region open, MIGRATING, or free to move. -/
def retiringPage (n : Nat) : State :=
  withF (fun f => { f with pincnt := if n = 1 then 1 else 0, rcnt := if n = 2 then 1 else 0, st := if n = 3 then .migrating else .resident }) (retiring 5 1)

theorem witness_retired_pages : ∀ n ∈ [1, 3, 2, 0], let s := retiringPage n
    (∃ f ∈ aget s.frames 5, f.st ≠ .requested ∧ f.st ≠ .retired ∧ f.large = false ∧ (f.pincnt ≠ 0 ↔ n = 1) ∧ (f.rcnt ≠ 0 ↔ n = 2) ∧ (f.st = .migrating ↔ n = 3))
      ∧ aget s.pageOps 5 = none ∧ steadyHealth s ∧ calmB s = true ∧ (n = 0 → (moveFrame s 5 none false).isSome = true) := by decide +kernel

/-- The frame's state, its page op and the completion dword after a page record. -/
def framed (i : Instr) (s : State) (id : Nat) : Option (Option PState × Bool × Nat) :=
  seen i s fun t => some ((aget t.frames id).map Frame.st, ahas t.pageOps id, at0 t 0x10700)

theorem test_page_records : ∀ e ∈ ([(.pageMap q0, paging 0x50 0 2 0 1, 0x100000, (some .resident, false, 2 ^ 63 + 7 * 256)), (.pageMap q0, paging 0x50 0 1 0 1, 5, (some .resident, false, 2 ^ 63 + 7 * 256 + 2)),
      (.pageUnmap q0, withF (fun f => { f with rcnt := 1 }) (paging 0x51 0 1 0 1), 5, (some .deferred, true, 0)),
      (.pageUnmap q0, withF (fun f => { f with pincnt := 1 }) (paging 0x51 0 1 0 1), 5, (some .resident, false, 2 ^ 63 + 7 * 256 + 4)),
      (.pageAttr q0, paging 0x52 0 1 0 1, 5, (some .resident, false, 2 ^ 63 + 7 * 256)), (.pageAttr q0, paging 0x52 0 1 0 2, 5, (some .migrating, true, 0)),
      (.pageUnmap q0, poisoned 1, 5, (some .poisoned, true, 0)),
      (.frameRetire q0, retiring 9 2, 10, (some .retired, false, 2 ^ 63 + 7 * 256)), (.frameRetire q0, retiring 5 1, 5, (some .migrating, true, 0))]
        : List (Instr × State × Nat × (Option PState × Bool × Nat))), framed e.1 e.2.1 e.2.2.1 = some e.2.2.2 := by decide +kernel

/-- The frame of a POISONED page is retired when it is unmapped. -/
theorem test_poisoned : seen (.pageUnmap q0) (poisoned 0) (fun t => (aget t.frames 5).map Frame.st) = some .retired := by decide +kernel

theorem test_back : seen (.pageBack q0) (paging 0x53 0 2 0 1) (fun t => (aget t.ctxs 0).map Ctx.backing) = some [(0, ⟨2, 1, false, 0, 1, 7, 0, none⟩)] := by
  decide +kernel

/-- A fill of the page's frame, from zeros, from another module that is not reachable, and from the host. -/
def filling (src : Nat) : State := { withF (fun f => { f with st := .requested }) (sys []) with pageOps := [(5, .fill src)], pports := hosted.pports }
/-- A migration of the page to frame 9, for the record at the head of queue 0 where there is one. -/
def moved (bad : Bool) (l : List QRec) : State :=
  { withF (fun f => { f with st := .migrating, bad := bad }) (sys l) with pageOps := [(5, .migrate 9 2 (l.head?.map fun _ => q0) [])] }
abbrev migrating : State := moved false []
/-- One for PAGE_ATTR. -/
def attributed : State := moved false [{ record [0x52 + 2 * 2 ^ 20 + 3 * 2 ^ 22 + 2 ^ 32, 0x10000, 0, 0, 0, 0, 0, 0x10700] with work := 1, started := some 0 }]

theorem witness_fills : ∀ e ∈ ([(0, .ok []), (2 ^ 51 + 2 ^ 39, .err errRemote), (2 ^ 48, .ok [])] : List (Nat × EngVal)), let s := filling e.1
    aget s.pageOps 5 = some (.fill e.1) ∧ (∃ f ∈ aget s.frames 5, f.large = false) ∧ plainFrame 5
      ∧ (if e.1 = 0 then .ok [] else farStatus s (partOfDie s (5 / 2 ^ 21)) e.1) = e.2 ∧ s.posted = [] := by
  intro e he
  simp only [List.mem_cons, List.not_mem_nil, or_false] at he
  obtain rfl | rfl | rfl := he <;> decide

theorem witness_migration_ends :
    (∀ bad : Bool, let s := moved bad []
      aget s.pageOps 5 = some (.migrate 9 2 none []) ∧ (∃ f ∈ aget s.frames 5, f.large = false ∧ f.st = .migrating ∧ f.pincnt = 0 ∧ f.bad = bad)
        ∧ steadyHealth s ∧ pageInError s 5 false = false ∧ 9 ∉ s.failing ∧ Memory.wf s.mem)
    ∧ plainFrame 5 ∧ plainFrame 9 ∧ steadyHealth (retireFrame migrating 9) ∧ steadyHealth (retireFrame (moved true []) 5)
    ∧ pageInError { migrating with bad := [(5 * 2 ^ 16, 1)] } 5 false = true
    ∧ (9 ∈ { migrating with failing := [9] }.failing)
    ∧ ∃ r ∈ (queueRecs attributed q0).head?, recType r = 0x52 ∧ aget attributed.pageOps 5 = some (.migrate 9 2 (some q0) []) := by decide +kernel

theorem test_page_engine : ∀ e ∈ ([(.pageFillComplete 5 true, filling 0, 5, (some .resident, false)), (.pageFillComplete 5 false, filling 0, 5, (none, false)),
      (.migrationComplete 5 .ok, migrating, 9, (some .resident, false)), (.migrationComplete 5 .ok, migrating, 5, (none, false)),
      (.migrationComplete 5 .ok, moved true [], 9, (some .poisoned, false)), (.migrationComplete 5 .ok, moved true [], 5, (some .retired, false)),
      (.migrationComplete 5 .ok, { migrating with failing := [9] }, 9, (some .retired, false)),
      (.migrationComplete 5 .destError, migrating, 9, (some .retired, false)), (.migrationComplete 5 .sourceError, migrating, 5, (some .poisoned, false))]
        : List (Instr × State × Nat × (Option PState × Bool))), seen e.1 e.2.1 (fun t => some ((aget t.frames e.2.2.1).map Frame.st, ahas t.pageOps e.2.2.1)) = some e.2.2.2 := by
  decide +kernel

/-- PAGE_ATTR's attributes come with the migration: W and R. -/
theorem test_attr : seen (.migrationComplete 5 .ok) attributed (fun t => (aget t.frames 9).map fun f => (f.st, f.perm, f.gran)) = some (.resident, 3, 2) := by
  decide +kernel

/-- A shootdown with an update of the page buffered. -/
theorem test_shootdown : seen (.shootdownComplete 0) buffered (fun t => some t.upd.length) = some 0 := by decide +kernel

/-! Links (R370 to R378). -/

/-- The module with port 3 in a state since clock 0. -/
def linked (st : LinkSt) (fails : Nat) (ever : Bool) : State :=
  withPort State.reset 3 { st := st, width := 0, fails := fails, everUp := ever, wasWidth := 3 }

theorem witness_ports : ∀ e ∈ ([(.training, 0, false), (.training, 0, true), (.up, 0, true), (.degraded, 0, true), (.retraining, 0, true), (.dead, 15, true),
      (.dead, 16, true), (.isolated, 0, true)] : List (LinkSt × Nat × Bool)), ∃ p, (linked e.1 e.2.1 e.2.2).uports[3]? = some p
    ∧ (p.st, p.fails, p.everUp) = e ∧ (linked e.1 e.2.1 e.2.2).clock ≤ p.since + 2500000 := by
  intro e he
  simp only [List.mem_cons, List.not_mem_nil, or_false] at he
  obtain rfl | rfl | rfl | rfl | rfl | rfl | rfl | rfl := he <;> exact ⟨_, rfl, by decide⟩

theorem witness_pcie : ∃ p, State.reset.pports[1]? = some p ∧ p.st ≠ .retraining
    ∧ [LinkSt.down, .training, .up, .degraded, .retraining][4]? = some .retraining ∧ [LinkSt.down, .training, .up, .degraded, .retraining][2]? = some .up :=
  ⟨_, rfl, by decide, rfl, rfl⟩

/-- An update about plane 3 of another module that is newer, and one that is not; drain rounds under way; a peer's request. -/
theorem witness_link_traffic : (agetD State.reset.lastLsu 7 0 < 1 ∧ 1 ≤ agetD { State.reset with lastLsu := [(7, 1)] }.lastLsu 7 0 ∧ (7 : Nat) ≠ State.reset.podPos)
    ∧ (∀ n ∈ [1, 3], { State.reset with drains := [⟨3, n, 9, none⟩] }.drains = [] ++ ⟨3, n, 9, none⟩ :: [])
    ∧ (∀ x ∈ allColls State.reset, (roundsOf State.reset x.1 x.2.1).busy = false)
    ∧ (∃ p, (linked .up 0 true).uports[3]? = some p ∧ p.st = .up) ∧ pageLogged (linked .up 0 true) 0x400 = none
    ∧ (∀ op ∈ [UaOp.read 8, .write [1, 2], .atomic .add false 5 0, .update .add false 5, .cell (List.replicate 128 0)], uaOk 0x400 op = true
        ∧ inError (linked .up 0 true) 0x400 (uaLen op) = false ∧ ∀ j < uaLen op, inTables (0x400 + j) = false)
    ∧ (∀ op ∈ [UaOp.read 8, .atomic .add false 5 0], let s := { linked .up 0 true with bad := [(0x400, 1)] }
        pageLogged s 0x400 = none ∧ inError s 0x400 (uaLen op) = true)
    ∧ Calm (linked .up 0 true) ∧ (∀ ev ∈ [evNcrd, evNcwr, evAtom, evPutm], Takes (linked .up 0 true) 0x400 ev)
    ∧ ({ linked .up 0 true with part := .split }.part = .split ∧ homeDie (2 ^ 38) / 2 ≠ 3 / 9) :=
  ⟨by decide, fun n _ => rfl, by decide, ⟨_, rfl, rfl⟩, by decide, by decide, by decide, calm_of (by decide), fun ev h => takes_of (by
    simp only [List.mem_cons, List.not_mem_nil, or_false] at h
    obtain rfl | rfl | rfl | rfl := h <;> decide) _, by decide⟩

/-- The third round of a drain with a write posted to a module out of reach, and with one that is reached. -/
theorem witness_drain_ends : ∀ st ∈ [LinkSt.down, .up], let s := { reaching st with drains := [⟨3, 3, 9, none⟩] }
    s.drains = [] ++ ⟨3, 3, 9, none⟩ :: [] ∧ (∀ x ∈ allColls s, (roundsOf s x.1 x.2.1).busy = false)
      ∧ (wayTo { s with clock := 250009, drains := [] } toPeer.part toPeer.pa ≠ .lost ↔ st = .up) := by decide

/-- Port 3 after an event: LSTAT.STATE, width, retrains, failures; updates sent, drain rounds begun, the clock. -/
def portAfter (i : Instr) (s : State) : Option (List Nat) :=
  seen i s fun t => (t.uports[3]?).map fun p => [linkCode p.st, p.width, p.retrains, p.fails, t.lsuOut.length, t.drains.length, t.clock]

/-- R375. -/
theorem test_ports : ∀ e ∈ ([(.linkTrained 3 3, linked .training 2 false, [2, 3, 0, 0, 1, 0, 0]), (.linkTrained 3 2, linked .training 2 false, [3, 2, 0, 0, 1, 0, 0]),
      (.trainingTimeout 3, linked .training 2 true, [5, 0, 0, 3, 1, 1, 250000000]), (.linkRetrain 3, linked .up 0 true, [4, 0, 1, 0, 0, 0, 0]),
      (.retrainComplete 3 3, linked .retraining 0 true, [2, 3, 0, 0, 0, 0, 0]), (.retrainTimeout 3, linked .retraining 0 true, [5, 0, 0, 1, 1, 1, 2500000]),
      (.deadRetry 3, linked .dead 15 true, [1, 0, 0, 15, 0, 0, 2500000000]), (.linkEnable 3, linked .isolated 16 true, [1, 0, 0, 0, 0, 0, 0])]
        : List (Instr × State × List Nat)), portAfter e.1 e.2.1 = some e.2.2 := by decide +kernel

theorem test_isolates : seen (.deadRetry 3) (linked .dead 16 true) (fun t => some ((t.uports[3]?).map Port.st, t.health)) = some (some .isolated, .degraded)
    ∧ seen (.linkDisable 3) (linked .up 0 true) (fun t => some ((t.uports[3]?).map Port.st, t.drains.length)) = some (some .isolated, 1)
    ∧ seen (.pcieLinkChange 1 4 0) State.reset (fun t => some ((t.pports[1]?).map fun p => (p.st, p.width, p.retrains))) = some (some (.retraining, 0, 1))
    ∧ (∀ e ∈ ([(2, 5, .up, 5), (3, 3, .degraded, 3), (2, 2, .down, 0)] : List (Nat × Nat × LinkSt × Nat)),
        seen (.pcieLinkChange 1 e.1 e.2.1) State.reset (fun t => (t.pports[1]?).map fun p => (p.st, p.width)) = some e.2.2) := by decide +kernel

theorem test_link_traffic : seen (.lsuReceived 7 3 2 1) State.reset (fun t => some (t.reach, t.lastLsu)) = some ([(129, 2)], [(7, 1)])
    ∧ seen (.drainRoundEnd 3) { State.reset with drains := [⟨3, 1, 9, none⟩] } (fun t => some (t.drains.map fun d => (d.round, d.since))) = some [(2, 250009)]
    ∧ seen (.ualinkRequest 3 7 0x400 (.write [1, 2])) (linked .up 0 true) (fun t => some (t.uaOut.length, numAt t 0 0x400 8)) = some (1, 0x201)
    ∧ seen (.ualinkRequest 3 7 0x400 (.atomic .add false 5 0)) (linked .up 0 true) (fun t => some (t.uaOut.length, numAt t 0 0x400 8))
        = some (1, 5)
    ∧ seen (.ualinkRequest 3 7 0x400 (.update .add false 5)) (linked .up 0 true) (fun t => some (t.uaOut.length, numAt t 0 0x400 8)) = some (0, 5)
    ∧ seen (.ualinkRequest 3 7 0x400 (.read 8)) { linked .up 0 true with bad := [(0x400, 1)] } (fun t => some t.uaOut) = some [(7, none)]
    ∧ (∀ e ∈ ([(.up, 1, 0), (.down, 0, 1)] : List (LinkSt × Nat × Nat)),
        seen (.drainRoundEnd 3) { reaching e.1 with drains := [⟨3, 3, 9, none⟩] } (fun t => some (t.posted.length, t.lostPeers.length)) = some e.2) := by decide +kernel

/-! Collectives (R379 to R390). -/

/-- An entry of two ranks, this one 0, over a page at 0x10000, in FP32; its rounds stand at r; the other rank is reachable. -/
def entry2 (rooted : Bool) (root : Nat) : CollEntry :=
  { base := 0x10000, pages := 1, fmt := 1, rooted := rooted, swred := false, e2e := false, root := root, myRank := 0, nrank := 2, close := 0x10800, flag := 0x10808,
    rmap := [0, 1], timeout := 10, ph := 0 }
def collective (x : CollEntry) (r : Rounds) : State :=
  let s := epSys 2 [0x03, 0x10800]
  { s with ctxs := [(0, { Ctx.system with colls := [(2, x)] })], rounds := [(2, r)], reach := [(18, 2)], uports := [⟨.up, 3, false, 0, 0, true, 0, 0, 0⟩] }

/-- The close of round 4, with a contribution of 1 to location 5. -/
def closing : State := collective (entry2 false 0) { closed := 3, reduced := 3, completed := 3, openC := [(5, { seg := 1#640 <<< 298, inUse := true })] }
/-- Round 4 in progress. -/
def inRound (r : Rounds) (rooted : Bool) (root : Nat) : State := collective (entry2 rooted root) { r with closed := 4, reduced := 3, completed := 3 }

theorem witness_close : ∃ x, closeOf closing e1 (top closing e1) = some (0, 2, x) ∧ Head closing e1 0x03 closeOk (top closing e1) [] ∧ (top closing e1).work = 0 ∧ Calm closing
    ∧ (roundsOf closing 0 2).completed = (roundsOf closing 0 2).closed ∧ (roundsOf closing 0 2).failed = none ∧ (roundsOf closing 0 2).suspended = [] ∧ (roundsOf closing 0 2).selfSuspended = false
    ∧ ((roundsOf closing 0 2).todo = [] ∧ (roundsOf closing 0 2).acked = false ∧ (roundsOf closing 0 2).ending = none ∧ (roundsOf closing 0 2).reduced = (roundsOf closing 0 2).closed
      ∧ aget (ctxOf closing 0).colls 2 = some x ∧ roundFits closing 0 x = true)
    ∧ x.myRank < x.nrank ∧ ¬allIn x (roundsOf closing 0 2).fin
    ∧ (∀ k < x.nrank, k ≠ x.myRank → rankGone closing x k = false) ∧ x.close.toNat % 8 = 0 ∧ AgentReaches closing e1 0 x.close.toNat 8 true (trOf closing 0 0x10800) :=
  ⟨entry2 false 0, by rfl, head_of (by decide +kernel), by rfl, calm_of (by decide +kernel), by decide +kernel, by decide +kernel, by decide +kernel, by decide +kernel,
    by decide +kernel, by decide +kernel, by decide +kernel, by decide +kernel, by decide, agent_of (by decide +kernel) e1⟩

/-- An entry whose ranks do not include this module fails the check at the close; contributions that send, one for the other
rank to reduce and one for this. -/
theorem witness_round_cases : roundFits closing 0 { entry2 false 0 with rmap := [1, 0] } = false
    ∧ ∃ r ∈ aget (inRound { closedC := [(5, LA.zero), (5000, LA.zero)] } false 0).rounds 2, aRising r.closedC = true ∧ r.reduced < r.closed ∧ (entry2 false 0).swred = false
      ∧ ((r.closedC.map fun p => decide (reducerOf (entry2 false 0) (cellAt (inRound r false 0) 0 (entry2 false 0) p.1) p.1 = 0)) = [true, true]
        ∨ true = (r.closedC.any fun p => decide (reducerOf (entry2 false 0) (cellAt (inRound r false 0) 0 (entry2 false 0) p.1) p.1 = 0))) := by decide +kernel

/-- A partial of round 6, which is two rounds early, and one of round 3, which is over; a slot that the switch has emptied. -/
theorem witness_other_rounds : let s := inRound { slots := [5] } false 0
    aget (ctxOf s 0).colls 2 = some (entry2 false 0) ∧ (roundsOf s 0 2).reduced + 1 < 6 ∧ 3 ≤ (roundsOf s 0 2).reduced ∧ locOk s 0 (entry2 false 0) 5 = true
      ∧ reducerOf (entry2 false 0) (cellAt s 0 (entry2 false 0) 5) 5 = 0 ∧ (3#512).toNat < 2 ^ 2 ∧ (3#512).getLsbD 0 = true := by decide +kernel

theorem witness_partials : let s := inRound {} true 1
    let x := entry2 true 1
    aget (ctxOf s 0).colls 2 = some x ∧ (roundsOf s 0 2).ending = none ∧ (roundsOf s 0 2).reduced < (roundsOf s 0 2).closed ∧ x.root ≠ x.myRank
      ∧ x.root < x.nrank ∧ locOk s 0 x 5 = true ∧ reducerOf x (cellAt s 0 x 5) 5 = x.myRank ∧ ¬allIn x (roundsOf s 0 2).fin
      ∧ allIn x ((roundsOf s 0 2).fin ||| 0 ||| (1#512 <<< 1)) ∧ ¬allIn x (roundsOf s 0 2).acks := by decide +kernel

/-- A round whose last acknowledgement comes in, and one whose images come in. -/
def acking (r : Rounds) : State := collective (entry2 false 0) { r with closed := 4, reduced := 4, completed := 3, slot := 1, due := some 77 }

theorem witness_acks : ∃ x, InRound (acking { acked := true }) 0 2 x (roundsOf (acking { acked := true }) 0 2) ∧ allIn x (0 ||| (1#512 <<< 1))
    ∧ Calm (acking { acked := true }) ∧ x.flag.toNat % 8 = 0 ∧ AgentReaches (acking { acked := true }) (.ep 0 1) 0 x.flag.toNat 8 true (trOf (acking { acked := true }) 0 0x10808) :=
  ⟨entry2 false 0, ⟨by rfl, rfl, by decide, by rfl⟩, by decide +kernel, calm_of (by decide +kernel), by decide, agent_of (by decide +kernel) _⟩

theorem witness_images : ∃ x, InRound (acking {}) 0 2 x (roundsOf (acking {}) 0 2) ∧ receives x x.myRank = true ∧ ¬allIn x (roundsOf (acking {}) 0 2).deliv
    ∧ locOk (acking {}) 0 x 5 = true ∧ (locData (acking {}) 0 x 5 (List.replicate 128 0)).length = 4
    ∧ AgentReaches (acking {}) (.ep 0 1) 0 0x10014 4 true (trOf (acking {}) 0 0x10014) :=
  ⟨entry2 false 0, ⟨by rfl, rfl, by decide, by rfl⟩, by decide +kernel, by decide +kernel, by decide +kernel, by decide +kernel, agent_of (by decide +kernel) _⟩

/-- A merged image that comes to a rank whose context is suspended. -/
theorem witness_inbox : ∃ x, InRound (acking { selfSuspended := true }) 0 2 x (roundsOf (acking { selfSuspended := true }) 0 2)
    ∧ (roundsOf (acking { selfSuspended := true }) 0 2).selfSuspended = true :=
  ⟨entry2 false 0, ⟨by rfl, rfl, by decide, by rfl⟩, by decide +kernel⟩

/-- A block that waits for locations 0 to 31 of the entry in its LAs 0 to 31. -/
theorem witness_landing_la : landingLa { bootBlock State.reset 0 with accin := dw (2 ^ 63 + 2 * 2 ^ 54) } 0 2 5 = some 5 := by decide +kernel

theorem witness_slots : let s := collective (entry2 false 0) { slots := [5], suspended := [1] }
    aget (ctxOf s 0).colls 2 = some (entry2 false 0) ∧ 5 ∈ (roundsOf s 0 2).slots ∧ (roundsOf s 0 2).suspended ≠ [] ∧ (roundsOf s 0 2).completed = (roundsOf s 0 2).closed := by decide +kernel

theorem witness_self_slots : let s := collective (entry2 false 0) { slots := [5], selfSuspended := true, closed := 4, reduced := 4, completed := 3 }
    let r := roundsOf s 0 2
    aget (ctxOf s 0).colls 2 = some (entry2 false 0) ∧ 5 ∈ r.slots ∧ r.selfSuspended = true ∧ r.completed < r.closed ∧ r.ending = none ∧ r.todo = [] ∧ r.acked = false
      ∧ r.reduced = r.closed ∧ ¬allIn (entry2 false 0) r.deliv ∧ receives (entry2 false 0) 0 = true := by decide +kernel

theorem witness_failures : (roundsOf (collective (entry2 false 0) { due := some 9 }) 0 2).due.isSome = true
    ∧ InRound (collective (entry2 true 1) { closed := 4, reduced := 3, completed := 3, due := some 9 }) 0 2 (entry2 true 1)
        (roundsOf (collective (entry2 true 1) { closed := 4, reduced := 3, completed := 3, due := some 9 }) 0 2)
    ∧ receives (entry2 true 1) (entry2 true 1).myRank = false :=
  ⟨by decide +kernel, ⟨by rfl, rfl, by decide, by rfl⟩, by decide⟩

/-- Rounds closed, reduced and completed, messages sent, CLOSE, FLAG, and records left at the endpoint. -/
def roundAfter (i : Instr) (s : State) : Option ((Nat × Nat × Nat) × Nat × Nat × Nat × Nat) :=
  seen i s fun t => let r := roundsOf t 0 2
    some ((r.closed, r.reduced, r.completed), t.collOut.length, at0 t 0x10800, at0 t 0x10808, (queueRecs t e1).length)

/-- A close sends the end of its partials; the last of the other rank's partials ends the reduction at a rank that is not the
root; the last acknowledgement completes the round, and its time ends it with bit 63 of FLAG. -/
theorem test_rounds : ∀ e ∈ ([(.collectiveClose e1, closing, (4, 3, 3), 1, 4, 0, 1), (.partialReceived 0 2 4 0 1 0 [], inRound {} true 1, (4, 4, 3), 2, 0, 0, 1),
      (.deliveryAck 0 2 4 1, acking { acked := true }, (4, 4, 4), 0, 0, 4, 0)]
        : List (Instr × State × (Nat × Nat × Nat) × Nat × Nat × Nat × Nat)), roundAfter e.1 e.2.1 = some e.2.2 := by decide +kernel

theorem test_suspension : seen (.suspendReceived 0 2 1) (acking {}) (fun t => some ((roundsOf t 0 2).suspended, (roundsOf t 0 2).due, (roundsOf t 0 2).left)) = some ([1], none, 78)
    ∧ seen (.resumeReceived 0 2 1) (collective (entry2 false 0) { suspended := [1], left := 78 }) (fun t => some ((roundsOf t 0 2).suspended, (roundsOf t 0 2).due)) = some ([], some 77)
    ∧ seen (.abortReceived 0 2 1) (collective (entry2 false 0) {}) (fun t => some (roundsOf t 0 2).failed) = some (some 0x86)
    ∧ seen (.roundTimeout 0 2) (collective (entry2 false 0) { due := some 9 }) (fun t => some ((roundsOf t 0 2).failed, t.clock)) = some (some 0x85, 9)
    ∧ seen (.slotRelease 0 2 5) (collective (entry2 false 0) { slots := [5], suspended := [1] }) (fun t => some ((roundsOf t 0 2).slots, t.clock)) = some ([], 2500000)
    ∧ seen (.slotRelease 0 2 5) (collective (entry2 false 0) { slots := [5], selfSuspended := true }) (fun t => some ((roundsOf t 0 2).slots, t.clock)) = some ([], 2500000)
    ∧ seen (.mergedImageReceived 0 2 4 5 (LA.image LA.zero)) (acking { selfSuspended := true }) (fun t => some ((roundsOf t 0 2).inbox.length, (roundsOf t 0 2).written)) = some (1, [])
    ∧ seen (.partialReceived 0 2 6 5 1 0 (LA.image LA.zero)) (inRound {} false 0) (fun t => some ((roundsOf t 0 2).early.length, (roundsOf t 0 2).merged.length)) = some (1, 0)
    ∧ seen (.partialReceived 0 2 4 5 1 3 (LA.image LA.zero)) (inRound { slots := [5] } false 0) (fun t => some ((roundsOf t 0 2).slots, (roundsOf t 0 2).merged.length)) = some ([], 1)
    := by decide +kernel

/-- The image of 1 is written as FP32 at location 5. -/
theorem test_merged_image : seen (.mergedImageReceived 0 2 4 5 (LA.image { seg := 1#640 <<< 298, inUse := true })) (acking {})
    (fun t => some (numAt t (trOf t 0 0x10014).key (trOf t 0 0x10014).pa 4, (roundsOf t 0 2).written)) = some (0x3F800000, [5]) := by decide +kernel

/-! Health, resets, management (R15 to R27, R396 to R407). -/

/-- A record about core 0 of die 0. -/
def coreRecord (ty : Nat) (f : State → State) : State := f (sys [record [ty, 0, 0, 0, 0, 0, 0, 0x10700]])
/-- A block on that core. -/
def onCore (s : State) : State := { s with blocks := [(3, { bootBlock State.reset 0 with core := 0 })] }

theorem witness_core_records : ∀ ty ∈ [0x61, 0x62], (∀ f ∈ ([id, onCore, fun s => { s with rehearsing := [(0, ⟨none, 0⟩)] }, fun s => { s with retired := [0] }] : List (State → State)),
      Head (coreRecord ty f) q0 ty (coreRecOk (coreRecord ty f) q0) (top (coreRecord ty f) q0) [] ∧ recCore (top (coreRecord ty f) q0) = 0)
    ∧ (let s := coreRecord ty fun s => { s with rehearsing := [(39, ⟨none, 0⟩)] }
       coreGone s 0 = false ∧ ∃ e ∈ s.rehearsing, e.1 / 40 = 0 / 40)
    ∧ coreGone (coreRecord ty id) 0 = false ∧ coreBusy (coreRecord ty onCore) 0 = true ∧ coreGone (coreRecord ty onCore) 0 = false
    ∧ coreGone (coreRecord ty fun s => { s with retired := [0] }) 0 = true := by
  intro ty h
  simp only [List.mem_cons, List.not_mem_nil, or_false] at h
  obtain rfl | rfl := h <;> refine ⟨fun f hf => ?_, by decide⟩ <;> simp only [List.mem_cons, List.not_mem_nil, or_false] at hf <;>
    obtain rfl | rfl | rfl | rfl := hf <;> exact ⟨head_of (by decide), by decide⟩

theorem witness_reports : (let s := sys [record [0x60, 0x10600]]
      Head s q0 0x60 (fun r => zeroBits (dwd r.dw 0) [(63, 8)] && addrOk (dwd r.dw 1) && (dwd r.dw 1).toNat % 64 == 0 && zeroDwords r 2 6) (top s q0) [] ∧ Calm s
        ∧ spanOpen s q0 0 128 (fun j => 0x10600 + j) true)
    ∧ let s := sys [record [0x163]]
      Head s q0 0x63 (fun r => zeroBits (dwd r.dw 0) [(63, 9)] && zeroDwords r 1 6) (top s q0) [] :=
  ⟨⟨head_of (by decide), calm_of (by decide), span_of (t := trOf (sys []) 0 0x10600) (by decide +kernel) _⟩, head_of (by decide)⟩

/-- A rehearsal of core 7 with and without a block on it; health states that do and do not move. -/
theorem witness_rehearsals : (∀ e ∈ State.reset.rehearsing, e.1 / 40 ≠ 7 / 40) ∧ State.reset.rehearseOn = true ∧ coreGone State.reset 7 = false
    ∧ coreBusy State.reset 7 = false ∧ coreBusy { State.reset with blocks := [(3, { bootBlock State.reset 0 with core := 7 })] } 7 = true
    ∧ Health.code (healthNow State.reset) ≤ Health.code State.reset.health ∧ healthNow (linked .isolated 0 true) = .degraded := by decide +kernel

theorem witness_withdrawal : let s := ready .nop id
    ∃ g ∈ aget s.groups 96, ∃ b ∈ aget s.blocks g.blk, coreGone s b.core = false ∧ b.core < 160 ∧ aRising s.blocks = true ∧ aRising s.groups = true ∧ g.st ≠ .exited ∧ g.st ≠ .halted
      ∧ b.st = .placed := by decide +kernel

theorem test_health : seen (.rehearsalCfg q0) (sys [record [0x63]]) (fun t => some t.rehearseOn) = some false
    ∧ seen (.rehearse q0) (coreRecord 0x61 onCore) (fun t => some (t.rehearsing.map Prod.fst, (aget t.blocks 3).map Block.pre)) = some ([0], some none)
    ∧ seen (.rehearse q0) (coreRecord 0x61 fun s => { s with retired := [0] }) (fun t => some (at0 t 0x10700)) = some (2 ^ 63 + 7 * 256 + 1)
    ∧ seen (.rehearse q0) (coreRecord 0x61 fun s => { s with rehearsing := [(39, ⟨none, 0⟩)] }) (fun t => some (t.rehearsing.map Prod.fst)) = some [39]
    ∧ seen (.rehearsalStart 7) State.reset (fun t => some (t.rehearsing.map Prod.fst, t.rehearseDue)) = some ([7], [(7, 216000000000000)])
    ∧ seen (.rehearsalSkip 7) { State.reset with rehearsing := [(7, ⟨none, 4⟩)], blocks := [(3, { bootBlock State.reset 0 with core := 7 })] }
        (fun t => some (t.rehearsing.length, t.skips)) = some (0, [25000000004])
    ∧ seen (.selfTestComplete 7 false) { State.reset with rehearsing := [(7, ⟨none, 4⟩)] } (fun t => some (t.retired, t.health)) = some ([7], .nominal)
    ∧ seen (.coreRetire q0) (coreRecord 0x62 id) (fun t => some (t.retired, at0 t 0x10700)) = some ([0], 2 ^ 63 + 7 * 256)
    ∧ seen (.coreRetire q0) (coreRecord 0x62 onCore) (fun t => some (t.retired, t.draining)) = some ([], [0]) := by decide +kernel

theorem test_report : seen (.healthQuery q0) (sys [record [0x60, 0x10600, 0, 0, 0, 0, 0, 0x10700]]) (fun t => some (at0 t 0x10600, at0 t 0x10700)) = some (0, 2 ^ 63 + 7 * 256) := by
  decide +kernel

/-- Contexts that a warm reset of die 3 leaves and one of die 0 touches; a life-cycle command that may be carried out; a book
that can be armed, and one that is. -/
theorem witness_resets_and_books :
    (touched (ready .nop id) 8 1 = false ∧ touched (ready .nop id) 1 1 = true)
    ∧ (State.reset.life, LifeCycle.returned) ∈ lifeSteps ∧ (State.reset.life, LifeCycle.provisioned) ∉ lifeSteps
    ∧ (let s := setBook State.reset 1 { bookOf State.reset 1 with base := 2 ^ 21 + 8, pages := 2 }
       (bookOf s 1).arm = false ∧ (bookOf s 1).held = none ∧ frameFree s (2 ^ 21 + 8) = true ∧ frameFree s (2 ^ 21 + 9) = true)
    ∧ (let s := setBook State.reset 1 { bookOf State.reset 1 with base := 2 ^ 21 + 8, pages := 2, arm := true, held := some (2 ^ 21 + 8, 2), head := 64, tail := 32 }
       (bookOf s 1).arm = true ∧ inError s ((bookOf s 1).base * 65536 + (bookOf s 1).head) 32 = false)
    ∧ partOfPort State.reset 0 = some (partOfDie State.reset ((0x3048 - 0x3000) / 0x40)) ∧ partOfPort State.reset 1 ≠ some (partOfDie State.reset 1)
    ∧ (8#4).toNat ∈ [1, 2, 4, 8, 15] ∧ (5#4).toNat ∉ [1, 2, 4, 8, 15] ∧ State.reset.shut = false ∧ { State.reset with shut := true }.shut = true := by decide +kernel

theorem test_window_read : windowRead State.reset 0 0 8 = toBytes 8 (2 ^ 62 + 256 * 2 ^ 32)
    ∧ windowRead State.reset 0 8 8 = List.replicate 8 0 ∧ windowRead State.reset 0 0 4 = [0, 0, 0, 0] := by decide +kernel

theorem test_firmware_accepted :
    seen (.firmwareUpdate 2 5 true) { State.reset with keyHash := Config.imageKey 0 2 5 } (fun t => some t.firmware)
      = some [(2, 5)] := by
  simp [seen, exec, execFirmwareUpdate, State.reset]; decide

theorem test_resets : seen .coldReset { ready .nop id with mem := [(9, 1), (2 ^ 48, 2)] } (fun t => some (t.groups.length, t.mem.map Prod.fst, t.ctxs.map Prod.fst))
        = some (0, [2 ^ 48], [0])
    ∧ seen .coldReset { State.reset with unusable := 1 } (fun t => some t.health) = some .failed
    ∧ seen (.warmReset 5) State.reset (fun t => some t.warmAt) = some []
    ∧ seen (.thermalShutdown 1) (ready .nop id) (fun t => some (t.shut, t.queues.length, t.log)) = some (true, 0, [.shutdown 1])
    ∧ seen (.junctionWarning 1) State.reset (fun t => some t.log) = some [.junction 1]
    ∧ seen (.lifeCycleCommand .returned true) State.reset (fun t => some t.life) = some .returned
    ∧ seen (.lifeCycleCommand .provisioned true) State.reset (fun t => some (t.life, t.log)) = some (.deployed, [.refused 1])
    ∧ seen (.partitionModeSet .split) State.reset (fun t => some (t.part, t.partCfg)) = some (.whole0, .split)
    ∧ seen (.firmwareUpdate 2 5 false) State.reset (fun t => some (t.firmware, t.log)) = some ([], [.refused 0])
    ∧ seen (.pldmMonitoring 0) State.reset (fun t => some t.answers) = some [.pldm 0 0]
    ∧ seen (.spdmMeasurements 6) State.reset (fun t => some t.log) = some [.refused 2] := by decide +kernel

theorem test_warm_reset : seen (.warmReset 1) { State.reset with drops := [(0, 9)] } (fun t => some (t.warmAt, (aget t.ctxs 0).map Ctx.st, t.dir.length, t.drops))
    = some ([0], some .resident, 0, []) := by decide +kernel

/-- LSTAT of a port that is UP at full width, and a book register of a die that the port owns (R374, R405). -/
theorem test_registers : (barRead (linked .retraining 0 true) 0 0x1018).toNat = 4 * 2 ^ 61
    ∧ (barRead (setBook State.reset 1 { bookOf State.reset 1 with arm := true, head := 64 }) 0 0x3040).toNat = 1
    ∧ (barRead (setBook State.reset 1 { bookOf State.reset 1 with arm := true, head := 64 }) 0 0x3058).toNat = 64
    ∧ (barRead (setBook State.reset 1 { bookOf State.reset 1 with arm := true, head := 64 }) 1 0x3058).toNat = 0 := by decide

/-- Book 1 after an event: armed, AERR, sealed, HEAD, TAIL, COUNT, frames it reserves. -/
def bookAfter (i : Instr) (s : State) : Option (List Nat) :=
  seen i s fun t => let b := bookOf t 1
    some [b.arm.toNat, b.aerr.toNat, b.sealed.toNat, b.head, b.tail, b.count, (b.held.map Prod.snd).getD 0]

/-- Book 1 of two frames of its die, not armed, and armed with two records. -/
def book1 (arm : Bool) : State :=
  setBook State.reset 1 { bookOf State.reset 1 with
    base := 2 ^ 21 + 8, pages := 2, arm := arm, held := if arm then some (2 ^ 21 + 8, 2) else none, head := if arm then 64 else 0 }

theorem test_books : ∀ e ∈ ([(.bookArm 1, book1 false, [1, 0, 0, 0, 0, 0, 2]), (.bookArm 1, State.reset, [0, 1, 0, 0, 0, 0, 0]),
      (.bookDisarm 1, book1 true, [0, 0, 0, 64, 0, 0, 0]), (.bookTailWrite 1 32, book1 true, [1, 0, 0, 64, 32, 0, 2]),
      (.bookTailWrite 1 33, book1 true, [1, 0, 0, 64, 0, 0, 2]), (.bookSeal 1, book1 true, [0, 0, 1, 96, 0, 1, 2]),
      (.registerWrite 0 0x3060 64, book1 true, [1, 0, 0, 64, 64, 0, 2]), (.registerWrite 0 0x3040 2, book1 false, [0, 0, 0, 0, 0, 0, 0])] : List (Instr × State × List Nat)), bookAfter e.1 e.2.1 = some e.2.2 := by decide +kernel

theorem test_wipes : seen (.frameWipeComplete 5) { State.reset with wiping := [(9, 5), (10, 6)] } (fun t => some t.wiping) = some [(10, 6)]
    ∧ seen (.keyRetireComplete 3) { State.reset with keys := [(0, ⟨false, []⟩), (3, ⟨true, []⟩)] } (fun t => some (t.keys.map Prod.fst)) = some [0]
    ∧ seen (.placementStarvation 2) placing (fun t => (aget t.launches 2).map fun l => (l.starved, t.clock)) = some (true, 2500000) := by decide +kernel

/-- The block's core is withdrawn: it is retired. -/
theorem test_withdrawal : seen (.coreWithdrawal (bootBlock State.reset 1).core) (ready .nop id) (fun t => some t.retired) = some [(bootBlock State.reset 1).core] := by
  decide +kernel

/-! Encoding, well-formedness, reset. -/

theorem test_words_decode : ∀ e ∈ words ++ moreWords, (decodeWord e.1).toOption = some e.2 := by decide +kernel

/-- Words that stand for no instruction: no opcode; a NOP with a field set; LOOPI with counter 3 (R250). -/
theorem test_reserved_words : (decodeWord 0xFFFFFFFF).toOption = none ∧ (decodeWord 0b000000_0000001_0000000_0000000_00000).toOption = none
    ∧ (decodeWord 0b001011_11_00000011_0000000000000111).toOption = none := by decide

/-- An ill-formed term for each check of well-formedness, and what is off. -/
theorem test_ill_formed : ∀ i ∈ ([.trap 0x3F .z, .trap 0x40 (.v 0), .mfs (.v 1) 0, .mts 0x145 (.v 0), .fmtget (.v 0), .stage 0 1, .loop 3 0 .z, .loopi 3 0 0,
    .pgreq .z (.v 0) 15 0, .pref (.v 0) 15 0, .spl 0 .z 15 0, .iadd .w8 .z .z (.v 0), .imadw .z (.v 0) .z, .iabs .w8 (.v 0) .z, .iset .eq .and .w8 0 .z (.v 0),
    .addi (.v 0) .z 0, .shli .z .z 64, .movw (.v 0) 0 0, .fadd .fp32 false .z .z (.v 0), .fabs .fp32 false .z (.v 0), .fset .eq .and .fp32 0 (.v 0) .z,
    .cvt .fp32 .fp64 none false (.v 0) .z, .qpush 0 15 1, .qpop (.s 15) 0, .qstat (.v 0) 0, .laclr 127 1, .laadd 0 (.v 0), .lamad 0 .z (.v 0), .laxl 0 1 (.v 0),
    .laxb 0 1 0, .laxb 0 1 32, .laflg (.v 0) 0, .laput 0 .z 11, .larnd (.v 0) 0 none none 0, .laseg (.v 0) 0 0 0, .mma 0 0 1 false 0, .mma 0 1 109 false 0,
    .mma 121 1 1 false 0, .mmas 0 1 105 false 0, .xln false .w8 .z .z (.v 0), .xliBfly .w64 .z .z 0 1, .qxh (.v 0) .z, .vbal (.v 0) 0, .mbcnt .z (.v 0), .last 0 (.v 0) 15 0,
    .ld .b64 .dflt (.v 0) .z 15 0, .lds .w8 .z (.v 0) 15 0, .atomAdd .z (.v 111) 15 0, .atomwXor (.v 0) (.v 1) 15 0, .atomCas .z (.v 110) 15 0, .ataccAddp .z (.s 15) 15 0,
    .ataccClr .z (.v 0) 15 0] : List Instr), i.wf = false := by decide

theorem witness_encoding : (Instr.iadd .w16 (.v 1) (.v 2) (.s 0)).wf = true ∧ (Instr.iadd .w16 (.v 1) (.v 2) (.s 0)).isEvent = false := by decide

theorem witness_reset_canonical : Memory.wf State.reset.mem := by decide

theorem witness_step_canonical : Memory.wf (placeWord State.reset 0).mem := by decide

/-- An LA before any addition. -/
theorem witness_formed : ∃ ts a, Formed ts a ∧ ts = [] := ⟨[], _, .clear, rfl⟩

/-! Further states that meet hypotheses. -/

/-- MTS ACCIN: off, with a reserved bit, with more accumulators than the block has, for no entry, and for entry 2. -/
theorem witness_accin : ∀ v ∈ [5, 2 ^ 63 + 2 ^ 37, 2 ^ 63 + 200 * 2 ^ 46, 2 ^ 63 + 3 * 2 ^ 54, 2 ^ 63 + 2 * 2 ^ 54],
    ∃ s s1 g b, Issues (.mts 0x65 (.s 1)) false s s1 g b ∧ g.readOne (.s 1) = some (dw v)
      ∧ ((∃ e ∈ aget (ctxOf s1 b.ctx).colls (bits (dw v) 62 54), e.rooted = false ∧ bits (dw v) 31 0 % 32 = 0) ↔ v = 2 ^ 63 + 2 * 2 ^ 54)
      ∧ (bits (dw v) 53 46 + bits (dw v) 45 38 + 1 ≤ b.lapl ↔ v ≠ 2 ^ 63 + 200 * 2 ^ 46) := by
  intro v h

  simp only [List.mem_cons, List.not_mem_nil, or_false] at h
  obtain rfl | rfl | rfl | rfl | rfl := h
  · exact ⟨ready (.mts 0x65 (.s 1)) (withS [(1, 5)]), meets_of (by decide)⟩
  · exact ⟨ready (.mts 0x65 (.s 1)) (withS [(1, 2 ^ 63 + 2 ^ 37)]), meets_of (by decide)⟩
  · exact ⟨ready (.mts 0x65 (.s 1)) (withS [(1, 2 ^ 63 + 200 * 2 ^ 46)]), meets_of (by decide)⟩
  · exact ⟨ready (.mts 0x65 (.s 1)) (withS [(1, 2 ^ 63 + 3 * 2 ^ 54)]), meets_of (by decide)⟩
  · exact ⟨withC (fun c => { c with colls := [(2, entry2 false 0)] }) (ready (.mts 0x65 (.s 1)) (withS [(1, 2 ^ 63 + 2 * 2 ^ 54)])), meets_of (by decide)⟩

/-- A group beside which another of its block lives. -/
theorem witness_exit_beside : ∃ s s1 g b, Issues .exit true s s1 g b ∧ g.inRoutine = false
    ∧ ∃ x ∈ aget s1.groups 97, 97 ≠ s1.cur ∧ x.blk = g.blk ∧ x.ended = false :=
  ⟨barred false pair (ready .exit id), meets_of (by decide)⟩

/-- RECORD where the context logs: no book, and one with room whose frame is sound. -/
theorem witness_record_books : (∃ s s1 g b, Issues (.record (.s 1)) false s s1 g b ∧ g.inh = false ∧ (ctxOf s1 b.ctx).place = true ∧ (bookOf s1 (b.core / 40)).arm = false)
    ∧ ∃ s s1 g b, Issues (.record (.s 1)) false s s1 g b ∧ g.inh = false ∧ (ctxOf s1 b.ctx).place = true ∧ (bookOf s1 (b.core / 40)).arm = true
      ∧ inError s1 (9 * 65536 + 65472) 32 = false ∧ ∀ j < 32, inTables (9 * 65536 + 65472 + j) = false :=
  ⟨⟨withC (fun x => { x with place := true }) (ready (.record (.s 1)) id), meets_of (by decide)⟩,
   ⟨logging 65472 (ready (.record (.s 1)) id), meets_of (by decide)⟩⟩

/-- The USER record that RECORD appends: its type, context and count, and the value (R408). -/
theorem test_record : (match exec (.record (.s 1)) (logging 32 (ready (.record (.s 1)) (withS [(1, 0x1234)]))) with
    | .next t => some (recordAt t (9 * 65536 + 32) 0, recordAt t (9 * 65536 + 32) 2, (bookOf t 0).head, (bookOf t 0).count)
    | _ => none) = some (4 * 2 ^ 60 + 2 ^ 46, 0x1234, 64, 1) := by decide +kernel

/-- A fence with an update held on its way to a module whose link retrains, and one whose 2 ms are over. -/
theorem witness_fence_waits :
    (∃ s s1 g b, Issues (.fenceRel 1 .sys) true s s1 g b ∧ g.fenceAt = none ∧ heldUpd s1 s1.cur = true)
    ∧ ∃ s s1 g b, Issues (.fenceRel 1 .sys) true s s1 g b ∧ g.fenceAt = some 3 ∧ 3 + 5000000 ≤ s1.clock :=
  ⟨⟨{ ready (.fenceRel 1 .sys) id with upd := [⟨96, 0, 0, 2 ^ 51 + 2 ^ 39, 8, .add, 3, none, none, false, false⟩], reach := [(18, 2)], uports := (reaching .retraining).uports },
      meets_of (by decide)⟩,
   ⟨{ ready (.fenceRel 1 .sys) (fun g => { g with fenceAt := some 3 }) with clock := 5000003 }, meets_of (by decide)⟩⟩

/-- QBIND of a register that is bound to the same slot, and halted. -/
theorem witness_rebind : ∃ s s1 g b, Issues (.qbind 4 (.s 1)) false s s1 g b ∧ g.readS (.s 1) = dw 0x101
    ∧ (∃ x ∈ aget g.qregs 4, x.slot = 1 ∧ x.halted = true) ∧ 1 < (ctxOf s1 b.ctx).epMax ∧ ∃ e ∈ aget s1.eps 65, e.kind = 1 :=
  ⟨bound [] { qreg 0 [] with halted := true } (ready (.qbind 4 (.s 1)) (withS [(1, 0x101)])), meets_of (by decide)⟩

theorem test_rebind : (after (.qbind 4 (.s 1)) (bound [] { qreg 0 [] with halted := true } (ready (.qbind 4 (.s 1)) (withS [(1, 0x101)])))).map (fun g => g.qregs)
    = some [(4, qreg 0 [])] := by decide

/-- An endpoint whose context is SAVING: what its record gives is held (R92). -/
theorem witness_late : let s := withC (fun c => { c with st := .saving }) (bound [{ record [3] with owner := some (96, 4) }] (qreg 1 []) (ready .nop id))
    (∃ r ∈ (queueRecs s (.ep 1 1)).head?, r.owner = some (96, 4)) ∧ (ctxOf s 1).st ≠ .resident
      ∧ (finishHead s (.ep 1 1) 0 0).lateDone.length = 1 := by decide +kernel

/-- An ill-formed launch record behind a launch of its queue. -/
theorem witness_ill_waits : let s := { sys [record [0x01, 2 ^ 55]] with launches := [(2, { bootLaunch State.reset 0 with detached := false, queue := q0 })] }
    startable s q0 = true ∧ recType (top s q0) = 1 ∧ launchOk (top s q0) = false ∧ ∃ e ∈ s.launches, e.2.queue = q0 ∧ e.2.detached = false := by decide +kernel

/-! What merges, waits and is refused. -/

/-- Can a buffered update merge at home. -/
def mergeB (s : State) (u : Upd) : Bool :=
  decide (u.cell = none ∧ u.note = none ∧ u.bad = false) && decide ((u.size = 4 ∨ u.size = 8) ∧ u.pa % u.size = 0)
    && decide (paKind u.pa = .hbm ∧ wayTo s (partOfDie s (u.core / 40)) u.pa = .free)
    && decide (inError s u.pa u.size = false ∧ inTables u.pa = false) && answersB s evPutm && calmB { s with upd := [], posted := [] }

theorem merge_of {s : State} {u : Upd} (h : mergeB s u = true) : Mergeable s u := by
  simp only [mergeB, Bool.and_eq_true, decide_eq_true_eq] at h
  obtain ⟨⟨⟨⟨⟨h1, h2⟩, h3⟩, h4⟩, h5⟩, h6⟩ := h
  refine ⟨h1, h2, h3, h4, ?_, calm_of h6⟩
  have h0 : protoId s u.pa = 0 := by
    simp only [answersB, Bool.and_eq_true, List.isEmpty_iff] at h5
    simp [protoId, h5.1]
  simpa [updEv, h0] using takes_of h5 u.pa

/-- An update of the placed group's dword at 0x10200, and one at 0x10280, in another line; the group arrives at a barrier, exits,
pushes, or fences. -/
def updating (s : State) : State :=
  let s := put 0x10200 [5] s
  let at_ (va : Nat) : Upd := ⟨96, 0, (trOf s 1 va).key, (trOf s 1 va).pa, 8, .add, 3, none, none, false, false⟩
  { s with upd := [at_ 0x10200, at_ 0x10280] }

/-- The updates of `updating` can merge, and lie in two lines. -/
def mergesB (s : State) : Bool :=
  s.upd.all (mergeB s) && decide (s.upd.map (·.grp) = [s.cur, s.cur]) && decide ((s.upd.map fun u => u.pa / 128).Nodup)

theorem merges_of {s : State} (h : mergesB s = true) : s.upd.length = 2 ∧ (∀ u ∈ s.upd, u.grp = s.cur ∧ Mergeable s u)
    ∧ s.upd.Pairwise fun u v => ¬sameLine u v := by
  simp only [mergesB, Bool.and_eq_true, List.all_eq_true, decide_eq_true_eq] at h
  obtain ⟨⟨h1, h2⟩, h3⟩ := h
  refine ⟨by simpa using congrArg List.length h2, fun u hu => ⟨?_, merge_of (h1 u hu)⟩, ?_⟩
  · have : u.grp ∈ s.upd.map (·.grp) := List.mem_map_of_mem hu
    rw [h2] at this
    simpa using this
  · exact (List.pairwise_map.mp h3).imp fun hne h => hne h.2

theorem witness_merging : ∀ i ∈ [Instr.barArr 2, .barSync 1 2, .exit, .fenceRel 1 .sys],
    ∃ s s1 g b, Issues i true s s1 g b ∧ s1.upd.length = 2 ∧ (∀ u ∈ s1.upd, u.grp = s1.cur ∧ Mergeable s1 u)
      ∧ (s1.upd.Pairwise fun u v => ¬sameLine u v) ∧ mayArrive g b false 2 (barOf s1 b g.blk false 2) := by
  intro i hi
  have h : ([Instr.barArr 2, .barSync 1 2, .exit, .fenceRel 1 .sys].all fun i => issuing i true (updating (barred false pair (ready i id))) fun s g b =>
      mergesB s && decide (mayArrive g b false 2 (barOf s b g.blk false 2))) = true := by decide +kernel
  obtain ⟨s1, g, b, h1, h2⟩ := issuing_meets (List.all_eq_true.mp h i hi)
  obtain ⟨h2, h3⟩ := and_of h2
  obtain ⟨h4, h5, h6⟩ := merges_of h2
  exact ⟨_, s1, g, b, h1, h4, h5, h6, of_decide_eq_true h3⟩

/-- An arrival merges both updates: 5 + 3 and 0 + 3, and nothing is left buffered (R166, R178). -/
theorem test_arrival_merges : (match exec (.barArr 2) (updating (barred false pair (ready (.barArr 2) id))) with
    | .next t => some (t.upd.length, numAt t (trOf t 1 0x10200).key (trOf t 1 0x10200).pa 8, numAt t (trOf t 1 0x10280).key (trOf t 1 0x10280).pa 8)
    | _ => none) = some (0, 8, 3) := by decide +kernel

/-- A push with updates of its group on their way. -/
theorem witness_push_merges : ∃ s s1 g b, Issues (.qpush 4 1 3) false s s1 g b ∧ s1.upd.length = 2 ∧ aRising s1.groups = true
    ∧ (aget g.qregs 4).isSome = true :=
  ⟨updating (queued (.qpush 4 1 3) (qreg 0 [])), meets_of (by decide +kernel)⟩

/-- Misuse of a cluster barrier, of BAR.SYNC and of CBAR.SYNC: no such barrier, no member, arrived already; and a SYNC that has
arrived before and waits, its phase open, or complete. -/
theorem witness_sync_misuse : ∀ e ∈ [(Instr.cbarArr 8, Instr.cbarArr 2, true), (.barSync 1 63, .barSync 1 2, false), (.cbarSync 1 8, .cbarSync 1 2, true)],
    (∃ s s1 g b, Issues e.1 true s s1 g b ∧ barCount b e.2.2 ≤ if e.2.2 then 8 else 63)
    ∧ (∃ s s1 g b, Issues e.2.1 true s s1 g b ∧ g.wait = none ∧ g.synced = [] ∧ (barOf s1 b g.blk e.2.2 2).mask.getLsbD (memberNum g b e.2.2) = false)
    ∧ ∃ s s1 g b, Issues e.2.1 true s s1 g b ∧ g.wait = none ∧ g.synced = [] ∧ (barOf s1 b g.blk e.2.2 2).mask.getLsbD (memberNum g b e.2.2) = true
        ∧ (barOf s1 b g.blk e.2.2 2).arr.getLsbD (memberNum g b e.2.2) = true := by
  intro e he
  simp only [List.mem_cons, List.not_mem_nil, or_false] at he
  obtain rfl | rfl | rfl := he
  · exact ⟨⟨ready (.cbarArr 8) id, meets_of (by decide)⟩, ⟨barred true { pair with mask := 2 } (ready (.cbarArr 2) id), meets_of (by decide)⟩,
      ⟨barred true { pair with arr := 1 } (ready (.cbarArr 2) id), meets_of (by decide)⟩⟩
  · exact ⟨⟨ready (.barSync 1 63) id, meets_of (by decide)⟩, ⟨barred false { pair with mask := 2 } (ready (.barSync 1 2) id), meets_of (by decide)⟩,
      ⟨barred false { pair with arr := 1 } (ready (.barSync 1 2) id), meets_of (by decide)⟩⟩
  · exact ⟨⟨ready (.cbarSync 1 8) id, meets_of (by decide)⟩, ⟨barred true { pair with mask := 2 } (ready (.cbarSync 1 2) id), meets_of (by decide)⟩,
      ⟨barred true { pair with arr := 1 } (ready (.cbarSync 1 2) id), meets_of (by decide)⟩⟩

/-- A SYNC that has arrived before, in a phase that is open, and in one that is complete. -/
theorem witness_synced : ∀ clu last : Bool, let i : Instr := if clu then .cbarSync 1 2 else .barSync 1 2
    ∃ s s1 g b, Issues i true s s1 g b ∧ g.synced.contains (clu, 2, g.pc) = true
      ∧ (barOf s1 b g.blk clu 2).seen.getLsbD (memberNum g b clu) = true
      ∧ (agetD (barOf s1 b g.blk clu 2).lph (memberNum g b clu) 0 = (barOf s1 b g.blk clu 2).phase ↔ last = false) := by
  intro clu last
  cases clu <;> cases last
  · exact ⟨barred false { pair with seen := 1, lph := [(0, 3)], arr := 1 } (ready (.barSync 1 2) fun g => { g with synced := [(false, 2, g.pc)] }), meets_of (by decide)⟩
  · exact ⟨barred false { pair with seen := 1, lph := [(0, 2)] } (ready (.barSync 1 2) fun g => { g with synced := [(false, 2, g.pc)] }), meets_of (by decide)⟩
  · exact ⟨barred true { pair with seen := 1, lph := [(0, 3)], arr := 1 } (ready (.cbarSync 1 2) fun g => { g with synced := [(true, 2, g.pc)] }), meets_of (by decide)⟩
  · exact ⟨barred true { pair with seen := 1, lph := [(0, 2)] } (ready (.cbarSync 1 2) fun g => { g with synced := [(true, 2, g.pc)] }), meets_of (by decide)⟩

/-- The reasons of R166 in TRAPVAL: a cluster barrier that is not there, one of which the group is no member, a second arrival. -/
theorem test_sync_misuse : ∀ e ∈ ([(.cbarArr 8, pair, 0x10108), (.cbarArr 2, { pair with mask := 2 }, 0x10202), (.cbarSync 1 2, { pair with arr := 1 }, 0x10302)]
      : List (Instr × Bar × Nat)), (after e.1 (handled (barred true e.2.1 (ready e.1 id)))).map (fun g => (g.trapCause.toNat % 256, g.trapVal.toNat))
    = some (Trap.barrierMask.code, e.2.2) := by decide

/-- A closed batch holds the copy record still at its engine, and the one whose completion is held. -/
theorem witness_batch_copies : ∃ s s1 g b, Issues .batch true s s1 g b ∧ (g.batches.filter fun x => x.left != 0).length < 16
    ∧ (∃ e ∈ aget s1.eps 65, ∃ r ∈ e.recs[0]?, r.copy = true ∧ r.batch = none ∧ r.owner.map Prod.fst = some s1.cur)
    ∧ ∃ x ∈ s1.lateDone[0]?, x.done.copy = true ∧ x.done.batch = none ∧ x.done.owner.map Prod.fst = some s1.cur :=
  let r : QRec := { record [3] with copy := true, owner := some (96, 4) }
  ⟨{ bound [r] (qreg 2 []) (ready .batch fun g => { g with openRecs := 2 }) with lateDone := [⟨1, r, 0, 0⟩] }, meets_of (by decide)⟩

/-- The same with helper lanes alone. -/
def helped (s : State) : State := { s with groups := amod s.groups 96 fun g => { g with lmem := 0 } }

/-- Helper lanes alone at a spill and a fill whose operand is out of range. -/
theorem witness_spill_helpers : ∀ store : Bool, ∀ j ∈ [2 ^ 32, 2], ∃ s s1 g b, Issues (if store then Instr.spl 3 (.s 1) 15 0 else .fil 3 (.s 1) 15 0) false s s1 g b
    ∧ bits (g.readS (.s 1)) 63 0 = j ∧ (ctxOf s1 b.ctx).pinned = false ∧ (headerOf s1 b.launch).privLane / 8 ≤ 2
    ∧ g.lanesOn ≠ [] ∧ ∀ l ∈ g.lanesOn, g.isMember l = false := by
  intro store j hj
  simp only [List.mem_cons, List.not_mem_nil, or_false] at hj
  obtain rfl | rfl := hj <;> cases store
  · exact ⟨helped (spill false false (2 ^ 32)), meets_of (by decide)⟩
  · exact ⟨helped (spill true false (2 ^ 32)), meets_of (by decide)⟩
  · exact ⟨helped (spill false false 2), meets_of (by decide)⟩
  · exact ⟨helped (spill true false 2), meets_of (by decide)⟩

/-! Commands with a collective table, and what refuses them (R84, R87, R380). -/

/-- CTX_DEFINE or CTX_UPDATE of context 5, whose descriptor names a table of one entry at an address; the table at 0x20100 of
context 5 holds an entry, and the rank map 0, 1 stands behind it. -/
def tabled (ty mask tab : Nat) (entry : List Nat) : State :=
  let s := withPage (mem0 0x10600 [5 + 64 * 2 ^ 32, 0, 0x30000, 0x20000, 1, tab, 1] (sys [record [ty + 5 * 256, 0x10600, mask]])) 5 0x20000 6
  let t := trOf s 5 0x20100
  writeRaw s t.key t.pa (((entry ++ [0x10000]).map fun n => (List.range 8).map fun k => BitVec.ofNat 8 (n / 256 ^ k)).flatten)

/-- An entry of two ranks over a page at 0x40000 in FP32. -/
def goodEntry : List Nat := [0x40000 + 256 + 1, 1, 1, 0x20800, 0x20808, 0x20140, 10, 0]

/-- The read of a descriptor, and the command once it has read it. -/
def reading (s : State) : State × EngVal := engReadSpan (startHead s q0) q0 0 0x10600 128 (queueDie s q0)
def afterRead (s : State) : State := setBuf (reading s).1 q0 (bytesAt s (trOf s 0 0x10600) 128)

/-- A read that leaves all but the directory as it was. -/
theorem hasRead_of {s : State} (h1 : (reading s).1 = { startHead s q0 with dir := (reading s).1.dir })
    (h2 : (reading s).1 = { s with queues := (reading s).1.queues, ctxs := (reading s).1.ctxs, dir := (reading s).1.dir }) :
    HasRead s q0 (trOf s 0 0x10600) 128 (afterRead s) := by
  refine ⟨(reading s).1, ⟨?_, fun key pa => ?_⟩, rfl⟩
  · rw [h1]
  · rw [h2]; rfl

/-- A table that is well-formed, one that is not, and one that cannot be read. -/
theorem witness_tables_read : ∀ e ∈ ([(0x20100, goodEntry, .ok [(0, collOf (goodEntry.map dw) [0, 1])]), (0x20100, [3], .bad), (0x30100, [], .unread)]
      : List (Nat × List Nat × CollRes)),
    let s := withCtx 5 .resident (tabled 0x21 2 e.1 e.2.1)
    let t := readTable (afterRead s) q0 5 (dw e.1) 1
    Command s q0 0x21 128 true (top s q0) [] ∧ Calm s ∧ AgentReaches s q0 0 0x10600 128 false (trOf s 0 0x10600)
      ∧ HasRead s q0 (trOf s 0 0x10600) 128 (afterRead s)
      ∧ bits (dwd (top s q0).dw 2) 2 0 = 2 ∧ descOk (dwordsAt s (trOf s 0 0x10600) 16) 5 = true ∧ t.2 = e.2.2
      ∧ (aget t.1.ctxs 5).map (fun x => (x.st, x.colls)) = some (.resident, []) ∧ (aget t.1.keys 0).map KeySlot.retiring ≠ some true
      ∧ t.1.rounds = [] ∧ t.1.blocks = [] := by
  intro e he
  simp only [List.mem_cons, List.not_mem_nil, or_false] at he
  obtain rfl | rfl | rfl := he <;>
    exact ⟨⟨head_of (by decide), rfl, rfl⟩, calm_of (by decide +kernel), agent_of (by decide +kernel) q0,
      hasRead_of (by decide +kernel) (by decide +kernel), by decide +kernel⟩

/-- The same for CTX_DEFINE, and a table whose page a fill is under way for: its read waits. -/
theorem witness_define_tables : ∀ e ∈ ([(0x20100, goodEntry, .ok [(0, collOf (goodEntry.map dw) [0, 1])]), (0x20100, [3], .bad), (0x30100, [], .unread)]
      : List (Nat × List Nat × CollRes)),
    let s := tabled 0x20 0 e.1 e.2.1
    Command s q0 0x20 128 false (top s q0) [] ∧ Calm s ∧ AgentReaches s q0 0 0x10600 128 false (trOf s 0 0x10600) ∧ ahas s.ctxs 5 = false
      ∧ HasRead s q0 (trOf s 0 0x10600) 128 (afterRead s) ∧ descOk (dwordsAt s (trOf s 0 0x10600) 16) 5 = true
      ∧ (readTable (afterRead s) q0 5 (dw e.1) 1).2 = e.2.2 := by
  intro e he
  simp only [List.mem_cons, List.not_mem_nil, or_false] at he
  obtain rfl | rfl | rfl := he <;>
    exact ⟨⟨head_of (by decide), rfl, rfl⟩, calm_of (by decide +kernel), agent_of (by decide +kernel) q0, by decide,
      hasRead_of (by decide +kernel) (by decide +kernel), by decide +kernel⟩

/-- The page of a table in a state. -/
def tableIn (st : PState) : State :=
  let s := tabled 0x20 0 0x20100 goodEntry
  { s with frames := amod s.frames 6 fun f => { f with st := st } }

theorem witness_table_waits : let s := tableIn .requested
    (readTable (afterRead s) q0 5 (dw 0x20100) 1).2 = .wait ∧ HasRead s q0 (trOf s 0 0x10600) 128 (afterRead s) :=
  ⟨by decide +kernel, hasRead_of (by decide +kernel) (by decide +kernel)⟩

/-- CTX_UPDATE of a context that is not there, or that is WIPING; with a descriptor of another context; without MASK bit 1; and
KEY_INSTALL of a slot in use; a key slot that is retiring. -/
theorem witness_update_refusals :
    aget (commanded 0x21 5 0x10600 5).ctxs 5 = none
    ∧ (aget (withCtx 5 .wiping (commanded 0x21 5 0x10600 5)).ctxs 5).map Ctx.st = some .wiping
    ∧ (let s := withCtx 4 .resident (commanded 0x21 4 0x10600 5); descOk (dwordsAt s (trOf s 0 0x10600) 16) 4 = false)
    ∧ (let s := withCtx 5 .resident (commanded 0x21 5 0x10600 5)
       (bits (dwd (top s q0).dw 2) 2 0).testBit 1 = false ∧ (∀ e, aget s.keys 0 = some e → e.retiring = false) ∧ (ctxOf s 5).collsNew = none)
    ∧ (let s := { withCtx 5 .resident (mem0 0x10600 [5 + 64 * 2 ^ 32 + 3 * 4096, 0, 0x30000, 0x20000, 1] (commanded 0x21 5 0x10600 5)) with keys := [(0, ⟨false, []⟩), (3, ⟨true, []⟩)] }
       agentB s 0 0x10600 128 false (trOf s 0 0x10600) = true ∧ descOk (dwordsAt s (trOf s 0 0x10600) 16) 5 = true
         ∧ (ctxOfDesc (dwordsAt s (trOf s 0 0x10600) 16)).keySlot = 3 ∧ (aget s.keys 3).map KeySlot.retiring = some true)
    ∧ (aget { commanded 0x25 5 0x10600 0 with keys := [(0, ⟨false, []⟩), (5, ⟨false, []⟩)] }.keys 5).isSome = true := by
  refine ⟨by decide, by decide, by decide +kernel, ⟨by decide, fun e h => ?_, by decide⟩, by decide +kernel, by decide⟩
  revert h; revert e; decide

/-- CTX_DEFINE, CTX_UPDATE and KEY_INSTALL whose ADDR has no page and no backing. -/
theorem witness_unreadable : ∀ e ∈ [(Instr.ctxDefine q0, 0x20, 128, false), (.ctxUpdate q0, 0x21, 128, true), (.keyInstall q0, 0x25, 64, false)],
    let s0 := commanded e.2.1 5 0x90000 0
    let s := if e.2.1 = 0x21 then withCtx 5 .resident s0 else s0
    commands e.1 = some (q0, e.2.1, e.2.2.1, e.2.2.2) ∧ Command s q0 e.2.1 e.2.2.1 e.2.2.2 (top s q0) []
      ∧ walk s 0 0x90000 = none ∧ backingOf (ctxOf s 0) 9 = none ∧ (e.2.1 = 0x20 → aget s.ctxs 5 = none)
      ∧ (e.2.1 = 0x21 → (aget s.ctxs 5).map Ctx.st = some .resident) := by
  intro e he
  simp only [List.mem_cons, List.not_mem_nil, or_false] at he
  obtain rfl | rfl | rfl := he <;> exact ⟨rfl, ⟨head_of (by decide), rfl, rfl⟩, by decide +kernel⟩

/-- The record at the head of queue 0 with an event at 0x10700. -/
def eventAt (s : State) : State :=
  { s with queues := amod s.queues 0 fun x => { x with recs := x.recs.map fun r => { r with dw := (r.dw ++ List.replicate 8 0).take 7 ++ [0x10700] } } }

/-- What each refusal completes with: the status, by the event of the command; a table that is put into force. -/
theorem test_command_statuses : ∀ e ∈ ([(.ctxUpdate q0, commanded 0x21 5 0x10600 5, 2), (.ctxUpdate q0, withCtx 5 .wiping (commanded 0x21 5 0x10600 5), 9),
      (.ctxUpdate q0, withCtx 5 .resident (tabled 0x21 2 0x20100 [3]), 7), (.ctxDefine q0, tabled 0x20 0 0x30100 [], 10),
      (.keyInstall q0, { commanded 0x25 5 0x10600 0 with keys := [(0, ⟨false, []⟩), (5, ⟨false, []⟩)] }, 4), (.ctxDefine q0, commanded 0x20 5 0x90000 0, 10)]
        : List (Instr × State × Nat)),
    seen e.1 (eventAt e.2.1) (fun t => some (at0 t 0x10700 % 256)) = some e.2.2 := by decide +kernel

theorem test_table_update : seen (.ctxUpdate q0) (withCtx 5 .resident (tabled 0x21 2 0x20100 goodEntry)) (fun t => (aget t.ctxs 5).map fun x =>
    (x.collTab, x.collN, x.colls.map fun e => (e.1, e.2.nrank, e.2.pages))) = some (0x20100, 1, [(0, 2, 1)]) := by decide +kernel

/-! Contexts that are saved, destroyed and chosen; placements; dumps (R84, R85, R90, R93, R123). -/

/-- An idempotent region of four instructions, entered with nothing on the stack. -/
def latched : RegionLatch := ⟨0x10000, 0x10010, 0x10000, 1, 0, 0, [], 0, 0, 0, 0, false, .none⟩

/-- A context in a state, with a launch, a cluster and a block on a core, and three groups: one at a barrier, one that runs in an
idempotent region, and one that runs. -/
def occupied (st : CState) (s : State) : State :=
  let g (i : Nat) (x : Group) : Nat × Group := (96 + i, { x with blk := 3, idx := i, slot := i })
  { withCtx 5 st s with
    launches := [(1, { bootLaunch State.reset 0 with ctx := 5, seq := 4 })]
    clusters := [(2, { launch := 1, num := 0, die := 0, bay := 0, size := 1 })]
    blocks := [(3, { bootBlock State.reset 5 with groups := 3, vregs := 1, lapl := 0, spadKB := 0 })]
    groups := [g 0 { noOne with st := .blocked, wait := some (.barWait 1 2, .bar false 2) }, g 1 { noOne with region := some latched }, g 2 noOne] }

theorem witness_suspends :
    (let s := occupied .resident (commanded 0x22 5 0 0)
     Command s q0 0x22 0 false (top s q0) [] ∧ (aget (startHead s q0).ctxs 5).map Ctx.st = some .resident
       ∧ (assignSlots (startHead s q0) 5 (placedBlocks (startHead s q0) 5)).isSome = true ∧ (∃ e ∈ s.blocks, e.2.ctx = 5 ∧ e.2.st = .placed)
       ∧ aRising s.blocks = true ∧ aRising s.groups = true ∧ (∀ e ∈ s.clusters, e.2.aborted = false)
       ∧ (aget s.groups 96).map Group.st = some .blocked ∧ ((aget s.groups 97).bind Group.region).isSome = true)
    ∧ (let s := withCtx 5 .loading (commanded 0x22 5 0 0); Command s q0 0x22 0 false (top s q0) [] ∧ (aget (startHead s q0).ctxs 5).map Ctx.st = some .loading)
    ∧ ∀ st ∈ [CState.saving, .defined], let s := withCtx 5 st (sys [{ record [0x22 + 5 * 256] with work := 1, started := some 0 }])
      Head s q0 0x22 (fun r => cmdOk r 0 false) (top s q0) [] ∧ (top s q0).work = 1 ∧ (top s q0).started ≠ none ∧ (ctxOf s 5).st = st := by
  refine ⟨⟨⟨head_of (by decide), rfl, rfl⟩, by decide +kernel⟩, ⟨⟨head_of (by decide), rfl, rfl⟩, by decide⟩, fun st hs => ?_⟩
  simp only [List.mem_cons, List.not_mem_nil, or_false] at hs
  obtain rfl | rfl := hs <;> exact ⟨head_of (by decide), rfl, by decide, rfl⟩

/-- The groups that wait at the barrier or run in the region are saved at once, KIND 1 and 2; the third goes on (R90). -/
theorem test_suspend : seen (.ctxSuspend q0) (occupied .resident (commanded 0x22 5 0 0)) (fun t => some ((ctxOf t 5).st, t.groups.map fun e => e.2.st, (t.groups.take 2).map fun e => e.2.kind))
    = some (.saving, [.saved, .saved, .running], [.dump, .restart]) := by decide +kernel

/-- CTX_DESTROY with kernels, a queued launch and a collective entry; of a context that is WIPING, LOADING or SAVING; one under way. -/
def destroying (st : CState) (work : Nat) : State :=
  let s := occupied st (sys [{ record [0x24 + 5 * 256] with work := work, started := if work = 1 then some 0 else none }])
  { s with ctxs := amod s.ctxs 5 fun x => { x with colls := [(2, { entry2 false 0 with myRank := 1 })] }
           queues := s.queues ++ [(7, { HostQ.zero with ctx := 5, recs := [{ record [1] with seq := 9 }] })] }

theorem witness_kernels_end : ∀ st ∈ [CState.defined, .resident, .wiping, .loading, .saving], ∀ work ∈ [0, 1], let s := destroying st work
    Head s q0 0x24 (fun r => cmdOk r 0 false) (top s q0) [] ∧ (top s q0).work = work ∧ ((top s q0).started = none ↔ work = 0)
      ∧ (aget s.ctxs 5).map Ctx.st = some st ∧ queueCtx s q0 ≠ 5 ∧ s.draining = [] ∧ s.pageOps = []
      ∧ aRising s.launches = true ∧ aRising s.blocks = true ∧ aRising s.groups = true ∧ (aget s.launches 1).map Launch.ctx = some 5 := by
  intro st hs work hw
  simp only [List.mem_cons, List.not_mem_nil, or_false] at hs hw
  obtain rfl | rfl | rfl | rfl | rfl := hs <;> obtain rfl | rfl := hw <;> exact ⟨head_of (by decide), by decide +kernel⟩

/-- Both launches are logged as aborted, the running one first; no event is written; ABORT goes to rank 0 (R93, R390). -/
theorem test_destroy : seen (.ctxDestroy q0) (destroying .resident 0) (fun t => some (t.log, t.collOut, t.blocks.length, t.groups.length, t.queues.map Prod.fst))
    = some ([.aborted 5 4, .aborted 5 9], [.abort 5 2 0], 0, 0, [0]) := by decide +kernel

/-- KEY_RETIRE of a slot that is EMPTY; one under way whose slot is still there; one whose slot is gone. -/
theorem witness_retires_keys : ∀ e ∈ [(0, false), (1, true), (1, false)],
    let s0 := sys [{ record [0x26 + 3 * 256] with work := e.1, started := if e.1 = 1 then some 0 else none }]
    let s := if e.2 then { s0 with keys := s0.keys ++ [(3, ⟨true, []⟩)] } else s0
    Head s q0 0x26 (fun r => cmdOk r 0 false) (top s q0) [] ∧ (top s q0).work = e.1 ∧ ((top s q0).started = none ↔ e.1 = 0) ∧ (aget s.keys 3).isSome = e.2 := by
  intro e he
  simp only [List.mem_cons, List.not_mem_nil, or_false] at he
  obtain rfl | rfl | rfl := he <;> exact ⟨head_of (by decide), by decide⟩

/-- A context that may be released, and none: with a block on a core, and with a command in flight. -/
theorem witness_victims : idleVictim (waiting 2) = some 2 ∧ MayRelease (waiting 2) (2, { st := .resident, served := 499 })
    ∧ (∀ e ∈ (occupied .resident State.reset).ctxs, ¬MayRelease (occupied .resident State.reset) e)
    ∧ idleVictim (occupied .resident State.reset) = none
    ∧ idleVictim { withCtx 5 .resident State.reset with queues := [(7, { HostQ.zero with ctx := 5, recs := [{ record [4] with started := some 0 }] })] } = none := by
  refine ⟨by decide +kernel, ⟨by decide, rfl, by decide, by decide⟩, ?_, by decide +kernel, by decide +kernel⟩
  rw [show (occupied .resident State.reset).ctxs = [(0, Ctx.system), (5, { st := .resident, saveBase := 0x20000, savePages := 1 })] from by decide]
  intro e he
  simp only [List.mem_cons, List.not_mem_nil, or_false] at he
  obtain rfl | rfl := he
  · exact fun h => h.1 rfl
  · exact fun h => absurd rfl (h.2.2.1 (3, _) (List.mem_singleton.mpr rfl) rfl)

/-- The placing launch with other needs. -/
def needing (f : Header → Header) : Launch :=
  { bootLaunch State.reset 0 with st := .placing, gx := 2, nextClu := 0, args := 0x1234, hdr := some (f { bootHeader with csize := 2 }) }

/-- The first bay of the scan that fits; none where no core has the registers; a book without room. -/
theorem witness_spots : (let x : Nat × Nat := (0, 0)
      let h : Header := { bootHeader with csize := 2 }
      (needing id).hdr = some h ∧ h.pinned = false ∧ (needing id).early = false ∧ x ∈ baysOf placing 0 ∧ 2 ≤ (takersOf placing h x).length
        ∧ (∀ y ∈ baysOf placing 0, scanRank placing 0 x ≤ scanRank placing 0 y) ∧ ((ctxOf placing 0).place && bookFull placing 0 2) = false)
    ∧ (∀ x ∈ baysOf placing 0, (takersOf placing { bootHeader with groups := 32, vregs := 16 } x).length = 0)
    ∧ (let s := { placing with ctxs := amod placing.ctxs 0 fun c => { c with place := true }, books := [(0, { arm := true, pages := 1, head := 65536 })] }
       ((ctxOf s 0).place && bookFull s 0 2) = true)
    ∧ scanRank { placing with lastBay := [(0, 12)] } 0 (1, 2) = 52 ∧ scanRank { placing with lastBay := [(0, 12)] } 0 (1, 3) = 13 := by
  decide +kernel

/-- The scan goes on after the bay used last, to bay 3 of die 1, whose cores are 48 to 51 (R15, R123). -/
theorem test_spots : (findSpot { placing with lastBay := [(0, 12)] } 0 (needing id) 2 true).map (fun x => (x.die, x.bay, x.cores.map Prod.fst)) = some (1, 3, [48, 49])
    ∧ findSpot placing 0 (needing fun h => { h with groups := 32, vregs := 16 }) 2 true = none := by decide +kernel

/-- Two launches that may be served, of one class and of two; one held back by an earlier one that waits too long. -/
theorem witness_serving_order : (let s := { placing with launches := placing.launches ++ [(3, { needing id with order := 2 })] }
      (placeOrder s 0).map Prod.fst = [2, 3])
    ∧ (let s := { placing with launches := placing.launches ++ [(3, { needing id with order := 2, cls := 1 })] }
      (placeOrder { s with launches := amod s.launches 2 fun l => { l with cls := 2 } } 0).map Prod.fst = [3, 2])
    ∧ (let s := { placing with launches := amod placing.launches 2 (fun l => { l with starved := true }) ++ [(3, { needing id with order := 2 })] }
      (placeOrder s 0).map Prod.fst = [2]) := by decide +kernel

/-- A group with state of every kind, whose block is to be dumped to the page at 0x30000. -/
def dumping (lost : Bool) : State :=
  let s := withC (fun c => { c with saveBase := 0x30000, savePages := 1 }) (withPage (preempted false) 1 0x30000 7)
  { s with clusters := amod s.clusters 2 fun c => { c with aborted := lost },
           groups := amod s.groups 96 fun g => { g with
             sregs := [(3, 77)], vregs := [(33, 0x1122334455667788), (64, 5)], preds := [(5, 7)], fmt := 0x123, lmem := 0xF0
             lc1 := { g.lc1 with active := true, count := 3, start := 0x10000, len := 2 }, stack := [⟨true, 4, 0x10010, 0xFF⟩, ⟨false, 0, 0x10020, 3⟩]
             gang := 9, mdata := 0x40, sig := 0x1234, trapVal := 6 } }

/-- The save slot lies in a page that takes every byte of the group, each at its own place. -/
theorem witness_dump : ∃ g b, aget (dumping false).groups 96 = some g ∧ aget (dumping false).blocks g.blk = some b ∧ b.pre = some 4 ∧ b.saveAt = some (0, 4096)
    ∧ (g.st = .running ∧ g.nopre = none ∧ g.fenceAt = none ∧ g.inRoutine = false ∧ g.pend = [] ∧ g.regBad = [])
    ∧ aRising g.vregs = true ∧ aRising g.preds = true ∧ g.stack.length ≤ 32 ∧ Calm (dumping false) ∧ (∀ c ∈ (dumping false).mem, c.1 % 2 ^ 52 < 2 ^ 51)
    ∧ ¬(∃ x, aget (dumping false).clusters b.clu = some x ∧ x.aborted = true)
    ∧ let s := dumping false
      let size := 1536 + 8192 * b.vregs
      let va := (ctxOf s b.ctx).saveBase.toNat + 4096 * 0 + 256 + g.idx * size
      (∀ o < size, ∃ w, walk s b.ctx (va + o) = some w ∧ paKind w.pa = .hbm ∧ wayTo s (partOfDie s (b.core / 40)) w.pa = .free
        ∧ inTables w.pa = false ∧ inError s w.pa 1 = false ∧ Takes s w.pa evNcwr ∧ Answers s w.pa evRecl)
      ∧ ∀ o < size, ∀ p < size, o ≠ p → keyOf s b.ctx (va + o) ≠ keyOf s b.ctx (va + p) := by
  refine ⟨agetD (dumping false).groups 96 noOne, agetD (dumping false).blocks 3 (bootBlock State.reset 1), by decide, by decide, by decide, by decide, by decide,
    by decide, by decide, by decide, calm_of (by decide +kernel), by decide +kernel, by decide, ?_, ?_⟩
  · intro o ho
    have hw := walk_shift (dumping false) 1 0x30100 o (by have : o < 9728 := ho; omega)
    rw [show walk (dumping false) 1 0x30100 = some (trOf (dumping false) 1 0x30100) from by decide +kernel] at hw
    have hk : paKind ((trOf (dumping false) 1 0x30100).pa + o) = .hbm :=
      paKind_hbm_shift _ o (by rw [show (trOf (dumping false) 1 0x30100).pa % 65536 = 256 from by decide +kernel]; have : o < 9728 := ho; omega) (by decide +kernel)
    refine ⟨_, hw, hk, way_hbm (by decide) hk _, ?_, ?_, takes_of (by decide +kernel) _, answers_of (by decide +kernel) _⟩
    · exact (inTables_shift _ o (by rw [show (trOf (dumping false) 1 0x30100).pa % 65536 = 256 from by decide +kernel]; have : o < 9728 := ho; omega)).trans (by decide +kernel)
    · simp [inError, show (dumping false).bad = [] from by decide, show (dumping false).latent = [] from by decide]
  · intro o ho p hp hne
    have h (j : Nat) (hj : j < 9728) : keyOf (dumping false) 1 (0x30100 + j) = memKey (trOf (dumping false) 1 0x30100).key ((trOf (dumping false) 1 0x30100).pa + j) := by
      have hw := walk_shift (dumping false) 1 0x30100 j (by omega)
      rw [show walk (dumping false) 1 0x30100 = some (trOf (dumping false) 1 0x30100) from by decide +kernel] at hw
      simp [keyOf, hw]
    have m (x : Nat) (hx : x < 9728) : memKey (trOf (dumping false) 1 0x30100).key ((trOf (dumping false) 1 0x30100).pa + x)
        = (trOf (dumping false) 1 0x30100).key * 2 ^ 52 + (trOf (dumping false) 1 0x30100).pa + x := by
      have : (trOf (dumping false) 1 0x30100).pa < 2 ^ 38 := by decide +kernel
      simp only [memKey, if_pos (show (trOf (dumping false) 1 0x30100).pa + x < 2 ^ 39 by omega), Nat.add_assoc]
    show keyOf (dumping false) 1 (0x30100 + o) ≠ keyOf (dumping false) 1 (0x30100 + p)
    rw [h o ho, h p hp, m o ho, m p hp]
    omega

/-- A group of a lost cluster halts instead (R396), beside another group of its block. -/
def dumpingTwo : State :=
  let s := dumping true
  { s with groups := aset s.groups 97 { agetD s.groups 96 noOne with idx := 1 },
           blocks := amod s.blocks 3 fun b => { b with groups := 2 } }

theorem witness_dump_lost : (∃ x ∈ aget dumpingTwo.clusters 2, x.aborted = true) ∧ ((aget dumpingTwo.groups 96).map Group.st = some .running)
    ∧ seen (.preemptFallback 96) dumpingTwo (fun t => (aget t.groups 96).map fun g => (g.st, g.trapCause.toNat % 256)) = some (.halted, Trap.clusterLost.code) := by
  decide +kernel

/-- Where R89 puts PC, the third scalar register, word 33 of v1, the top of the stack and GANG in the slot. -/
theorem test_dump : seen (.preemptFallback 96) (dumping false) (fun t => some ([0, 280, 1288, 384, 392, 1024 + 8192 + 480].map fun o =>
      numAt t (trOf t 1 (0x30100 + o)).key (trOf t 1 (0x30100 + o)).pa 8)) = some [0x10000, 77, 0x1122334455667788, 0x10020, 0x300000000, 9] := by decide +kernel

/-! More of what is told, waits and merges. -/

/-- The placed group with something in every register that MFS reads, in a module that is split. -/
def told : State :=
  let s := ready (.mfs (.v 1) 0x25) fun g => { g with exec := 4, sig := 0xABCD, gmask := 0x55, gheld := 3, grem := 9, inh := true, stack := [⟨true, 4, 0x10010, 0xFF⟩], lc1 := { g.lc1 with count := 7 }, lc2 := { g.lc2 with active := true, count := 9 } }
  { s with clock := 1000, part := .split, fuse := [(0, 5)], retired := [90], blocks := amod s.blocks 3 fun b => { b with id := 77, core := 85 }, launches := s.launches.map fun e => (e.1, { e.2 with gx := 9, gy := 8, gz := 7 }) }

/-- CLUSTERID, the grid, DIE, a loop counter, GROUPST, TIME, HARVEST of the own and of another partition, and rows beyond the 144 cores (R258). -/
def toldRows : List (Fin 16384 × Nat) :=
  [(0x25, 77), (0x27, 9), (0x28, 8), (0x29, 7), (0x31, 2), (0x40, 0), (0x41, 7), (0x42, 2 ^ 63 + 9), (0x50, 0),
    (0x63, 0x55 * 2 ^ 32 + 3 * 2 ^ 22 + 9 * 2 ^ 17 + 64 + 1), (0x70, 400), (0x100, 2 ^ 40 - 1), (0x102, 2 ^ 10), (0x140, 2 ^ 64 - 1), (0x152, 2 ^ 64 - 1)]

theorem witness_told : ∀ e ∈ toldRows, ∃ s s1 g b, Issues (.mfs (.v 1) e.1) false s s1 g b ∧ (sysReads s1 g b 2 e.1.val).isSome = true := by
  intro e he
  have h : (toldRows.all fun e => issuing (.mfs (.v 1) e.1) false told fun s g b => (sysReads s g b 2 e.1.val).isSome) = true := by decide
  obtain ⟨s1, g, b, h1, h2⟩ := issuing_meets (List.all_eq_true.mp h e he)
  exact ⟨told, s1, g, b, h1, h2⟩

theorem test_told : ∀ e ∈ toldRows, (after (.mfs (.v 1) e.1) told).map (fun g => (g.readR (.v 1) 2).toNat) = some e.2 := by decide

/-- A host's request of a module without power, and its read of a line with an update buffered. -/
def hostReads : State := let s := updating (ready .nop id); { s with upd := s.upd.drop 1 }
def hostReq : CohReq := ⟨(trOf hostReads 1 0x10280).key, (trOf hostReads 1 0x10280).pa, 0, 2, 40, .none⟩

theorem witness_host_merges :
    (let s := { State.reset with shut := true }
     (∀ e ∈ s.dir, e.2.ncwrWaits = false) ∧ s.shut = true)
    ∧ (∀ e ∈ hostReads.dir, e.2.ncwrWaits = false) ∧ hostReads.shut = false ∧ pageLogged hostReads hostReq.line = none ∧ cohReqOk hostReq = true
    ∧ paKind hostReq.line = .hbm ∧ inError hostReads hostReq.line 8 = false ∧ hostReads.posted = []
    ∧ ∃ u, hostReads.upd = [] ++ u :: [] ∧ u.touches hostReq.key hostReq.line 8 = true ∧ Mergeable hostReads u := by
  refine ⟨by decide, by decide, by decide, by decide, by decide, by decide, by decide, by decide, agetD [(0, (hostReads.upd[0]?).getD ⟨0, 0, 0, 0, 0, .add, 0, none, none, false, false⟩)] 0
    ⟨0, 0, 0, 0, 0, .add, 0, none, none, false, false⟩, by decide, by decide, merge_of (by decide +kernel)⟩

/-- The answer holds what the update left (R178); without power there is none. -/
theorem test_host_reads : seen (.ncrd hostReq) hostReads (fun t => some (t.ncOut, t.upd.length)) = some ([some [3, 0, 0, 0, 0, 0, 0, 0]], 0)
    ∧ seen (.ncrd hostReq) { hostReads with shut := true } (fun t => some (t.ncOut, t.upd.length)) = some ([], 1) := by decide +kernel

/-- The page engine invalidates the page of two buffered updates. -/
theorem witness_shootdown : let s := { updating (ready .nop id) with cur := 96 }
    let page := (trOf s 1 0x10200).pa / 65536
    (∃ f ∈ aget s.frames page, f.large = false) ∧ plainFrame page ∧ (∀ u ∈ s.upd, u.pa / 65536 = page ∧ u.pa % 65536 + u.size ≤ 65536)
      ∧ s.upd.length = 2 ∧ (∀ u ∈ s.upd, Mergeable s u) ∧ s.upd.Pairwise fun u v => ¬sameLine u v := by
  have h : mergesB { updating (ready .nop id) with cur := 96 } = true := by decide +kernel
  obtain ⟨h1, h2, h3⟩ := merges_of h
  exact ⟨by decide +kernel, by decide +kernel, by decide +kernel, h1, fun u hu => (h2 u hu).2, h3⟩

/-- Two lanes on one line, and a group that watches a dword of it. -/
def oneLine (g : Group) : Group := { twoLanes g with vregs := [(64, 0x10100), (65, 0x10108), (96, 1), (97, 5)] }

theorem witness_atomic_line : ∃ s s1 g b, Issues (.atomAdd (.v 1) (.v 2) 15 0) false s s1 g b ∧ Calm s1
    ∧ (∀ l ∈ (g.evalLanes (.v 1)).filter g.isMember, Passes s1 b .rmw 8 [evAtom] 15 (g.readB (.v 2) 0 l)) :=
  ⟨ready (.atomAdd (.v 1) (.v 2) 15 0) oneLine, lanes_pass (by decide)⟩

/-- No group watches anything, and no two lanes name one dword: each has its sum, whatever their order. -/
theorem test_atomic_line : (match exec (.atomAdd (.v 1) (.v 2) 15 0) (ready (.atomAdd (.v 1) (.v 2) 15 0) oneLine) with
    | .next t => some ([0x10100, 0x10108].map fun va => numAt t (trOf t 1 va).key (trOf t 1 va).pa 8)
    | _ => none) = some [1, 5] := by decide +kernel

/-- A queue's record, staged behind invalidations, when a record lands (R193). -/
def landing : State := { setDir hosted 0 0x50020 { st := 5, holders := 8, staged := some (15, req 8) } with cur := 0 }

theorem witness_landing : partOfPort landing 0 ≠ none ∧ (landing.pports[0]?).map Port.st = some .up ∧ landing.resetUntil ≤ landing.clock
    ∧ (∃ e ∈ landing.dir, e.2.ncwrWaits = true)
    ∧ (aget landing.queues 0).map (fun x => (x.halted, x.dying, x.recs.length, x.depth)) = some (false, false, 0, 256) := by decide

/-- Buffered updates at fences whose group lost a write, before and after the 2 ms (R182). -/
theorem witness_fences_merge : ∀ late : Bool, ∃ s s1 g b, Issues (.fenceRel 1 .sys) true s s1 g b ∧ s1.upd.length = 2 ∧ heldUpd s1 s1.cur = false
    ∧ (s1.posted.filter fun w => w.grp == s1.cur) = []
    ∧ ((flushUpd s1 fun u => u.grp == s1.cur).lostPeers.filter fun x => x.1 == s1.cur) ≠ []
    ∧ (late = true → g.fenceAt = some 3 ∧ 3 + 5000000 ≤ s1.clock) ∧ (late = false → g.fenceAt = none) := by
  intro late
  cases late
  · exact ⟨{ updating (ready (.fenceRel 1 .sys) id) with lostPeers := [(96, 2)] }, meets_of (by decide +kernel)⟩
  · exact ⟨{ updating (ready (.fenceRel 1 .sys) fun g => { g with fenceAt := some 3 }) with lostPeers := [(96, 2)], clock := 6000000 }, meets_of (by decide +kernel)⟩

/-- A word of the code was overwritten after the group's launch had started (R192). -/
def stepStale : State :=
  let s := placeWord State.reset 0x58000FFE
  { s with stale := [(memKey (trOf s 1 0x10000).key (trOf s 1 0x10000).pa / 4, [⟨0, none, [(bootBlock State.reset 1).launch]⟩])] }

theorem witness_step_older :
    chooseTurn stepStale = ((chooseTurn stepStale).1, some (.turn (.issue 96)))
    ∧ (let s0 := (chooseTurn stepStale).1
      let s1 := (issueRecord { s0 with cur := 96 } 96 (agetD s0.groups 96 noOne) (agetD s0.blocks 3 (bootBlock State.reset 1))).1
      let g := agetD s0.groups 96 noOne
      let b := agetD s0.blocks 3 (bootBlock State.reset 1)
      Ready s0 96 s1 g b ∧ Fetches s1 b g.pc (trOf s1 1 0x10000)
        ∧ (∃ e ∈ (agetD s1.stale (memKey (trOf s1 1 0x10000).key (trOf s1 1 0x10000).pa / 4) []).filter fun e => b.launch ∈ e.launches, e.word = 0)) :=
  ⟨by rfl, ⟨by decide, by decide, by decide, by decide, by rfl⟩, ⟨by decide, by decide, by decide, by decide, by decide, by decide⟩, by decide⟩

/-! The rules of R212, each by an image that it turns away. -/

/-- A table of one state, and its entry of event 0. -/
def image (d0 first : Nat) : CohImage :=
  { d0 := d0, d1 := 0, rest := List.replicate 6 0, words := first :: List.replicate 15 (cohCell 0 0 [15]) ++ List.replicate 240 0 }

/-- The image is sound; its header is not; an entry without an action; WAIT in a stable state; an exclusive grant into a state without one;
a grant without data; an accumulation without COMM. -/
theorem test_checker : ∀ e ∈ ([(0, image (2 ^ 48) (cohCell 0 0 [15])), (1, image (2 ^ 48 + 1) (cohCell 0 0 [15])), (1, image (3 * 2 ^ 48) (cohCell 0 0 [15])),
      (2, image (2 ^ 48) 0), (3, image (2 ^ 48) (cohCell 0 0 [22])), (4, image (2 ^ 48) (cohCell 0 2 [11])), (5, image (2 ^ 48) (cohCell 0 1 [15])),
      (7, image (2 ^ 48) (cohCell 0 0 [14]))] : List (Nat × CohImage)),
    (cohCheckImage e.2).1 = e.1 := by decide +kernel

/-! Rounding (R31 to R54, R68). -/

/-- Operands of each case: infinities of both signs, zeros, values; a product that is invalid and one that is not; negative values,
where flushing makes a zero of one. -/
theorem witness_rounded :
    (∀ x ∈ [0x7C00, 0xFC00, 0, 0x8000, 1, 0x3C00, 0xBC00], fpIsNaN .fp16 x = false ∧ x < 2 ^ fpBits .fp16)
    ∧ ([0x7C00, 0xFC00, 0, 1, 0xBC00].map fun x => let t := termOf .fp16 false x; (t.inf, t.neg, decide (t.val = 0)))
        = [(true, false, false), (true, true, false), (false, false, true), (false, false, false), (false, true, false)]
    ∧ (termOf .fp16 true 1).val = 0
    ∧ ((termOf .fp16 false 0x7C00).times (termOf .fp16 false 0)).isNone = true ∧ ((termOf .fp16 false 1).times (termOf .fp16 false 0)).isSome = true := by
  decide +kernel

/-- What a source is: nothing for a NaN, else whether it is infinite. -/
def sourceIs : CvtSrc → Option Bool
  | .nan => none
  | .num t => some t.inf

/-- Sources of each kind: a NaN of a binary format and of D8, infinity, values; formats of integers and others. -/
theorem witness_converted :
    ([(NumFmt.fp32, 0x7FC00001), (.d8, 0x80), (.fp32, 0x7F800000), (.fp32, 0x3F800000), (.d8, 0x85), (.int8, 0x80)].map fun e => sourceIs (cvtSrc e.1 0 e.2))
        = [none, none, some true, some false, some false, some false]
    ∧ (∀ f ∈ [NumFmt.int8, .nat64], numFp f = none ∧ f ≠ .d8) ∧ ∀ f ∈ [NumFmt.fp16, .d8], ¬(numFp f = none ∧ f ≠ .d8) := by decide +kernel

/-- LAs of each kind (R68): marked, infinite, zero, a value. -/
theorem witness_rounds_la :
    (∀ a ∈ [{ LA.zero with nan := true }, { LA.zero with invalid := true }, { LA.zero with ovf := true }, { LA.zero with guard := 1 }, { LA.zero with pinf := true, ninf := true }],
      a.nan = true ∨ a.invalid = true ∨ a.ovf = true ∨ guardOf a.n ≠ 0 ∨ (a.pinf = true ∧ a.ninf = true))
    ∧ ∀ a ∈ [{ LA.zero with pinf := true }, { LA.zero with ninf := true }, LA.zero, { LA.zero with seg := 5 }],
      ¬(a.nan = true ∨ a.invalid = true ∨ a.ovf = true ∨ guardOf a.n ≠ 0 ∨ (a.pinf = true ∧ a.ninf = true)) := by decide +kernel

/-- 1 + 2^-11 in FP16 is a tie that goes to even, up under RU (R37); the largest value doubled overflows, to the largest under RZ (R38);
half of the least normal value is subnormal, and flushed under FTZ (R46). -/
theorem test_rounded :
    fpAdd .fp16 .rn false 0x3C00 0x1000 = (0x3C00, { nx := true }) ∧ fpAdd .fp16 .ru false 0x3C00 0x1000 = (0x3C01, { nx := true })
    ∧ fpAdd .fp16 .rn false 0x7BFF 0x7BFF = (0x7C00, { ov := true, nx := true }) ∧ fpAdd .fp16 .rz false 0x7BFF 0x7BFF = (0x7BFF, { ov := true, nx := true })
    ∧ fpMul .fp16 .rn false 0x0400 0x3800 = (0x0200, {}) ∧ fpMul .fp16 .rn true 0x0400 0x3800 = (0, { uf := true, nx := true })
    ∧ fpDiv .fp16 .rn false 0x3C00 0 = (0x7C00, { dz := true }) ∧ fpDiv .fp16 .rn false 0 0 = (0x7E00, { nv := true })
    ∧ convert .fp32 .int8 .rn false 0 0 0x43480000 = (127, { nv := true }) ∧ convert .int8 .nat8 .rn false 0 0 0xFF = (255, {})
    ∧ convert .int8 .nat8 .rn true 0 0 0xFF = (0, {}) := by decide +kernel

/-- Bits outside the fields come first, then alignment, then the range (R313, R317). -/
theorem test_spad_order : ∀ e ∈ [(2 ^ 19 + 1, Trap.protection), (0x7FFF9, .alignment), (0x7FFF8, .protection)],
    (match spadChk (ready .nop id) 3 (agetD (ready .nop id).blocks 3 (bootBlock State.reset 1)) false false 8 (dw e.1) with
      | .inl x => some x.2.1
      | .inr _ => none) = some e.2 := by decide

end Sys2Proof.Tests
end

section
/-! PROOFS. The long accumulator's sums (R57 to R73). Every operation that R69 names keeps the value and the marks of what an LA
holds (`SameSum`) or adds terms to it (`Holds`), as long as GUARD can hold its part; the bound of R69 gives that it can.
LARND reads nothing else, so its outcome is a function of the multiset of terms. -/

namespace Sys2Proof.Proofs

open Sys2Proof.Machine Sys2Proof.Rules

-- 2^640 and R69's bound are compared as numerals.
set_option exponentiation.threshold 1000

/-! GUARD and the low 640 bits of a value (R63). -/

theorem low640_eq_bmod (v : Int) : low640 v = v.bmod (2 ^ 640) := BitVec.toInt_ofInt v

/-- A value is its low 640 bits, read as signed, and its GUARD. -/
theorem low640_add_guardOf (v : Int) : low640 v + guardOf v * (2 ^ 640 : Nat) = v := by
  have hd : ((2 ^ 640 : Nat) : Int) ∣ v - v.bmod (2 ^ 640) := Int.dvd_self_sub_bmod
  rw [guardOf, low640_eq_bmod, Int.ediv_mul_cancel hd, add_sub_cancel]

/-- The GUARD of ten segments and a multiple of 2^640 is that multiple. -/
theorem guardOf_toInt_add (x : BitVec 640) (g : Int) : guardOf (x.toInt + g * (2 ^ 640 : Nat)) = g := by
  have hl : low640 (x.toInt + g * (2 ^ 640 : Nat)) = x.toInt := by
    rw [low640_eq_bmod, Int.add_mul_bmod_self_right, BitVec.toInt_bmod_cancel]
  have hpos : ((2 ^ 640 : Nat) : Int) ≠ 0 := by positivity
  rw [guardOf, hl, add_sub_cancel_left, Int.mul_ediv_cancel _ hpos]

/-- The quotient by m, rounded to nearest, of a number below 64 m in magnitude fits a signed byte. -/
theorem bmod_quotient_bounds {m : Nat} {v : Int} (h : v.natAbs < 64 * m) :
    -128 ≤ (v - v.bmod m) / m ∧ (v - v.bmod m) / m ≤ 127 := by
  have hpos : 0 < m := by omega
  have hm : (0 : Int) < m := Int.natCast_pos.mpr hpos
  have hlt := Int.bmod_lt (x := v) hpos
  have hle := Int.le_bmod (x := v) hpos
  exact ⟨(Int.le_ediv_iff_mul_le hm).mpr (by omega), Int.lt_add_one_iff.mp ((Int.ediv_lt_iff_lt_mul hm).mpr (by omega))⟩

/-- A value below R69's bound leaves GUARD within its limit. -/
theorem fitsGuard_of_natAbs_lt {v : Int} (h : v.natAbs < 2 ^ (348 + 298)) : fitsGuard v := by
  rw [fitsGuard, guardOf, low640_eq_bmod]
  exact bmod_quotient_bounds (h.trans_eq (Nat.pow_add 2 6 640))

/-! The value that the operations leave (R59, R63 to R65). -/

/-- Carry fields that are all zero weigh nothing. -/
theorem carSum_eq_zero {cs : List Int} (h : ∀ c ∈ cs, c = 0) (k : Nat) : carSum k cs = 0 := by
  induction cs generalizing k with
  | nil => rfl
  | cons c r ih =>
    obtain ⟨hc, hr⟩ := List.forall_mem_cons.mp h
    rw [carSum, hc, ih hr, zero_mul, add_zero]

/-- The value of a resolved LA is its segments and GUARD. -/
theorem n_of_car_zero {a : LA} (h : ∀ c ∈ a.car, c = 0) : a.n = a.seg.toInt + a.guard * (2 ^ 640 : Nat) := by
  rw [LA.n, carSum_eq_zero h, add_zero]

/-- The GUARD of a resolved LA is that of its value. -/
theorem guard_of_car_zero {a : LA} (h : ∀ c ∈ a.car, c = 0) : a.guard = guardOf a.n := by
  rw [n_of_car_zero h, guardOf_toInt_add]

theorem withN_car (a : LA) (v g : Int) : ∀ c ∈ (a.withN v g).car, c = 0 := by
  simp [LA.withN]

theorem withN_n (a : LA) (v : Int) : (a.withN v (guardOf v)).n = v :=
  (n_of_car_zero (withN_car a v _)).trans (low640_add_guardOf v)

/-- Two LAs hold the same: one value, one OVF, and the same marks of terms that were not finite. -/
structure SameSum (x y : LA) : Prop where
  value : x.n = y.n
  ovf : x.ovf = y.ovf
  nan : x.nan = y.nan
  pinf : x.pinf = y.pinf
  ninf : x.ninf = y.ninf
  invalid : x.invalid = y.invalid

/-- Segments, carry fields and GUARD may differ, as long as they weigh the same. -/
theorem sameSum_of_value {x y : LA} (hn : x.n = y.n) (hf : ∃ s c g, x = { y with seg := s, car := c, guard := g }) :
    SameSum x y := by
  obtain ⟨s, c, g, hx⟩ := hf
  refine ⟨hn, ?_, ?_, ?_, ?_, ?_⟩ <;> rw [hx]

theorem SameSum.refl (a : LA) : SameSum a a := ⟨rfl, rfl, rfl, rfl, rfl, rfl⟩

theorem addSegs_frame (a : LA) (t : Int) : ∃ s c g, a.addSegs t = { a with seg := s, car := c, guard := g } :=
  ⟨_, _, _, rfl⟩

/-- Adding a number adds it exactly and changes no status bit, where GUARD can hold the sum (R63). -/
theorem addN_exact (a : LA) {t : Int} (h : fitsGuard (a.n + t)) :
    (a.addN t).n = a.n + t ∧ ∃ s c g, a.addN t = { a with seg := s, car := c, guard := g } := by
  obtain ⟨hlo, hhi⟩ := h
  simp only [LA.addN, hlo, hhi, decide_true, Bool.and_self, if_true]
  split
  case isTrue hb =>
    obtain ⟨hn, -⟩ := Bool.and_eq_true_iff.mp hb
    exact ⟨of_decide_eq_true hn, addSegs_frame a t⟩
  case isFalse => exact ⟨withN_n a _, _, _, _, rfl⟩

/-- A sweep changes neither value nor marks (R65). -/
theorem sweep_sameSum (a : LA) (k : Nat) : SameSum (a.sweep k) a := by
  simp only [LA.sweep]
  split
  case isTrue hb =>
    obtain ⟨hn, -⟩ := Bool.and_eq_true_iff.mp hb
    obtain ⟨s, c, g, hf⟩ := addSegs_frame { a with car := a.car.set k 0 } _
    exact sameSum_of_value (of_decide_eq_true hn) ⟨s, c, g, hf⟩
  case isFalse => exact .refl _

theorem resolve_car (a : LA) : ∀ c ∈ a.resolve.car, c = 0 := by
  unfold LA.resolve
  split
  case isTrue h => simpa using h
  case isFalse => exact withN_car a _ _

/-- Resolving changes neither value nor marks (R59). -/
theorem resolve_sameSum (a : LA) : SameSum a.resolve a := by
  unfold LA.resolve
  split
  · exact .refl a
  · exact sameSum_of_value (withN_n a a.n) ⟨_, _, _, rfl⟩

theorem resolve_guard (a : LA) : a.resolve.guard = guardOf a.n := by
  rw [guard_of_car_zero (resolve_car a), (resolve_sameSum a).value]

/-! Images (R60, R70, R71). -/

theorem toBytes_length (n x : Nat) : (toBytes n x).length = n := by
  induction n generalizing x with
  | zero => rfl
  | succ n ih => rw [toBytes, List.length_cons, ih]

theorem ofBytes_toBytes (n x : Nat) : ofBytes (toBytes n x) = x % 256 ^ n := by
  induction n generalizing x with
  | zero => rw [Nat.pow_zero, Nat.mod_one]; rfl
  | succ n ih =>
    rw [toBytes, ofBytes, ih, BitVec.toNat_ofNat, pow_succ' 256]
    exact Nat.mod_mul.symm

/-- Bits 0 to 6 of the status word (R60), the lowest first. -/
def marks (a : LA) : List Bool := [a.inUse, a.dirty, a.ovf, a.nan, a.pinf, a.ninf, a.invalid]

/-- The number these bits make. -/
def markBits (a : LA) : Nat :=
  b2n a.inUse + 2 * b2n a.dirty + 4 * b2n a.ovf + 8 * b2n a.nan + 16 * b2n a.pinf + 32 * b2n a.ninf + 64 * b2n a.invalid

theorem b2n_le_one (b : Bool) : b2n b ≤ 1 := by cases b <;> decide

theorem b2n_eq_one (b : Bool) : decide (b2n b = 1) = b := by cases b <;> rfl

theorem markBits_lt (a : LA) : markBits a < 128 := by
  grind [markBits, b2n_le_one]

theorem markBits_bit (a : LA) {i : Nat} (hi : i < 7) : markBits a / 2 ^ i % 2 = b2n ((marks a).getD i false) := by
  interval_cases i <;> simp only [marks, List.getD_cons_zero, List.getD_cons_succ] <;> grind [markBits, b2n_le_one]

/-- Reading a status word back (R60): bits 7 to 39 are ignored. -/
theorem withStatus_eq (x a : LA) (hg : -128 ≤ a.guard ∧ a.guard ≤ 127) {p : Nat} (hp : p < 2 ^ 33) :
    x.withStatus (markBits a + 2 ^ 7 * p + 2 ^ 40 * imod 8 a.guard) =
      { x with inUse := a.inUse, dirty := a.dirty, ovf := a.ovf, nan := a.nan, pinf := a.pinf, ninf := a.ninf,
               invalid := a.invalid, guard := a.guard } := by
  have hm := markBits_lt a
  have hguard : (markBits a + 2 ^ 7 * p + 2 ^ 40 * imod 8 a.guard) / 2 ^ 40 % 256 = imod 8 a.guard := by
    have := imod_lt 8 a.guard
    omega
  have hbit {i : Nat} (hi : i < 7) :
      decide ((markBits a + 2 ^ 7 * p + 2 ^ 40 * imod 8 a.guard) / 2 ^ i % 2 = 1) = (marks a).getD i false := by
    have hlow : (markBits a + 2 ^ 7 * p + 2 ^ 40 * imod 8 a.guard) / 2 ^ i % 2 = markBits a / 2 ^ i % 2 := by
      interval_cases i <;> omega
    rw [hlow, markBits_bit a hi, b2n_eq_one]
  simp only [LA.withStatus, hguard, sext_imod 8 (by decide) _ hg.1 (Int.lt_add_one_of_le hg.2), hbit, Nat.reduceLT]
  rfl

/-- Of CPEND, a resolved LA shows bit 25 only (R60). -/
theorem status_of_car_zero {a : LA} (h : ∀ c ∈ a.car, c = 0) :
    a.status = markBits a + 2 ^ 25 * b2n (a.guard != 0) + 2 ^ 40 * imod 8 a.guard := by
  have hcar (k : Nat) : (a.car[k]?).getD 0 = 0 := by
    cases hk : a.car[k]? with
    | none => rfl
    | some c => exact h c (List.mem_of_getElem? hk)
  have hcpend : a.cpend = 2 ^ 9 * b2n (a.guard != 0) := by
    simp [LA.cpend, hcar, List.range_succ, b2n]
  rw [LA.status, hcpend, markBits]
  omega

/-! The parts of an image (R70). -/

theorem image_length (a : LA) : a.image.length = 128 := by
  simp [LA.image, toBytes_length]

theorem image_take (a : LA) : a.image.take 80 = toBytes 80 a.resolve.seg.toNat := by
  rw [LA.image, List.append_assoc, List.take_left' (toBytes_length _ _)]

theorem image_status (a : LA) : (a.image.drop 80).take 8 = toBytes 8 a.resolve.status := by
  rw [LA.image, List.append_assoc, List.drop_left' (toBytes_length _ _), List.take_left' (toBytes_length _ _)]

theorem image_drop (a : LA) : a.image.drop 88 = List.replicate 40 0 := by
  rw [LA.image, List.drop_left' (by simp [toBytes_length])]

/-- The number that the status bytes of an image give. -/
theorem ofBytes_image_status (a : LA) : ofBytes ((a.image.drop 80).take 8) =
    markBits a.resolve + 2 ^ 7 * (2 ^ 18 * b2n (a.resolve.guard != 0)) + 2 ^ 40 * imod 8 a.resolve.guard := by
  have hm := markBits_lt a.resolve
  have hb := b2n_le_one (a.resolve.guard != 0)
  have hg := imod_lt 8 a.resolve.guard
  rw [image_status, ofBytes_toBytes, status_of_car_zero (resolve_car a)]
  omega

/-- An image is well-formed (R71). -/
theorem imageOk_image (a : LA) : imageOk a.image = true := by
  have hm := markBits_lt a.resolve
  have hb := b2n_le_one (a.resolve.guard != 0)
  have hg := imod_lt 8 a.resolve.guard
  rw [imageOk, ofBytes_image_status, image_length, image_drop]
  simp only [Bool.and_eq_true, beq_iff_eq, decide_eq_true_eq, List.all_replicate]
  refine ⟨⟨⟨⟨⟨trivial, by decide⟩, ?_⟩, ?_⟩, ?_⟩, ?_⟩ <;> omega

/-- An image loads as the resolved LA it was taken from, without the mark of a memory error. -/
theorem loadImage_image (a : LA) (h : fitsGuard a.n) :
    loadImage a.image = { a.resolve with car := LA.zero.car, bad := false } := by
  have hseg : BitVec.ofNat 640 (ofBytes (a.image.take 80)) = a.resolve.seg := by
    rw [image_take, ofBytes_toBytes, show 256 ^ 80 = 2 ^ 640 by rw [← Nat.pow_mul 2 8 80],
      Nat.mod_eq_of_lt a.resolve.seg.isLt, BitVec.ofNat_toNat, BitVec.setWidth_eq]
  have hg : -128 ≤ a.resolve.guard ∧ a.resolve.guard ≤ 127 := by rwa [resolve_guard]
  have hb := b2n_le_one (a.resolve.guard != 0)
  rw [loadImage, if_pos (imageOk_image a), imageLA, hseg, ofBytes_image_status, withStatus_eq _ _ hg (by omega)]
  rfl

/-- Writing out the image and loading it again changes neither value nor marks. -/
theorem loadImage_image_sameSum (a : LA) (h : fitsGuard a.n) : SameSum (loadImage a.image) a := by
  have hload := loadImage_image a h
  have hcar : ∀ c ∈ (loadImage a.image).car, c = 0 := by simp [hload, LA.zero]
  have hn : (loadImage a.image).n = a.resolve.n := by
    rw [n_of_car_zero hcar, n_of_car_zero (resolve_car a), hload]
  obtain ⟨hrn, hovf, hnan, hpinf, hninf, hinvalid⟩ := resolve_sameSum a
  refine ⟨hn.trans hrn, ?_, ?_, ?_, ?_, ?_⟩ <;> rw [hload] <;> assumption

/-! Rounding (R68). -/

/-- LARND sees an overflow by OVF and the value alone (R67). -/
theorem overflowed_eq (a : LA) : a.overflowed = (a.ovf || guardOf a.n != 0) := by
  rw [LA.overflowed, resolve_guard]

/-- LARND's outcome depends on the value and the marks alone. -/
theorem SameSum.round_eq {a b : LA} (h : SameSum a b) (f : NumFmt) (mode : Round) (bsc : Int) :
    a.round f mode bsc = b.round f mode bsc := by
  obtain ⟨hn, hovf, hnan, hpinf, hninf, hinvalid⟩ := h
  have hspecial : a.special = b.special := by
    simp only [LA.special, overflowed_eq, hn, hovf, hnan, hpinf, hninf, hinvalid]
  simp only [LA.round, hspecial, hn]

/-! What terms leave in an LA (R62, R63, R72). -/

/-- The LA holds the exact sum of the terms, and of each mark whether any term earns it. -/
structure Holds (a : LA) (ts : List (Option FVal)) : Prop where
  value : a.n = total ts
  ovf : a.ovf = false
  nan : a.nan = ts.any isNan
  pinf : a.pinf = ts.any (isInf false)
  ninf : a.ninf = ts.any (isInf true)
  invalid : a.invalid = ts.any Option.isNone

theorem Holds.of_sameSum {a b : LA} {ts : List (Option FVal)} (h : Holds a ts) (hs : SameSum b a) : Holds b ts :=
  ⟨hs.value.trans h.value, hs.ovf.trans h.ovf, hs.nan.trans h.nan, hs.pinf.trans h.pinf, hs.ninf.trans h.ninf,
    hs.invalid.trans h.invalid⟩

theorem Holds.clear : Holds LA.zero [] := ⟨by decide, rfl, rfl, rfl, rfl, rfl⟩

theorem total_cons (t : Option FVal) (ts : List (Option FVal)) : total (t :: ts) = addend t + total ts := by
  rw [total, List.map_cons, List.sum_cons, total]

theorem total_append (ts us : List (Option FVal)) : total (ts ++ us) = total ts + total us := by
  rw [total, List.map_append, List.sum_append, total, total]

/-- Adding a number that GUARD can hold leaves the sum of both and the status bits. -/
theorem Holds.addN {a : LA} {ts : List (Option FVal)} (h : Holds a ts) {t : Int} (hfit : fitsGuard (total ts + t)) :
    (a.addN t).n = total ts + t ∧ ∃ s c g, a.addN t = { a with seg := s, car := c, guard := g } := by
  rw [← h.value] at hfit ⊢
  exact addN_exact a hfit

theorem Holds.addTerm {a : LA} {ts : List (Option FVal)} (h : Holds a ts) (t : Option FVal)
    (hfit : fitsGuard (total (t :: ts))) : Holds (a.addTerm t) (t :: ts) := by
  have hsum : total ts + addend t = total (t :: ts) := by rw [total_cons, add_comm]
  obtain ⟨hn, hf⟩ := h.addN (hsum ▸ hfit)
  obtain ⟨hv, hovf, hnan, hpinf, hninf, hinvalid⟩ := h
  have hskip (ha : addend t = 0) : a.n = total (t :: ts) := by rw [← hsum, ha, add_zero, hv]
  match t with
  | none => exact ⟨hskip rfl, hovf, hnan, hpinf, hninf, rfl⟩
  | some (.nan _) => exact ⟨hskip rfl, hovf, rfl, hpinf, hninf, hinvalid⟩
  | some (.inf true) => exact ⟨hskip rfl, hovf, hnan, hpinf, rfl, hinvalid⟩
  | some (.inf false) => exact ⟨hskip rfl, hovf, hnan, rfl, hninf, hinvalid⟩
  | some (.fin s m e) =>
    obtain ⟨seg, car, g, hf⟩ := hf
    rw [addend] at hn hf hsum
    rw [LA.addTerm]
    generalize a.addN _ = x at hn hf ⊢
    subst hf
    exact ⟨hn.trans hsum, hovf, hnan, hpinf, hninf, hinvalid⟩

theorem Holds.merge {a b : LA} {ts us : List (Option FVal)} (ha : Holds a ts) (hb : Holds b us)
    (hfit : fitsGuard (total (ts ++ us))) : Holds (a.merge b) (ts ++ us) := by
  rw [total_append, ← hb.value] at hfit
  obtain ⟨hn, s, c, g, hf⟩ := ha.addN hfit
  rw [LA.merge]
  generalize a.addN b.n = x at hn hf ⊢
  subst hf
  refine ⟨?_, ?_, ?_, ?_, ?_, ?_⟩
  · rw [total_append, ← hb.value]
    exact hn
  · simp [LA.touch, ha.ovf, hb.ovf]
  · simp [LA.touch, ha.nan, hb.nan]
  · simp [LA.touch, ha.pinf, hb.pinf]
  · simp [LA.touch, ha.ninf, hb.ninf]
  · simp [LA.touch, ha.invalid, hb.invalid]

/-- What an LA holds depends on the multiset of the terms only. -/
theorem Holds.sameSum_of_perm {a b : LA} {ts us : List (Option FVal)} (ha : Holds a ts) (hb : Holds b us)
    (hp : ts.Perm us) : SameSum a b where
  value := by rw [ha.value, hb.value, total, total, (hp.map addend).sum_eq]
  ovf := by rw [ha.ovf, hb.ovf]
  nan := by rw [ha.nan, hb.nan, hp.any_eq]
  pinf := by rw [ha.pinf, hb.pinf, hp.any_eq]
  ninf := by rw [ha.ninf, hb.ninf, hp.any_eq]
  invalid := by rw [ha.invalid, hb.invalid, hp.any_eq]

/-! The bound of R69. -/

/-- The magnitudes of terms, totalled, in units of 2^-298. -/
def magnitude (ts : List (Option FVal)) : Nat := (ts.map fun t => (addend t).natAbs).sum

theorem magnitude_append (ts us : List (Option FVal)) : magnitude (ts ++ us) = magnitude ts + magnitude us := by
  rw [magnitude, List.map_append, List.sum_append, magnitude, magnitude]

theorem natAbs_total_le (ts : List (Option FVal)) : (total ts).natAbs ≤ magnitude ts := by
  have h := List.le_sum_of_subadditive Int.natAbs le_rfl Int.natAbs_add_le (ts.map addend)
  rwa [List.map_map] at h

/-- GUARD can hold the sum of terms within the bound. -/
theorem fitsGuard_total {ts : List (Option FVal)} (h : magnitude ts < 2 ^ (348 + 298)) : fitsGuard (total ts) :=
  fitsGuard_of_natAbs_lt ((natAbs_total_le ts).trans_lt h)

/-- Within the bound an LA holds its terms exactly, however it was formed: each part of the terms is within it too. -/
theorem holds_of_formed {ts : List (Option FVal)} {a : LA} (h : Formed ts a) (hb : magnitude ts < 2 ^ (348 + 298)) :
    Holds a ts := by
  have hfit := fitsGuard_total hb
  induction h with
  | clear => exact .clear
  | @add ts a t _ ih =>
    have hts : magnitude ts < 2 ^ (348 + 298) := (Nat.le_add_left _ _).trans_lt hb
    exact (ih hts (fitsGuard_total hts)).addTerm t hfit
  | @merge ts us a b _ _ iha ihb =>
    rw [magnitude_append] at hb
    have hts := (Nat.le_add_right _ _).trans_lt hb
    have hus := (Nat.le_add_left _ _).trans_lt hb
    exact (iha hts (fitsGuard_total hts)).merge (ihb hus (fitsGuard_total hus)) hfit
  | sweep k _ _ ih => exact (ih hb hfit).of_sameSum (sweep_sameSum _ k)
  | resolve _ ih => exact (ih hb hfit).of_sameSum (resolve_sameSum _)
  | @image ts a _ ih =>
    have ha := ih hb hfit
    exact ha.of_sameSum (loadImage_image_sameSum a (by rwa [ha.value]))

/-- Settles O22: within R69's bound an LA holds exactly its terms, and LARND reads no more of it than that. -/
theorem orderFree : Obligations.OrderFree := by
  unfold Obligations.OrderFree
  intro ts us a b hts hus hp hb
  have hbus : magnitude us < 2 ^ (348 + 298) := by
    rwa [magnitude, ← (hp.map fun t => (addend t).natAbs).sum_eq]
  have ha := holds_of_formed hts hb
  exact ⟨by rw [ha.value]; exact fitsGuard_total hb, ha.ovf,
    (ha.sameSum_of_perm (holds_of_formed hus hbus) hp).round_eq⟩

end Sys2Proof.Proofs
end

section
/-! PROOFS. Bits of numbers that the integer instructions build: folds that set one bit after another, signed readings and
results as bit vectors, shifts, rotations and bit fields (R2, R10, R289, R290). -/

namespace Sys2Proof.Proofs

open Sys2Proof.Machine Sys2Proof.Rules

/-! Numbers built bit by bit. -/

/-- A number folded from Booleans, the first lowest, has them as its bits. -/
theorem testBit_foldr_b2n {α : Type} (p : α → Bool) (l : List α) (j : Nat) :
    (l.foldr (fun x acc => b2n (p x) + 2 * acc) 0).testBit j = (l[j]?.map p).getD false := by
  induction l generalizing j with
  | nil => simp
  | cons x r ih =>
    have hx := b2n_eq_one (p x)
    have hle := b2n_le_one (p x)
    simp only [List.foldr_cons]
    generalize r.foldr (fun x acc => b2n (p x) + 2 * acc) 0 = acc at ih ⊢
    cases j with
    | zero =>
      have hmod : (b2n (p x) + 2 * acc) % 2 = b2n (p x) := by omega
      simp [Nat.testBit_zero, hmod, hx]
    | succ j =>
      have hdiv : (b2n (p x) + 2 * acc) / 2 = acc := by omega
      simp [Nat.testBit_succ, hdiv, ih j]

/-- Over the numbers below n, bit j is that of j. -/
theorem testBit_foldr_range (p : Nat → Bool) (n j : Nat) :
    ((List.range n).foldr (fun i acc => b2n (p i) + 2 * acc) 0).testBit j = (decide (j < n) && p j) := by
  rw [testBit_foldr_b2n]
  by_cases h : j < n <;> simp [h]

/-- A predicate changed below m keeps the bits above (R270). -/
theorem predBits_getLsbD (m : Nat) (old : BitVec 8) (f : Nat → Bool → Bool) {j : Nat} (hj : j < 8) :
    (predBits m old f).getLsbD j = if j < m then f j (old.getLsbD j) else old.getLsbD j := by
  rw [predBits, BitVec.getLsbD_ofNat, testBit_foldr_range fun i => if i < m then f i (old.getLsbD i) else old.getLsbD i]
  simp only [hj, decide_true, Bool.true_and]

theorem maskOf_getLsbD (p : Nat → Bool) (l : Nat) : (maskOf p).getLsbD l = (decide (l < 32) && p l) := by
  simp [maskOf, lanes, BitVec.getLsbD_ofNat, testBit_foldr_range]

theorem bitRev_succ (w x : Nat) : bitRev (w + 1) x = bitRev w x * 2 + x / 2 ^ w % 2 := by
  simp [bitRev, List.range_succ]

/-- BREV turns the bits of a sub-element round (R290). -/
theorem testBit_bitRev (w x : Nat) {k : Nat} (hk : k < w) : (bitRev w x).testBit k = x.testBit (w - 1 - k) := by
  induction w generalizing k with
  | zero => omega
  | succ w ih =>
    rw [bitRev_succ]
    cases k with
    | zero =>
      have hmod : (bitRev w x * 2 + x / 2 ^ w % 2) % 2 = x / 2 ^ w % 2 := by omega
      rw [Nat.testBit_zero, hmod, Nat.add_sub_cancel, Nat.sub_zero, Nat.testBit_eq_decide_div_mod_eq]
    | succ k =>
      have hdiv : (bitRev w x * 2 + x / 2 ^ w % 2) / 2 = bitRev w x := by omega
      rw [Nat.testBit_succ, hdiv, ih (by omega), show w + 1 - 1 - (k + 1) = w - 1 - k by omega]

/-! Signed readings (R10). -/

theorem sext_eq_toInt {w : Nat} (hw : 0 < w) (n : Nat) : sext w n = (BitVec.ofNat w n).toInt := by
  obtain ⟨m, rfl⟩ : ∃ m, w = m + 1 := ⟨w - 1, by omega⟩
  have hp : 2 ^ (m + 1) = 2 * 2 ^ m := by rw [Nat.pow_succ]; omega
  rw [sext, BitVec.toInt_eq_toNat_cond, BitVec.toNat_ofNat, Nat.add_sub_cancel, hp]
  by_cases h : n % (2 * 2 ^ m) < 2 ^ m
  · rw [if_pos h, if_pos (by omega)]
  · rw [if_neg h, if_neg (by omega)]

/-- Bit k of an integer modulo 2^w is that of its bit vector. -/
theorem testBit_imod (w : Nat) (z : Int) (k : Nat) : (imod w z).testBit k = (BitVec.ofInt w z).getLsbD k := by
  rw [imod, ← BitVec.toNat_ofInt, BitVec.testBit_toNat]

theorem msb_ofNat {w : Nat} (hw : 0 < w) (x : Nat) : (BitVec.ofNat w x).msb = x.testBit (w - 1) := by
  rw [BitVec.msb_eq_getLsbD_last, BitVec.getLsbD_ofNat, decide_eq_true (by omega), Bool.true_and]

/-- Bit k of a signed value of q bits, read again as n bits: bits above the q-th repeat it (R290). -/
theorem testBit_imod_sext {n q : Nat} (hq : 0 < q) (x : Nat) {k : Nat} (hk : k < n) :
    (imod n (sext q x)).testBit k = x.testBit (min k (q - 1)) := by
  have he : BitVec.ofInt n (sext q x) = (BitVec.ofNat q x).signExtend n := by rw [sext_eq_toInt hq]; rfl
  rw [testBit_imod, he, BitVec.getLsbD_signExtend, msb_ofNat hq, BitVec.getLsbD_ofNat]
  by_cases h : k < q
  · simp [hk, h, show min k (q - 1) = k by omega]
  · simp [hk, h, show min k (q - 1) = q - 1 by omega]

/-! Shifts and rotations (R289). -/

theorem testBit_shlN (w x y : Nat) {k : Nat} (hk : k < w) :
    (shlN w x y).testBit k = (decide (y % 256 ≤ k) && x.testBit (k - y % 256)) := by
  unfold shlN shiftCount
  split
  · simp [show ¬y % 256 ≤ k by omega]
  · simp [Nat.testBit_mod_two_pow, Nat.testBit_mul_two_pow, hk]

theorem testBit_shrN {w x : Nat} (hx : x < 2 ^ w) (y k : Nat) :
    (shrN w x y).testBit k = (decide (k + y % 256 < w) && x.testBit (k + y % 256)) := by
  have hbit : (x / 2 ^ (y % 256)).testBit k = (decide (k + y % 256 < w) && x.testBit (k + y % 256)) := by
    rw [Nat.testBit_div_two_pow]
    by_cases h : k + y % 256 < w
    · simp [h]
    · simp [h, Nat.testBit_lt_two_pow (hx.trans_le (Nat.pow_le_pow_right (by decide) (Nat.le_of_not_lt h)))]
  unfold shrN shiftCount
  split
  · simp [show ¬k + y % 256 < w by omega]
  · exact hbit

theorem testBit_sarN {w : Nat} (hw : 0 < w) (x y : Nat) {k : Nat} (hk : k < w) :
    (sarN w x y).testBit k = x.testBit (min (k + y % 256) (w - 1)) := by
  have he : BitVec.ofInt w (sext w x / (2 ^ min (y % 256) w : Nat)) = (BitVec.ofNat w x).sshiftRight (min (y % 256) w) := by
    rw [sext_eq_toInt hw, BitVec.sshiftRight, Int.shiftRight_eq_div_pow]
  rw [sarN, shiftCount, testBit_imod, he, BitVec.getLsbD_sshiftRight, msb_ofNat hw, BitVec.getLsbD_ofNat]
  by_cases h : k + y % 256 < w
  · simp [show ¬w ≤ k by omega, show min (y % 256) w = y % 256 by omega, show y % 256 + k < w by omega,
      show min (k + y % 256) (w - 1) = y % 256 + k by omega]
  · simp [show ¬w ≤ k by omega, show ¬min (y % 256) w + k < w by omega,
      show min (k + y % 256) (w - 1) = w - 1 by omega]

/-- A rotation by m < w puts the upper w − m bits below the others. -/
theorem testBit_rotN {w x : Nat} (hw : 0 < w) (hx : x < 2 ^ w) (y : Nat) {k : Nat} (hk : k < w) :
    (rotN w x y).testBit k = x.testBit ((k + w - y % 256 % w) % w) := by
  have hm : y % 256 % w < w := Nat.mod_lt _ hw
  unfold rotN shiftCount
  generalize y % 256 % w = m at hm ⊢
  have hsplit : 2 ^ w = 2 ^ (w - m) * 2 ^ m := by rw [← Nat.pow_add, Nat.sub_add_cancel hm.le]
  have hlow : x / 2 ^ (w - m) < 2 ^ m := Nat.div_lt_of_lt_mul (hsplit ▸ hx)
  have he : x * 2 ^ m % 2 ^ w + x / 2 ^ (w - m) = 2 ^ m * (x % 2 ^ (w - m)) + x / 2 ^ (w - m) := by
    rw [hsplit, Nat.mul_mod_mul_right, Nat.mul_comm]
  simp only [he, Nat.testBit_two_pow_mul_add _ hlow]
  by_cases h : k < m
  · rw [if_pos h, Nat.testBit_div_two_pow, Nat.mod_eq_of_lt (by omega), show k + w - m = k + (w - m) by omega]
  · have hkm : (k + w - m) % w = k - m := by
      rw [show k + w - m = k - m + w by omega, Nat.add_mod_right, Nat.mod_eq_of_lt (by omega)]
    simp [h, hkm, Nat.testBit_mod_two_pow, show k - m < w - m by omega]

/-! Bit fields (R290). -/

theorem testBit_fieldOf (w x y k : Nat) :
    (fieldOf w x y).testBit k = (decide (k < fieldLen w y) && x.testBit (fieldPos w y + k)) := by
  rw [fieldOf, Nat.testBit_mod_two_pow, Nat.testBit_div_two_pow, Nat.add_comm]

theorem fieldLen_pos {w : Nat} (hw : 0 < w) (y : Nat) : 0 < fieldLen w y := by
  have := Nat.mod_lt y hw
  unfold fieldLen fieldPos
  omega

theorem testBit_fieldInto (w x y c k : Nat) :
    (fieldInto w x y c).testBit k =
      if fieldPos w y ≤ k ∧ k < fieldPos w y + fieldLen w y then x.testBit (k - fieldPos w y) else c.testBit k := by
  unfold fieldInto
  generalize fieldPos w y = p, fieldLen w y = q
  have hlow : c % 2 ^ p < 2 ^ p := Nat.mod_lt _ (Nat.two_pow_pos p)
  have hmid : x % 2 ^ q < 2 ^ q := Nat.mod_lt _ (Nat.two_pow_pos q)
  have he : c - c / 2 ^ p % 2 ^ q * 2 ^ p + x % 2 ^ q * 2 ^ p =
      2 ^ p * (2 ^ q * (c / 2 ^ p / 2 ^ q) + x % 2 ^ q) + c % 2 ^ p := by
    have hc : c = 2 ^ p * (2 ^ q * (c / 2 ^ p / 2 ^ q)) + 2 ^ p * (c / 2 ^ p % 2 ^ q) + c % 2 ^ p := by
      rw [← Nat.mul_add, Nat.div_add_mod, Nat.div_add_mod]
    rw [Nat.mul_add, Nat.mul_comm (c / 2 ^ p % 2 ^ q), Nat.mul_comm (x % 2 ^ q)]
    omega
  rw [he, Nat.testBit_two_pow_mul_add _ hlow, Nat.testBit_two_pow_mul_add _ hmid]
  by_cases h1 : k < p
  · simp [h1, show ¬p ≤ k by omega, Nat.testBit_mod_two_pow]
  · by_cases h2 : k - p < q
    · simp [h1, h2, show p ≤ k by omega, show k < p + q by omega, Nat.testBit_mod_two_pow]
    · simp only [h1, h2, if_false, show ¬(p ≤ k ∧ k < p + q) by omega, Nat.testBit_div_two_pow]
      congr 1
      omega

end Sys2Proof.Proofs
end

section
/-! PROOFS. Integer instructions (R286 to R296): what each makes of its operands, by the tables of rules, and that it does
so in every evaluated lane with nothing else changed. -/

namespace Sys2Proof.Proofs

open Sys2Proof.Machine Sys2Proof.Rules

/-! The value of a sub-element (R286, R288, R290). -/

theorem width_pos (w : Width) : 0 < Width.bits w := by cases w <;> decide

theorem imod_mod (n : Nat) (z : Int) : imod n z % 2 ^ n = imod n z := Nat.mod_eq_of_lt (imod_lt n z)

theorem cast_imod (n : Nat) (z : Int) : (imod n z : Int) = z % (2 ^ n : Nat) :=
  Int.toNat_of_nonneg (Int.emod_nonneg _ (Int.natCast_ne_zero.mpr (Nat.two_pow_pos n).ne'))

/-- A difference modulo 2^n. -/
theorem imod_sub {n x y : Nat} (hy : y < 2 ^ n) : imod n ((x : Int) - y) = (x + (2 ^ n - y)) % 2 ^ n := by
  have he : ((x : Int) - y) % (2 ^ n : Nat) = ((x + (2 ^ n - y) : Nat) : Int) % (2 ^ n : Nat) := by
    rw [show ((x + (2 ^ n - y) : Nat) : Int) = (x : Int) - y + (2 ^ n : Nat) by omega, Int.add_emod_right]
  rw [imod, he, ← Int.natCast_emod, Int.toNat_natCast]

/-- A value that fits n signed bits is read back from them. -/
theorem sext_imod_mod {n : Nat} (hn : 0 < n) {z : Int} (hlo : -((2 ^ (n - 1) : Nat) : Int) ≤ z)
    (hhi : z < (2 ^ (n - 1) : Nat)) : sext n (imod n z % 2 ^ n) = z := by
  rw [imod_mod, sext_imod n hn z hlo hhi]

/-- The upper half of a signed product fits (R286). -/
theorem signed_high_bounds {n : Nat} (hn : 0 < n) (x y : Nat) :
    -((2 ^ (n - 1) : Nat) : Int) ≤ sext n x * sext n y / (2 ^ n : Nat)
      ∧ sext n x * sext n y / (2 ^ n : Nat) < (2 ^ (n - 1) : Nat) := by
  obtain ⟨hxl, hxh⟩ := sext_range n hn x
  obtain ⟨hyl, hyh⟩ := sext_range n hn y
  have hp : ((2 ^ n : Nat) : Int) = 2 * (2 ^ (n - 1) : Nat) := by
    rw [← Nat.two_pow_pred_mul_two hn]
    omega
  have hpos : (0 : Int) < (2 ^ (n - 1) : Nat) := by positivity
  generalize ((2 ^ (n - 1) : Nat) : Int) = p at *
  have habs : |sext n x * sext n y| ≤ p * p := by
    rw [abs_mul]
    exact mul_le_mul (abs_le.mpr ⟨hxl, hxh.le⟩) (abs_le.mpr ⟨hyl, hyh.le⟩) (abs_nonneg _) hpos.le
  obtain ⟨hlo, hhi⟩ := abs_le.mp habs
  rw [hp]
  exact ⟨(Int.le_ediv_iff_mul_le (by omega)).mpr (by nlinarith), (Int.ediv_lt_iff_lt_mul (by omega)).mpr (by nlinarith)⟩

theorem natAbs_sext_lt {n : Nat} (hn : 0 < n) (x : Nat) : (sext n x).natAbs < 2 ^ n := by
  obtain ⟨hlo, hhi⟩ := sext_range n hn x
  have hp := Nat.two_pow_pred_mul_two hn
  omega

theorem clampI_bounds {lo hi : Int} (h : lo ≤ hi) (v : Int) : lo ≤ clampI lo hi v ∧ clampI lo hi v ≤ hi := by
  unfold clampI
  omega

theorem popCount_eq (n x : Nat) : popCount n x = ((List.range n).filter x.testBit).length := by
  simp only [popCount]
  congr 1
  exact List.filter_congr fun i _ => Nat.testBit_eq_decide_div_mod_eq.symm

theorem popCount_lt (n x : Nat) : popCount n x < 2 ^ n := by
  have h := List.length_filter_le (fun i => decide (x / 2 ^ i % 2 = 1)) (List.range n)
  rw [List.length_range] at h
  exact h.trans_lt Nat.lt_two_pow_self

/-- The leading zeros of a sub-element, and the one that ends them (R288). -/
theorem leadZeros_spec {n x : Nat} (hx : x < 2 ^ n) :
    leadZeros n x ≤ n ∧ (∀ i < n, n - leadZeros n x ≤ i → x.testBit i = false)
      ∧ (leadZeros n x < n → x.testBit (n - 1 - leadZeros n x) = true) := by
  rw [leadZeros, Nat.mod_eq_of_lt hx]
  by_cases h0 : x = 0
  · simp [h0]
  · have hlog : x.log2 < n := (Nat.log2_lt h0).mpr hx
    rw [if_neg h0]
    refine ⟨by omega, fun i _ hi => ?_, fun _ => ?_⟩
    · exact Nat.testBit_lt_two_pow (Nat.lt_log2_self.trans_le (Nat.pow_le_pow_right (by decide) (by omega)))
    · rw [show n - 1 - (n - 1 - x.log2) = x.log2 by omega]
      exact Nat.testBit_log2 h0

/-! Arithmetic, sub-element by sub-element (R286, R288, R290). -/

/-- Each arithmetic instruction maps a function over the sub-elements, and the function obeys the table's rule. -/
theorem arith_meaning {i : Instr} {w : Width} {d a b : GReg} {rule : Nat → Nat → Nat → Nat → Nat → Prop}
    (h : arith i = some (w, d, a, b, rule)) :
    ∃ f : Nat → Nat → Nat → Nat, (∀ s, exec i s = compute i s fun g => g.laneInt w d a b f)
      ∧ ∀ x y c, x < 2 ^ Width.bits w → y < 2 ^ Width.bits w → c < 2 ^ Width.bits w →
        rule (Width.bits w) x y c (f x y c % 2 ^ Width.bits w) := by
  unfold arith at h
  split at h <;> cases h
  · exact ⟨_, fun s => exec_iadd s w d a b, fun _ _ _ _ _ _ => Nat.mod_mod _ _⟩
  · exact ⟨_, fun s => exec_isub s w d a b, fun _ _ _ _ hy _ => (imod_mod _ _).trans (imod_sub hy)⟩
  · exact ⟨_, fun s => exec_imul s w d a b, fun _ _ _ _ _ _ => Nat.mod_mod _ _⟩
  · exact ⟨_, fun s => exec_imulhs s w d a b, fun x y _ _ _ _ =>
      have ⟨hlo, hhi⟩ := signed_high_bounds (width_pos w) x y
      sext_imod_mod (width_pos w) hlo hhi⟩
  · exact ⟨_, fun s => exec_imulhn s w d a b, fun _ _ _ hx hy _ =>
      Nat.mod_eq_of_lt (Nat.div_lt_of_lt_mul (Nat.mul_lt_mul'' hx hy))⟩
  · exact ⟨_, fun s => exec_imad s w d a b, fun _ _ _ _ _ _ => Nat.mod_mod _ _⟩
  · refine ⟨_, fun s => exec_imins s w d a b, fun x y _ hx hy _ => ?_⟩
    rw [Nat.mod_eq_of_lt (by split <;> assumption)]
    split <;> omega
  · refine ⟨_, fun s => exec_imaxs s w d a b, fun x y _ hx hy _ => ?_⟩
    rw [Nat.mod_eq_of_lt (by split <;> assumption)]
    split <;> omega
  · refine ⟨_, fun s => exec_iminn s w d a b, fun x y _ hx hy _ => ?_⟩
    rw [Nat.mod_eq_of_lt (by omega)]
    omega
  · refine ⟨_, fun s => exec_imaxn s w d a b, fun x y _ hx hy _ => ?_⟩
    rw [Nat.mod_eq_of_lt (by omega)]
    omega
  · exact ⟨_, fun s => exec_iabs s w d a, fun x _ _ _ _ _ =>
      (Nat.mod_mod _ _).trans (Nat.mod_eq_of_lt (natAbs_sext_lt (width_pos w) x))⟩
  · exact ⟨_, fun s => exec_popc s w d a, fun x _ _ _ _ _ =>
      (Nat.mod_eq_of_lt (popCount_lt _ x)).trans (popCount_eq _ x)⟩
  · refine ⟨_, fun s => exec_clz s w d a, fun x _ _ hx _ _ => ?_⟩
    have hz := leadZeros_spec hx
    rw [Nat.mod_eq_of_lt (hz.1.trans_lt Nat.lt_two_pow_self)]
    exact hz
  · refine ⟨_, fun s => exec_iadds s w d a b, fun x y _ _ _ _ => ?_⟩
    have hpos := Nat.two_pow_pos (Width.bits w - 1)
    have hc := clampI_bounds (lo := -((2 ^ (Width.bits w - 1) : Nat) : Int))
      (hi := ((2 ^ (Width.bits w - 1) : Nat) : Int) - 1) (by omega) (sext (Width.bits w) x + sext (Width.bits w) y)
    exact sext_imod_mod (width_pos w) hc.1 (by omega)
  · refine ⟨_, fun s => exec_iaddn s w d a b, fun x y _ _ _ _ => ?_⟩
    have hpos := Nat.two_pow_pos (Width.bits w)
    exact Nat.mod_eq_of_lt (by omega)

/-- Logic, shifts, BREV and bit fields map a function whose bits obey the table's rule (R289, R290). -/
theorem bitwise_meaning {i : Instr} {w : Width} {d a b : GReg} {rule : Nat → Nat → Nat → Nat → Nat → Bool}
    (h : bitwise i = some (w, d, a, b, rule)) :
    ∃ f : Nat → Nat → Nat → Nat, (∀ s, exec i s = compute i s fun g => g.laneInt w d a b f)
      ∧ ∀ x y c, x < 2 ^ Width.bits w → y < 2 ^ Width.bits w → ∀ k < Width.bits w,
        (f x y c).testBit k = rule (Width.bits w) x y c k := by
  have hw := width_pos w
  unfold bitwise at h
  split at h <;> cases h
  · exact ⟨_, fun s => exec_andR s w d a b, fun x y _ _ _ k _ => Nat.testBit_and x y k⟩
  · exact ⟨_, fun s => exec_orR s w d a b, fun x y _ _ _ k _ => Nat.testBit_or x y k⟩
  · exact ⟨_, fun s => exec_xorR s w d a b, fun x y _ _ _ k _ => Nat.testBit_xor x y k⟩
  · refine ⟨_, fun s => exec_andnR s w d a b, fun x y _ _ hy k hk => ?_⟩
    rw [Nat.testBit_and, Nat.sub_sub, Nat.add_comm 1 y, Nat.testBit_two_pow_sub_succ hy, decide_eq_true hk,
      Bool.true_and]
  · exact ⟨_, fun s => exec_shl s w d a b, fun x y _ _ _ _ hk => testBit_shlN _ x y hk⟩
  · exact ⟨_, fun s => exec_shr s w d a b, fun _ y _ hx _ k _ => testBit_shrN hx y k⟩
  · exact ⟨_, fun s => exec_sar s w d a b, fun x y _ _ _ _ hk => testBit_sarN hw x y hk⟩
  · exact ⟨_, fun s => exec_rot s w d a b, fun _ y _ hx _ _ hk => testBit_rotN hw hx y hk⟩
  · exact ⟨_, fun s => exec_brev s w d a, fun x _ _ _ _ _ hk => testBit_bitRev _ x hk⟩
  · refine ⟨_, fun s => exec_bfxs s w d a b, fun x y _ _ _ k hk => ?_⟩
    have hq := fieldLen_pos hw y
    rw [testBit_imod_sext hq _ hk, testBit_fieldOf, decide_eq_true (by omega), Bool.true_and]
    rfl
  · exact ⟨_, fun s => exec_bfxn s w d a b, fun x y _ _ _ k _ => testBit_fieldOf _ x y k⟩
  · exact ⟨_, fun s => exec_bfi s w d a b, fun x y c _ _ k _ => testBit_fieldInto _ x y c k⟩

/-! One 64-bit result (R290, R291, R294 to R296). -/

/-- Sub-element j of n that are joined is the j-th. -/
theorem sub_joinSubs_range (w : Nat) (f : Nat → Nat) {n j : Nat} (hj : j < n) (hn : w * n ≤ 64) :
    sub (joinSubs w ((List.range n).map f)) w j = f j % 2 ^ w :=
  sub_joinSubs w _ j _ (by simpa using hn) (by simp [hj])

/-- PRMB takes byte j of the result from the byte that b names (R291). -/
theorem sub_permuteBytes (x y old : Dword) {j : Nat} (hj : j < 8) :
    sub (permuteBytes x y old) 8 j =
      let s := sub y 8 j
      if s.testBit 7 then 0 else if s.testBit 3 then sub old 8 (s % 8) else sub x 8 (s % 8) := by
  have hs := sub_lt y 8 j
  have h7 : (sub y 8 j).testBit 7 = decide (128 ≤ sub y 8 j) := by
    rw [Nat.testBit_eq_decide_div_mod_eq]
    exact decide_eq_decide.mpr (by omega)
  have h3 : (sub y 8 j).testBit 3 = !decide (sub y 8 j / 8 % 2 = 0) := by
    rw [Nat.testBit_eq_decide_div_mod_eq, ← decide_not]
    exact decide_eq_decide.mpr (by omega)
  rw [permuteBytes, sub_joinSubs_range 8 _ hj (by decide)]
  simp only [h7, h3, decide_eq_true_eq, Bool.not_eq_true', decide_eq_false_iff_not]
  by_cases hz : 128 ≤ sub y 8 j
  · simp [hz]
  · by_cases ho : sub y 8 j / 8 % 2 = 0 <;> simp [hz, ho] <;> exact sub_lt _ 8 _

/-- MOVW puts its constant in one 16-bit sub-element (R295). -/
theorem sub_dw_slot {k slot : Nat} (hk : k < 2 ^ 16) (hs : slot < 4) {j : Nat} (hj : j < 4) :
    sub (dw (k * 2 ^ (16 * slot))) 16 j = if j = slot then k else 0 := by
  unfold sub dw
  rw [BitVec.toNat_ofNat]
  interval_cases slot <;> interval_cases j <;> simp <;> omega

/-- MOVK replaces one 16-bit sub-element (R295). -/
theorem sub_dw_replace {k slot : Nat} (old : Dword) (hk : k < 2 ^ 16) (hs : slot < 4) {j : Nat} (hj : j < 4) :
    sub (dw (old.toNat - sub old 16 slot * 2 ^ (16 * slot) + k * 2 ^ (16 * slot))) 16 j =
      if j = slot then k else sub old 16 j := by
  have hlt := old.isLt
  unfold sub dw
  rw [BitVec.toNat_ofNat]
  interval_cases slot <;> interval_cases j <;> simp <;> omega

/-- Each instruction with one 64-bit result writes a value that obeys the table's rule in every lane. -/
theorem dwords_meaning {i : Instr} {d a b : GReg} {rule : Dword → Dword → Dword → Dword → Prop}
    (h : dwords i = some (d, a, b, rule)) :
    ∃ f : Group → Nat → Dword, (∀ s, exec i s = compute i s fun g => g.laneResult d (f g))
      ∧ ∀ g l, rule (g.readR a l) (g.readR b l) (g.readR d l) (f g l) := by
  unfold dwords at h
  split at h <;> cases h
  next w => exact ⟨_, fun s => exec_mov s w d a, fun _ _ => rfl⟩
  next => exact ⟨_, fun s => exec_prmb s d a b, fun _ _ _ hj => sub_permuteBytes _ _ _ hj⟩
  next k => exact ⟨_, fun s => exec_addi s d a k, fun _ _ => BitVec.toNat_add _ _⟩
  next k => exact ⟨_, fun s => exec_andi s d a k, fun _ _ => rfl⟩
  next k => exact ⟨_, fun s => exec_ori s d a k, fun _ _ => rfl⟩
  next k => exact ⟨_, fun s => exec_xori s d a k, fun _ _ => rfl⟩
  next k =>
    refine ⟨_, fun s => exec_shli s d a k, fun g l j hj => ?_⟩
    simp only [bit, BitVec.getLsbD_shiftLeft, hj, decide_true, Bool.true_and, ← decide_not, Nat.not_lt]
  next k =>
    refine ⟨_, fun s => exec_shri s d a k, fun g l j _ => ?_⟩
    simp only [bit, BitVec.getLsbD_ushiftRight, Nat.add_comm]
  next k =>
    refine ⟨_, fun s => exec_sari s d a k, fun g l j hj => ?_⟩
    rw [bit, BitVec.getLsbD_sshiftRight, BitVec.msb_eq_getLsbD_last]
    by_cases hk : k.toNat + j < 64
    · simp only [show ¬64 ≤ j by omega, hk, bit, show min (j + k.toNat) 63 = k.toNat + j by omega]
      rfl
    · simp only [show ¬64 ≤ j by omega, hk, bit, show min (j + k.toNat) 63 = 63 by omega]
      rfl
  next slot k => exact ⟨_, fun s => exec_movw s d slot k, fun _ _ _ hj => sub_dw_slot k.isLt slot.isLt hj⟩
  next slot k => exact ⟨_, fun s => exec_movk s d slot k, fun _ _ _ hj => sub_dw_replace _ k.isLt slot.isLt hj⟩
  next sh =>
    refine ⟨_, fun s => exec_lea s d a b sh, fun g l => ?_⟩
    simp only [BitVec.toNat_add, BitVec.toNat_shiftLeft, Nat.shiftLeft_eq, Nat.add_mod_mod]

end Sys2Proof.Proofs
end

section
/-! PROOFS. The integer instructions that leave a carry or borrow in cy (R287, R288). -/

namespace Sys2Proof.Proofs

open Sys2Proof.Machine Sys2Proof.Rules

/-- A destination and cy, written together in the lanes that the destination is evaluated in. -/
def writeWithCarry (g : Group) (d : GReg) (v : Nat → Dword) (p : Nat → BitVec 8) : Group :=
  (g.laneResult d v).writeAllP 14 ((g.evalLanes d).map fun l => (l, p l))

/-- The one law of a write with carry: destination, cy and frame. -/
theorem writeWithCarry_wrote (g : Group) (d : GReg) (v : Nat → Dword) (p : Nat → BitVec 8) :
    (writeWithCarry g d v p).shell = g.shell ∧ WroteReg g (writeWithCarry g d v p) d (fun l x => x = v l)
      ∧ (∀ l ∈ g.evalLanes d, (writeWithCarry g d v p).readP 14 l = p l)
      ∧ ∀ k, (∀ l ∈ g.evalLanes d, k ≠ 32 * 14 + l) →
        agetD (writeWithCarry g d v p).preds k 0 = agetD g.preds k 0 := by
  have hw := laneResult_wrote g d v
  have hsh : (g.laneResult d v).shell = g.shell := writeAll_shell ..
  have hp : (g.laneResult d v).preds = g.preds := writeAll_preds ..
  have he := writeAllP_eq (g.laneResult d v) (p := 14) (by decide) ((g.evalLanes d).map fun l => (l, p l))
  rw [List.foldl_map, hp] at he
  rw [writeWithCarry, he]
  refine ⟨hsh, ⟨hw.value, hw.vregs, hw.sregs⟩, fun l hl => ?_, fun k hk => ?_⟩
  · exact foldl_asetD_same (fun l => 32 * 14 + l) p 0 _ g.preds hl fun y _ hy => by rw [Nat.add_left_cancel hy]
  · exact foldl_asetD_other (fun l => 32 * 14 + l) p 0 _ g.preds fun l hl h => hk l hl h.symm

/-- The exact value of sub-element j in lane l, with the carry that comes in (R287). -/
def exactAt (t : Nat → Nat → Nat → Nat → Int) (n : Nat) (g : Group) (d a b : GReg) (l j : Nat) : Int :=
  t (el g a n l j) (el g b n l j) (el g d n l j) (b2n ((g.readP 14 l).getLsbD j))

/-- IADDC and ISUBB write their sub-elements with their carries. -/
theorem laneCarry_eq (g : Group) (w : Width) (d a b : GReg) (f : Nat → Nat → Nat → Int) :
    g.laneCarry w d a b f =
      let t (l i : Nat) : Int := exactAt (fun x y _ c => f x y c) (Width.bits w) g d a b l i
      writeWithCarry g d
        (fun l => joinSubs (Width.bits w) ((List.range (64 / Width.bits w)).map fun i => imod (Width.bits w) (t l i)))
        fun l => predBits (64 / Width.bits w) (g.readP 14 l) fun i _ => t l i < 0 || (2 ^ Width.bits w : Nat) ≤ t l i := by
  simp only [Group.laneCarry, List.map_map, Function.comp_def]
  rfl

/-- What IMADW adds up in a lane (R288). -/
def wideSum (g : Group) (d a b : GReg) (l : Nat) : Nat :=
  bits (g.readR a l) 31 0 * bits (g.readR b l) 31 0 + (g.readR d l).toNat + b2n ((g.readP 14 l).getLsbD 0)

theorem exec_imadw_writes (d a b : GReg) (s : State) :
    exec (.imadw d a b) s = compute (.imadw d a b) s fun g => writeWithCarry g d (fun l => dw (wideSum g d a b l))
      fun l => predBits 1 (g.readP 14 l) fun _ _ => decide (2 ^ 64 ≤ wideSum g d a b l) := by
  rw [exec_imadw, execImadw]
  simp only [List.map_map, Function.comp_def]
  rfl

/-- Sub-elements and carries of a lane are those of its exact values (R287). -/
structure CarriesOut (n m : Nat) (val : Nat → Int) (carry : Int → Bool) (old p : BitVec 8) (v : Dword) : Prop where
  value : ∀ j < m, (sub v n j : Int) = val j % (2 ^ n : Nat)
  carry : ∀ j < 8, p.getLsbD j = if j < m then carry (val j) else old.getLsbD j

theorem carriesOut_joinSubs (w : Width) (val : Nat → Int) (carry : Int → Bool) (old : BitVec 8)
    (hc : ∀ j, (decide (val j < 0) || decide ((2 ^ Width.bits w : Nat) ≤ val j)) = carry (val j)) :
    CarriesOut (Width.bits w) (64 / Width.bits w) val carry old
      (predBits (64 / Width.bits w) old fun i _ => val i < 0 || (2 ^ Width.bits w : Nat) ≤ val i)
      (joinSubs (Width.bits w) ((List.range (64 / Width.bits w)).map fun i => imod (Width.bits w) (val i))) := by
  refine ⟨fun j hj => ?_, fun j hj => ?_⟩
  · rw [sub_joinSubs_range _ _ hj (Nat.mul_div_le 64 _), imod_mod, cast_imod]
  · rw [predBits_getLsbD _ _ _ hj, hc]

/-- Each instruction with a carry writes its destination and cy by the table's exact value and rule. -/
theorem carrying_meaning {i : Instr} {n m : Nat} {d a b : GReg} {t : Nat → Nat → Nat → Nat → Int}
    {carry : Nat → Int → Bool} (h : carrying i = some (n, m, d, a, b, t, carry)) :
    ∃ (v : Group → Nat → Dword) (p : Group → Nat → BitVec 8),
      (∀ s, exec i s = compute i s fun g => writeWithCarry g d (v g) (p g))
        ∧ ∀ g l, CarriesOut n m (exactAt t n g d a b l) (carry n) (g.readP 14 l) (p g l) (v g l) := by
  unfold carrying at h
  split at h <;> cases h
  next w =>
    refine ⟨_, _,
      fun s => (exec_iaddc s w d a b).trans (congrArg (compute _ s) (funext fun g => laneCarry_eq g w d a b _)),
      fun g l => carriesOut_joinSubs w _ _ _ fun j => ?_⟩
    have hnn : ¬exactAt (fun x y _ c => (x : Int) + y + c) (Width.bits w) g d a b l j < 0 := by
      simp only [exactAt]
      omega
    rw [decide_eq_false hnn, Bool.false_or]
  next w =>
    refine ⟨_, _,
      fun s => (exec_isubb s w d a b).trans (congrArg (compute _ s) (funext fun g => laneCarry_eq g w d a b _)),
      fun g l => carriesOut_joinSubs w _ _ _ fun j => ?_⟩
    have hlt : ¬((2 ^ Width.bits w : Nat) : Int) ≤
        exactAt (fun x y _ c => (x : Int) - y - c) (Width.bits w) g d a b l j := by
      have := sub_lt (g.readR a l) (Width.bits w) j
      simp only [exactAt, el]
      omega
    rw [decide_eq_false hlt, Bool.or_false]
  next =>
    refine ⟨_, _, fun s => exec_imadw_writes d a b s, fun g l => ?_⟩
    have hval : exactAt (fun x y old c => (x % 2 ^ 32 : Nat) * (y % 2 ^ 32 : Nat) + old + c) 64 g d a b l 0
        = (wideSum g d a b l : Nat) := by
      simp [exactAt, wideSum, el, sub, bits, Nat.mod_eq_of_lt (BitVec.isLt _)]
    refine ⟨fun j hj => ?_, fun j hj => ?_⟩
    · obtain rfl : j = 0 := by omega
      rw [hval]
      simp [sub, dw]
    · rw [predBits_getLsbD _ _ _ hj]
      by_cases h0 : j = 0
      · subst h0
        rw [hval]
        simp only [Nat.cast_le]
      · simp [h0]

end Sys2Proof.Proofs
end

section
/-! PROOFS. Words of the integer, compare, predicate and cross-lane majors (R243 to R254): the layouts of the tables and the
decoder agree in both directions. A layout is a word of format A with its fields split or joined, so all go through fmtA. -/

namespace Sys2Proof.Proofs

open Sys2Proof Sys2Proof.Machine Sys2Proof.Rules

/-! Fields of a word (R243). -/

/-- A word is put together from its five fields of format A. -/
theorem fmtA_fld {n : Nat} (hn : n < 2 ^ 32) :
    fmtA (fld n 26 6) (fld n 19 7) (fld n 12 7) (fld n 5 7) (fld n 0 5) = n := by
  simp only [fmtA, fld]
  omega

theorem fld_lt (n lo k : Nat) : fld n lo k < 2 ^ k := Nat.mod_lt _ (Nat.two_pow_pos k)

/-- The number n is a word with these fields of format A. -/
structure FieldsA (n m d a b fn : Nat) : Prop where
  lt : n < 2 ^ 32
  major : fld n 26 6 = m
  fieldD : fld n 19 7 = d
  fieldA : fld n 12 7 = a
  fieldB : fld n 5 7 = b
  function : fld n 0 5 = fn

/-- Every word has its fields. -/
theorem fieldsA_of_lt {n : Nat} (hn : n < 2 ^ 32) :
    FieldsA n (fld n 26 6) (fld n 19 7) (fld n 12 7) (fld n 5 7) (fld n 0 5) := ⟨hn, rfl, rfl, rfl, rfl, rfl⟩

/-- A word put together from fields that fit has these fields. -/
theorem fieldsA_of_fmtA {n m d a b fn : Nat} (hw : fmtA m d a b fn = n) (hm : m < 64) (hd : d < 128) (ha : a < 128)
    (hb : b < 128) (hf : fn < 32) : FieldsA n m d a b fn := by
  subst hw
  constructor <;> simp only [fmtA, fld] <;> omega

namespace FieldsA

variable {n m d a b fn : Nat} (h : FieldsA n m d a b fn)
include h

theorem word : fmtA m d a b fn = n := by
  rw [← h.major, ← h.fieldD, ← h.fieldA, ← h.fieldB, ← h.function, fmtA_fld h.lt]

theorem dLt : d < 128 := h.fieldD ▸ fld_lt n 19 7

theorem aLt : a < 128 := h.fieldA ▸ fld_lt n 12 7

theorem bLt : b < 128 := h.fieldB ▸ fld_lt n 5 7

theorem fnLt : fn < 32 := h.function ▸ fld_lt n 0 5

/-- The field of d holds a predicate and a condition (R254). -/
theorem predicateAndCondition : fld n 22 4 = d / 8 ∧ fld n 19 3 = d % 8 := by
  rw [← h.fieldD]
  simp only [fld]
  omega

end FieldsA

/-! Codes and registers, read and written (R246, R254). -/

theorem gField_lt (r : GReg) : gField r < 128 := Laws.gReg_enc r

theorem gField_gr {x : Nat} (hx : x < 128) : gField (gr x) = x := by
  unfold gr
  split
  · simp [gField, *]
  · split
    · simp only [gField, Fin.ofNat]; omega
    · simp only [gField, Fin.ofNat]; omega

theorem gr_gField {r : GReg} (hr : r.wf = true) : gr (gField r) = r := by
  cases r with
  | z => rfl
  | v n =>
    have hn : n.val ≠ 0 := by simpa [GReg.wf] using hr
    have := n.isLt
    simp [gr, gField, hn, Fin.ofNat, Nat.mod_eq_of_lt this]
  | s n =>
    have := n.isLt
    simp [gr, gField, Fin.ofNat, Nat.mod_eq_of_lt this]

theorem wField_lt (w : Width) : wField w < 4 := Laws.width_enc w

theorem wField_widthOf {x : Nat} (hx : x < 4) : wField (widthOf x) = x := by
  interval_cases x <;> rfl

theorem widthOf_wField (w : Width) : widthOf (wField w) = w := by cases w <;> rfl

theorem pr_eq_some {x : Nat} {p : PReg} : pr x = some p ↔ x = p.val := by
  unfold pr
  have := p.isLt
  split
  · simp only [Option.some.injEq, Fin.ext_iff, Fin.ofNat]; omega
  · simp; omega

/-! The checks of the decoder (R249, R250). -/

theorem need_ok {c : Bool} {r : Reject} {k : Dec} {i : Instr} : need c r k = .ok i ↔ c = true ∧ k = .ok i := by
  cases c <;> simp [need]

theorem reg_ok {α : Type} {o : Option α} {k : α → Dec} {i : Instr} :
    reg o k = .ok i ↔ ∃ x, o = some x ∧ k x = .ok i := by
  cases o <;> simp [reg]

theorem code_ok {α : Type} {o : Option α} {k : α → Dec} {i : Instr} :
    code o k = .ok i ↔ ∃ x, o = some x ∧ k x = .ok i := by
  cases o <;> simp [code]

/-- A word decodes to what its fields give, where the operand limits hold (R250). -/
theorem decodeWord_ok {w : BitVec 32} {i : Instr} :
    decodeWord w = .ok i ↔ decodeFields w.toNat = .ok i ∧ i.wf = true := by
  unfold decodeWord
  cases decodeFields w.toNat with
  | error r => simp
  | ok x =>
    have hx : (if x.wf = true then Except.ok x else .error Reject.limit) = Except.ok i ↔ x = i ∧ x.wf = true := by
      split <;> simp [*]
    rw [hx, Except.ok.injEq]
    exact and_congr_right fun h => by rw [h]

/-- A layout and the decoder agree where they do so on the numbers of words. -/
theorem laid_of {majors : List Nat} {lay : Instr → Option Nat}
    (hdec : ∀ m ∈ majors, ∀ d a b fn n i, FieldsA n m d a b fn → decodeFields n = .ok i → i.wf = true →
      lay i = some n)
    (henc : ∀ i n, lay i = some n → i.wf = true → n < 2 ^ 32 ∧ decodeFields n = .ok i) : Laid majors lay := by
  refine ⟨fun w i hi hm => ?_, fun i n hn hwf => ?_⟩
  · obtain ⟨hd, hwf⟩ := decodeWord_ok.mp hi
    have hlt := w.isLt
    have hmajor : w.toNat / 2 ^ 26 = fld w.toNat 26 6 := by
      rw [fld]
      omega
    exact hdec _ (hmajor ▸ hm) _ _ _ _ _ i (fieldsA_of_lt hlt) hd hwf
  · obtain ⟨hlt, hd⟩ := henc i n hn hwf
    exact decodeWord_ok.mpr ⟨by rwa [BitVec.toNat_ofNat, Nat.mod_eq_of_lt hlt], hwf⟩

/-! Layouts as words of format A (R243, R254). -/

theorem wordA_eq (m d a b fn : Nat) : wordA m d a b fn = some (fmtA m d a b fn) := by
  simp only [wordA, packed, fmtA, List.foldl_cons, List.foldl_nil, Option.some.injEq]
  omega

theorem wordW_eq (m d a b : Nat) (w : Width) (op : Nat) : wordW m d a b w op = some (fmtA m d a b (wField w * 8 + op)) := by
  simp only [wordW, packed, fmtA, List.foldl_cons, List.foldl_nil, Option.some.injEq]
  omega

theorem wordI_eq (m : Nat) (d a : GReg) (k : BitVec 12) :
    wordI m d a k = some (fmtA m (gField d) (gField a) (k.toNat / 32) (k.toNat % 32)) := by
  simp only [wordI, packed, fmtA, List.foldl_cons, List.foldl_nil, Option.some.injEq]
  omega

theorem fieldsA_of_wordA {m d a b fn n : Nat} (h : wordA m d a b fn = some n) (hm : m < 64) (hd : d < 128) (ha : a < 128)
    (hb : b < 128) (hf : fn < 32) : FieldsA n m d a b fn :=
  fieldsA_of_fmtA (Option.some.inj ((wordA_eq m d a b fn).symm.trans h)) hm hd ha hb hf

theorem fieldsA_of_wordW {m d a b op n : Nat} {w : Width} (h : wordW m d a b w op = some n) (hm : m < 64) (hd : d < 128)
    (ha : a < 128) (hb : b < 128) (hop : op < 8) : FieldsA n m d a b (wField w * 8 + op) :=
  have hw := wField_lt w
  fieldsA_of_fmtA (Option.some.inj ((wordW_eq m d a b w op).symm.trans h)) hm hd ha hb (by omega)

theorem fieldsA_of_wordI {m n : Nat} {d a : GReg} {k : BitVec 12} (h : wordI m d a k = some n) (hm : m < 64) :
    FieldsA n m (gField d) (gField a) (k.toNat / 32) (k.toNat % 32) :=
  fieldsA_of_fmtA (Option.some.inj ((wordI_eq m d a k).symm.trans h)) hm (gField_lt d) (gField_lt a) (by omega) (by omega)

theorem wordW_of_fieldsA {n m d a b fn : Nat} (h : FieldsA n m d a b fn) :
    wordW m (gField (gr d)) (gField (gr a)) b (widthOf (fn / 8)) (fn % 8) = some n := by
  have hf := h.fnLt
  rw [wordW_eq, gField_gr h.dLt, gField_gr h.aLt, wField_widthOf (by omega), ← h.word, Nat.mul_comm, Nat.div_add_mod]

theorem wordI_of_fieldsA {n m d a b fn : Nat} (h : FieldsA n m d a b fn) :
    wordI m (gr d) (gr a) (BitVec.ofNat 12 n) = some n := by
  have hb := h.bLt
  have hf := h.fnLt
  rw [wordI_eq, gField_gr h.dLt, gField_gr h.aLt, ← h.word]
  simp only [BitVec.toNat_ofNat, fmtA, Option.some.injEq]
  omega

/-! The integer majors (R286 to R296). -/

/-- The majors with a width and a function of three bits (R254). -/
abbrev widthMajors : List Nat := [0x10, 0x11, 0x12, 0x13]

/-- Their decoders. -/
def decWidth : Nat → Width → GReg → GReg → Nat → Nat → Dec
  | 0x10, w, d, a, b, op => decIa1 w d a (gr b) op
  | 0x11, w, d, a, b, op => decIa2 w d a b op
  | 0x12, w, d, a, b, op => decIb1 w d a (gr b) op
  | _, w, d, a, b, op => decIb2 w d a b op

/-- The majors with a 12-bit constant (R294). -/
abbrev immMajors : List Nat := [0x16, 0x17, 0x18, 0x19, 0x1A, 0x1B, 0x1C]

section
variable {n m d a b fn : Nat}

theorem decodeFields_width (hm : m ∈ widthMajors) (h : FieldsA n m d a b fn) :
    decodeFields n = decWidth m (widthOf (fn / 8)) (gr d) (gr a) b (fn % 8) := by
  fin_cases hm <;> simp only [decodeFields, decWidth, h.major, h.fieldD, h.fieldA, h.fieldB, h.function]

theorem decodeFields_imm (hm : m ∈ immMajors) (h : FieldsA n m d a b fn) :
    decodeFields n = decImm m (gr d) (gr a) (BitVec.ofNat 12 n) := by
  fin_cases hm <;> simp only [decodeFields, h.major, h.fieldD, h.fieldA]

/-- MOVW or MOVK, by its major (R295). -/
def slotInstr (m : Nat) (d : GReg) (slot : Fin 4) (k : BitVec 16) : Instr :=
  match m with
  | 0x1D => .movw d slot k
  | _ => .movk d slot k

/-- Their majors. -/
abbrev slotMajors : List Nat := [0x1D, 0x1E]

theorem decodeFields_slot (hm : m ∈ slotMajors) (h : FieldsA n m d a b fn) :
    decodeFields n = need (fld n 16 1 == 0) .reservedBits
      (.ok (slotInstr m (gr d) (Fin.ofNat 4 (fld n 17 2)) (BitVec.ofNat 16 n))) := by
  fin_cases hm <;> simp only [decodeFields, slotInstr, h.major, h.fieldD]

theorem integerWord_slotInstr (hm : m ∈ slotMajors) (d : GReg) (slot : Fin 4) (k : BitVec 16) :
    integerWord (slotInstr m d slot k) = some (packed [(m, 6), (gField d, 7), (slot.val, 2), (0, 1), (k.toNat, 16)]) := by
  fin_cases hm <;> rfl

theorem decodeFields_lea (h : FieldsA n 0x1F d a b fn) :
    decodeFields n = .ok (.lea (gr d) (gr a) (gr b) (Fin.ofNat 32 fn)) := by
  simp only [decodeFields, h.major, h.fieldD, h.fieldA, h.fieldB, h.function]

/-- Where a third register stands in the field of b, the layout reads it back. -/
theorem wordW_gr {w : Width} {op : Nat} (d a : Nat) (hb : b < 128) :
    wordW m d a (gField (gr b)) w op = wordW m d a b w op := by rw [gField_gr hb]

/-- What a width-coded major decodes to has the layout of its table, function by function. -/
theorem integerWord_of_decWidth (hm : m ∈ widthMajors) (hb : b < 128) {w : Width} {d a : GReg} {op : Nat} {i : Instr}
    (h : decWidth m w d a b op = .ok i) : integerWord i = wordW m (gField d) (gField a) b w op := by
  simp only [List.mem_cons, List.not_mem_nil, or_false] at hm
  rcases hm with rfl | rfl | rfl | rfl
  · change decIa1 _ _ _ _ _ = _ at h
    unfold decIa1 at h
    split at h <;> cases h <;> exact wordW_gr _ _ hb
  · change decIa2 _ _ _ _ _ = _ at h
    unfold decIa2 at h
    split at h <;> simp only [need_ok, beq_iff_eq, Except.ok.injEq, reduceCtorEq] at h
    case h_5 | h_7 | h_8 =>
      obtain ⟨rfl, rfl⟩ := h
      rfl
    case h_6 =>
      obtain ⟨rfl, rfl⟩ := h
      exact wordW_gr _ _ hb
    all_goals
      subst h
      exact wordW_gr _ _ hb
  · change decIb1 _ _ _ _ _ = _ at h
    unfold decIb1 at h
    split at h <;> cases h <;> exact wordW_gr _ _ hb
  · change decIb2 _ _ _ _ _ = _ at h
    unfold decIb2 at h
    split at h <;> simp only [need_ok, beq_iff_eq, Except.ok.injEq, reduceCtorEq] at h
    case h_1 | h_5 =>
      obtain ⟨rfl, rfl⟩ := h
      rfl
    case h_6 =>
      obtain ⟨rfl, rfl⟩ := h
      exact wordW_gr _ _ hb
    all_goals
      subst h
      exact wordW_gr _ _ hb

/-- A shift constant beyond 63 is refused as a limit, so the layout's own bound holds (R294). -/
theorem integerWord_of_decImm (hm : m ∈ immMajors) {d a : GReg} {k : BitVec 12} {i : Instr}
    (h : decImm m d a k = .ok i) (hwf : i.wf = true) : integerWord i = wordI m d a k := by
  rcases List.mem_append.mp (show m ∈ [0x16, 0x17, 0x18, 0x19] ++ [0x1A, 0x1B, 0x1C] from hm) with hm | hm
  · fin_cases hm <;> cases h <;> rfl
  · fin_cases hm <;> cases h
    all_goals
      obtain ⟨_, hk⟩ : _ ∧ shiftWf k = true := Bool.and_eq_true_iff.mp hwf
      exact if_pos (of_decide_eq_true hk)

theorem integerWord_of_slot (hm : m ∈ slotMajors) (h : FieldsA n m d a b fn) (hz : fld n 16 1 = 0) :
    integerWord (slotInstr m (gr d) (Fin.ofNat 4 (fld n 17 2)) (BitVec.ofNat 16 n)) = some n := by
  have hlt := h.lt
  rw [integerWord_slotInstr hm, gField_gr h.dLt, ← h.major, ← h.fieldD]
  simp only [packed, fld, List.foldl_cons, List.foldl_nil, Fin.ofNat, BitVec.toNat_ofNat, Option.some.injEq] at hz ⊢
  omega

/-- Every word of an integer major that decodes has the layout of its table. -/
theorem integerWord_of_decode
    (hm : m ∈ [0x10, 0x11, 0x12, 0x13, 0x16, 0x17, 0x18, 0x19, 0x1A, 0x1B, 0x1C, 0x1D, 0x1E, 0x1F])
    (h : FieldsA n m d a b fn) {i : Instr} (hi : decodeFields n = .ok i) (hwf : i.wf = true) : integerWord i = some n := by
  rcases List.mem_append.mp (show m ∈ widthMajors ++ (immMajors ++ (slotMajors ++ [0x1F])) from hm) with hw | hm
  · rw [decodeFields_width hw h] at hi
    exact (integerWord_of_decWidth hw h.bLt hi).trans (wordW_of_fieldsA h)
  rcases List.mem_append.mp hm with hk | hm
  · rw [decodeFields_imm hk h] at hi
    exact (integerWord_of_decImm hk hi hwf).trans (wordI_of_fieldsA h)
  rcases List.mem_append.mp hm with hs | hm
  · rw [decodeFields_slot hs h, need_ok, beq_iff_eq] at hi
    obtain ⟨hz, hi⟩ := hi
    cases hi
    exact integerWord_of_slot hs h hz
  · obtain rfl := List.mem_singleton.mp hm
    rw [decodeFields_lea h] at hi
    cases hi
    have hf : (Fin.ofNat 32 fn).val = fn := Nat.mod_eq_of_lt h.fnLt
    change wordA _ _ _ _ _ = _
    rw [wordA_eq, gField_gr h.dLt, gField_gr h.aLt, gField_gr h.bLt, hf, h.word]

end

theorem wf2_iff {d a : GReg} : wf2 d a = true ↔ d.wf = true ∧ a.wf = true := Bool.and_eq_true_iff

theorem wf3_iff {d a b : GReg} : wf3 d a b = true ↔ d.wf = true ∧ a.wf = true ∧ b.wf = true := by
  simp [wf3, and_assoc]

section
variable {n m op : Nat} {w : Width} {d a b : GReg}

theorem decodes_width {x : Nat} (hm : m ∈ widthMajors) (h : wordW m (gField d) (gField a) x w op = some n) (hx : x < 128)
    (hop : op < 8) (hwf : wf2 d a = true) : n < 2 ^ 32 ∧ decodeFields n = decWidth m w d a x op := by
  obtain ⟨hd, ha⟩ := wf2_iff.mp hwf
  have hlt : m < 64 := by fin_cases hm <;> decide
  have hf := fieldsA_of_wordW h hlt (gField_lt d) (gField_lt a) hx hop
  have hdiv : (wField w * 8 + op) / 8 = wField w := by omega
  have hmod : (wField w * 8 + op) % 8 = op := by omega
  refine ⟨hf.lt, ?_⟩
  rw [decodeFields_width hm hf, gr_gField hd, gr_gField ha, hdiv, hmod, widthOf_wField]

/-- With a third register in the field of b. -/
theorem decodes_width_reg (hm : m ∈ widthMajors) (h : wordW m (gField d) (gField a) (gField b) w op = some n)
    (hop : op < 8) (hwf : wf3 d a b = true) {i : Instr} (hi : ∀ x, gr x = b → decWidth m w d a x op = .ok i) :
    n < 2 ^ 32 ∧ decodeFields n = .ok i := by
  obtain ⟨hd, ha, hb⟩ := wf3_iff.mp hwf
  rw [← hi _ (gr_gField hb)]
  exact decodes_width hm h (gField_lt b) hop (wf2_iff.mpr ⟨hd, ha⟩)

theorem decodes_imm {k : BitVec 12} (hm : m ∈ immMajors) (h : wordI m d a k = some n) (hwf : wf2 d a = true) :
    n < 2 ^ 32 ∧ decodeFields n = decImm m d a k := by
  obtain ⟨hd, ha⟩ := wf2_iff.mp hwf
  have hlt : m < 64 := by fin_cases hm <;> decide
  have hf := fieldsA_of_wordI h hlt
  have hk : BitVec.ofNat 12 n = k := by
    apply BitVec.eq_of_toNat_eq
    have hw := hf.word
    simp only [fmtA] at hw
    rw [BitVec.toNat_ofNat]
    omega
  refine ⟨hf.lt, ?_⟩
  rw [decodeFields_imm hm hf, gr_gField hd, gr_gField ha, hk]

theorem decodes_shift {k : BitVec 12} (hm : m ∈ immMajors) (h : wordS m d a k = some n)
    (hwf : (wf2 d a && shiftWf k) = true) : n < 2 ^ 32 ∧ decodeFields n = decImm m d a k := by
  obtain ⟨hda, hk⟩ := Bool.and_eq_true_iff.mp hwf
  rw [wordS, if_pos (of_decide_eq_true hk)] at h
  exact decodes_imm hm h hda

theorem decodes_slot {slot : Fin 4} {k : BitVec 16} (hm : m ∈ slotMajors) (h : integerWord (slotInstr m d slot k) = some n)
    (hd : d.wf = true) : n < 2 ^ 32 ∧ decodeFields n = .ok (slotInstr m d slot k) := by
  have hlt : m < 64 := by fin_cases hm <;> decide
  have hs := slot.isLt
  have hk := k.isLt
  have hA : fmtA m (gField d) (slot.val * 32 + k.toNat / 4096) (k.toNat / 32 % 128) (k.toNat % 32) = n := by
    rw [integerWord_slotInstr hm] at h
    rw [← Option.some.inj h]
    simp only [fmtA, packed, List.foldl_cons, List.foldl_nil]
    omega
  have hf := fieldsA_of_fmtA hA hlt (gField_lt d) (by omega) (by omega) (by omega)
  have hzero : fld n 16 1 = 0 := by
    simp only [← hA, fmtA, fld]
    omega
  have hslot : Fin.ofNat 4 (fld n 17 2) = slot := Fin.ext (by simp only [← hA, fmtA, fld, Fin.ofNat]; omega)
  have himm : BitVec.ofNat 16 n = k := BitVec.eq_of_toNat_eq (by simp only [← hA, fmtA, BitVec.toNat_ofNat]; omega)
  refine ⟨hf.lt, ?_⟩
  rw [decodeFields_slot hm hf, hzero, hslot, himm, gr_gField hd]
  rfl

theorem decodes_lea {sh : Fin 32} (h : integerWord (.lea d a b sh) = some n) (hwf : wf3 d a b = true) :
    n < 2 ^ 32 ∧ decodeFields n = .ok (.lea d a b sh) := by
  obtain ⟨hd, ha, hb⟩ := wf3_iff.mp hwf
  have hf := fieldsA_of_wordA h (by decide) (gField_lt d) (gField_lt a) (gField_lt b) sh.isLt
  refine ⟨hf.lt, ?_⟩
  rw [decodeFields_lea hf, gr_gField hd, gr_gField ha, gr_gField hb, Fin.ofNat_val_eq_self]

end

/-- Every word that an integer table lays out decodes to its instruction. -/
theorem decode_of_integerWord {i : Instr} {n : Nat} (h : integerWord i = some n) (hwf : i.wf = true) :
    n < 2 ^ 32 ∧ decodeFields n = .ok i := by
  unfold integerWord at h
  split at h
  -- the unary functions: IABS, POPC, CLZ, BREV, MOV
  case h_13 | h_15 | h_16 | h_25 | h_29 => exact decodes_width (by decide) h (by decide) (by decide) hwf
  -- ADDI to XORI, then SHLI to SARI
  case h_33 | h_34 | h_35 | h_36 => exact decodes_imm (by decide) h hwf
  case h_37 | h_38 | h_39 => exact decodes_shift (by decide) h hwf
  case h_40 => exact decodes_slot (m := 0x1D) (by decide) h hwf
  case h_41 => exact decodes_slot (m := 0x1E) (by decide) h hwf
  case h_42 => exact decodes_lea h hwf
  case h_43 => cases h
  -- the functions of two registers
  all_goals exact decodes_width_reg (by decide) h (by decide) hwf fun _ hx => by subst hx; rfl

/-- The words of the integer majors are those of their tables, and no others (R286 to R296). -/
theorem laid_integer :
    Laid [0x10, 0x11, 0x12, 0x13, 0x16, 0x17, 0x18, 0x19, 0x1A, 0x1B, 0x1C, 0x1D, 0x1E, 0x1F] integerWord :=
  laid_of (fun _ hm _ _ _ _ _ _ hf => integerWord_of_decode hm hf) fun _ _ => decode_of_integerWord

/-! Predicate logic (R293). -/

theorem pr_val (p : PReg) : pr p.val = some p := pr_eq_some.mpr rfl

theorem decodeFields_plog {n d a b fn : Nat} (h : FieldsA n 0x15 d a b fn) : decodeFields n = decPlog d a b fn := by
  simp only [decodeFields, h.major, h.fieldD, h.fieldA, h.fieldB, h.function]

theorem predicateWord_of_decPlog {d a b fn : Nat} {i : Instr} (h : decPlog d a b fn = .ok i) :
    predicateWord i = wordA 0x15 d a b fn := by
  simp only [decPlog, reg_ok, pr_eq_some] at h
  obtain ⟨d, rfl, a, rfl, h⟩ := h
  split at h <;> simp only [reg_ok, pr_eq_some, need_ok, beq_iff_eq, Except.ok.injEq, reduceCtorEq] at h
  case h_5 | h_6 =>
    obtain ⟨rfl, rfl⟩ := h
    rfl
  all_goals
    obtain ⟨b, rfl, rfl⟩ := h
    rfl

theorem decodes_plog {n d a b fn : Nat} (h : wordA 0x15 d a b fn = some n) (hd : d < 16) (ha : a < 16) (hb : b < 16)
    (hf : fn < 32) : n < 2 ^ 32 ∧ decodeFields n = decPlog d a b fn :=
  have hf := fieldsA_of_wordA h (by decide) (by omega) (by omega) (by omega) hf
  ⟨hf.lt, decodeFields_plog hf⟩

theorem decode_of_predicateWord {i : Instr} {n : Nat} (h : predicateWord i = some n) :
    n < 2 ^ 32 ∧ decodeFields n = .ok i := by
  unfold predicateWord at h
  split at h
  case h_5 d a | h_6 d a =>
    obtain ⟨hlt, hd⟩ := decodes_plog h d.isLt a.isLt (by decide) (by decide)
    exact ⟨hlt, by rw [hd, decPlog, pr_val, pr_val]; rfl⟩
  case h_7 => cases h
  case h_1 d a b | h_2 d a b | h_3 d a b | h_4 d a b =>
    obtain ⟨hlt, hd⟩ := decodes_plog h d.isLt a.isLt b.isLt (by decide)
    exact ⟨hlt, by rw [hd, decPlog, pr_val, pr_val, pr_val]; rfl⟩

/-- The words of PLOG are those of its table, and no others (R293). -/
theorem laid_predicate : Laid [0x15] predicateWord := by
  refine laid_of (fun m hm d a b fn n i hf hi _ => ?_) fun _ _ h _ => decode_of_predicateWord h
  obtain rfl := List.mem_singleton.mp hm
  rw [decodeFields_plog hf] at hi
  rw [predicateWord_of_decPlog hi, wordA_eq, hf.word]

/-! The compares (R254, R292, R304). -/

theorem combineOf_eq_some {x : Nat} {cb : Combine} : combineOf x = some cb ↔ x = cbField cb := by
  rcases x with _ | _ | _ | _ | x <;> cases cb <;> simp [combineOf, cbField]

theorem cbField_lt (cb : Combine) : cbField cb < 8 := by cases cb <;> decide

theorem icField_icondOf {x : Nat} (hx : x < 8) : icField (icondOf x) = x := by interval_cases x <;> rfl

theorem icondOf_icField (c : ICond) : icondOf (icField c) = c := by cases c <;> rfl

theorem fcField_fcondOf {x : Nat} (hx : x < 8) : fcField (fcondOf x) = x := by interval_cases x <;> rfl

theorem fcondOf_fcField (c : FCond) : fcondOf (fcField c) = c := by cases c <;> rfl

theorem fmField_fsetFmt {x : Nat} (hx : x < 4) : fmField (fsetFmt x) = x := by interval_cases x <;> rfl

theorem fsetFmt_fmField (f : FpFmt) : fsetFmt (fmField f) = f := by cases f <;> rfl

/-- The three compares, by major, from the fields of a predicate, a condition, a width or format, and a combine code. -/
def setInstr (m p c f : Nat) (cb : Combine) (a b : GReg) : Instr :=
  match m with
  | 0x14 => .iset (icondOf c) cb (widthOf f) (Fin.ofNat 16 p) a b
  | 0x28 => .fset (fcondOf c) cb (fsetFmt f) (Fin.ofNat 16 p) a b
  | _ => .fsets (fcondOf c) cb (fsetFmt f) (Fin.ofNat 16 p) a b

/-- The compares' majors. -/
abbrev setMajors : List Nat := [0x14, 0x28, 0x29]

section
variable {n m d a b fn : Nat}

theorem decodeFields_set (hm : m ∈ setMajors) (h : FieldsA n m d a b fn) :
    decodeFields n = code (combineOf (fn % 8)) fun cb => .ok (setInstr m (d / 8) (d % 8) (fn / 8) cb (gr a) (gr b)) := by
  obtain ⟨hp, hc⟩ := h.predicateAndCondition
  fin_cases hm <;> simp only [decodeFields, setInstr, h.major, h.fieldA, h.fieldB, h.function, hp, hc]

/-- The word of a compare by its fields. -/
theorem setWord_eq (m p c a b f cb : Nat) :
    packed [(m, 6), (p, 4), (c, 3), (a, 7), (b, 7), (f, 2), (cb, 3)] = fmtA m (p * 8 + c) a b (f * 8 + cb) := by
  simp only [packed, fmtA, List.foldl_cons, List.foldl_nil]
  omega

theorem compareWord_setInstr (hm : m ∈ setMajors) {p c f : Nat} (hp : p < 16) (hc : c < 8) (hf : f < 4) (cb : Combine)
    (a b : GReg) :
    compareWord (setInstr m p c f cb a b) = some (fmtA m (p * 8 + c) (gField a) (gField b) (f * 8 + cbField cb)) := by
  have hpv : (Fin.ofNat 16 p).val = p := Nat.mod_eq_of_lt hp
  fin_cases hm <;>
    simp only [setInstr, compareWord, setWord_eq, hpv, icField_icondOf hc, fcField_fcondOf hc, wField_widthOf hf,
      fmField_fsetFmt hf]

theorem compareWord_of_decode (hm : m ∈ setMajors) (h : FieldsA n m d a b fn) {i : Instr} (hi : decodeFields n = .ok i) :
    compareWord i = some n := by
  have hd := h.dLt
  have hfn := h.fnLt
  simp only [decodeFields_set hm h, code_ok, combineOf_eq_some, Except.ok.injEq] at hi
  obtain ⟨cb, hcb, rfl⟩ := hi
  rw [compareWord_setInstr hm (by omega) (by omega) (by omega), gField_gr h.aLt, gField_gr h.bLt, ← hcb, ← h.word]
  congr 2 <;> omega

/-- A word of a compare decodes to what its fields stand for. -/
theorem decodes_set {p c f : Nat} {cb : Combine} {a b : GReg} (hm : m ∈ setMajors)
    (h : some (packed [(m, 6), (p, 4), (c, 3), (gField a, 7), (gField b, 7), (f, 2), (cbField cb, 3)]) = some n)
    (hp : p < 16) (hc : c < 8) (hf : f < 4) (hwf : wf2 a b = true) :
    n < 2 ^ 32 ∧ decodeFields n = .ok (setInstr m p c f cb a b) := by
  obtain ⟨ha, hb⟩ := wf2_iff.mp hwf
  have hlt : m < 64 := by fin_cases hm <;> decide
  have hcb := cbField_lt cb
  have hw : FieldsA n m (p * 8 + c) (gField a) (gField b) (f * 8 + cbField cb) :=
    fieldsA_of_fmtA ((setWord_eq ..).symm.trans (Option.some.inj h)) hlt (by omega) (gField_lt a) (gField_lt b) (by omega)
  have hcomb : combineOf ((f * 8 + cbField cb) % 8) = some cb := combineOf_eq_some.mpr (by omega)
  refine ⟨hw.lt, ?_⟩
  rw [decodeFields_set hm hw, hcomb, gr_gField ha, gr_gField hb, show (p * 8 + c) / 8 = p by omega,
    show (p * 8 + c) % 8 = c by omega, show (f * 8 + cbField cb) / 8 = f by omega]
  rfl

end

theorem icField_lt (c : ICond) : icField c < 8 := by cases c <;> decide

theorem fcField_lt (c : FCond) : fcField c < 8 := by cases c <;> decide

theorem fmField_lt (f : FpFmt) : fmField f < 4 := by cases f <;> decide

theorem decode_of_compareWord {i : Instr} {n : Nat} (h : compareWord i = some n) (hwf : i.wf = true) :
    n < 2 ^ 32 ∧ decodeFields n = .ok i := by
  unfold compareWord at h
  split at h
  case h_1 c cb w pd a b =>
    have hd := decodes_set (by decide) h pd.isLt (icField_lt c) (wField_lt w) hwf
    simpa only [setInstr, icondOf_icField, widthOf_wField, Fin.ofNat_val_eq_self] using hd
  case h_2 c cb f pd a b =>
    have hd := decodes_set (by decide) h pd.isLt (fcField_lt c) (fmField_lt f) hwf
    simpa only [setInstr, fcondOf_fcField, fsetFmt_fmField, Fin.ofNat_val_eq_self] using hd
  case h_3 c cb f pd a b =>
    have hd := decodes_set (by decide) h pd.isLt (fcField_lt c) (fmField_lt f) hwf
    simpa only [setInstr, fcondOf_fcField, fsetFmt_fmField, Fin.ofNat_val_eq_self] using hd
  case h_4 => cases h

/-- The words of the compares are those of their tables, and no others (R254). -/
theorem laid_compare : Laid [0x14, 0x28, 0x29] compareWord :=
  laid_of (fun _ hm _ _ _ _ _ _ hf hi _ => compareWord_of_decode hm hf hi) fun _ _ => decode_of_compareWord

/-! Exchanges between lanes and votes (R307 to R310). -/

section
variable {n d a b fn : Nat}

theorem decodeFields_xln (h : FieldsA n 0x30 d a b fn) :
    decodeFields n = need (fn % 4 == 0) .function
      (.ok (.xln (fn / 4 % 2 == 1) (widthOf (fn / 8)) (gr d) (gr a) (gr b))) := by
  simp only [decodeFields, h.major, h.fieldD, h.fieldA, h.fieldB, h.function]

theorem decodeFields_xli (h : FieldsA n 0x31 d a b fn) : decodeFields n = decXli (gr d) (gr a) b fn := by
  simp only [decodeFields, h.major, h.fieldD, h.fieldA, h.fieldB, h.function]

theorem decodeFields_qx (h : FieldsA n 0x32 d a b fn) : decodeFields n = decQx (gr d) (gr a) b fn := by
  simp only [decodeFields, h.major, h.fieldD, h.fieldA, h.fieldB, h.function]

theorem decodeFields_vote (h : FieldsA n 0x33 d a b fn) : decodeFields n = decVote d a b fn := by
  simp only [decodeFields, h.major, h.fieldD, h.fieldA, h.fieldB, h.function]

theorem xlnWord_eq (d a b w k : Nat) :
    packed [(0x30, 6), (d, 7), (a, 7), (b, 7), (w, 2), (k, 1), (0, 2)] = fmtA 0x30 d a b (w * 8 + k * 4) := by
  simp only [packed, fmtA, List.foldl_cons, List.foldl_nil]
  omega

/-- A sub-element that the width has is one that is well-formed (R254). -/
theorem subs_eq (w : Width) : w.subs = 64 / Width.bits w := by cases w <;> rfl

theorem wordX_eq {mode : Nat} {w : Width} {d a : GReg} {lane sub : Nat} (hs : sub < w.subs) :
    wordX mode w d a lane sub = some (fmtA 0x31 (gField d) (gField a) (wField w * 32 + mode * 8 + sub) lane) := by
  rw [wordX, if_pos (subs_eq w ▸ hs)]
  simp only [packed, fmtA, List.foldl_cons, List.foldl_nil, Option.some.injEq]
  omega

theorem crossWord_of_xln (h : FieldsA n 0x30 d a b fn) {i : Instr} (hi : decodeFields n = .ok i) :
    crossWord i = some n := by
  have hfn := h.fnLt
  rw [decodeFields_xln h, need_ok, beq_iff_eq] at hi
  obtain ⟨hz, hi⟩ := hi
  cases hi
  have hk : b2n (fn / 4 % 2 == 1) = fn / 4 % 2 := by
    rcases Nat.mod_two_eq_zero_or_one (fn / 4) with h2 | h2 <;> rw [h2] <;> rfl
  have hf : fn / 8 * 8 + fn / 4 % 2 * 4 = fn := by omega
  rw [crossWord, xlnWord_eq, gField_gr h.dLt, gField_gr h.aLt, gField_gr h.bLt, wField_widthOf (by omega), hk, hf, h.word]

theorem crossWord_of_xli (h : FieldsA n 0x31 d a b fn) {i : Instr} (hi : decodeFields n = .ok i) (hwf : i.wf = true) :
    crossWord i = some n := by
  have hb := h.bLt
  have hl : (Fin.ofNat 32 fn).val = fn := Nat.mod_eq_of_lt h.fnLt
  have hw := wField_widthOf (x := b / 32) (by omega)
  have hword (mode : Nat) (hm : b / 8 % 4 = mode)
      (hwf : (wf2 (gr d) (gr a) && (Fin.ofNat 8 b).val < (widthOf (b / 32)).subs) = true) :
      wordX mode (widthOf (b / 32)) (gr d) (gr a) (Fin.ofNat 32 fn).val (Fin.ofNat 8 b).val = some n := by
    have hs8 : (Fin.ofNat 8 b).val = b % 8 := rfl
    obtain ⟨_, hs⟩ := Bool.and_eq_true_iff.mp hwf
    rw [wordX_eq (of_decide_eq_true hs), gField_gr h.dLt, gField_gr h.aLt, hw, hl, hs8, ← h.word,
      show b / 32 * 32 + mode * 8 + b % 8 = b by omega]
  rw [decodeFields_xli h, decXli] at hi
  split at hi <;> cases hi
  case h_1 hm => exact hword 0 hm hwf
  case h_2 hm => exact hword 1 hm hwf
  case h_3 hm => exact hword 2 hm hwf
  case h_4 h0 h1 h2 =>
    have hne : b / 8 % 4 ≠ 0 ∧ b / 8 % 4 ≠ 1 ∧ b / 8 % 4 ≠ 2 := ⟨h0, h1, h2⟩
    exact hword 3 (by omega) hwf

theorem crossWord_of_decQx {d a : GReg} {i : Instr} (h : decQx d a b fn = .ok i) :
    crossWord i = wordA 0x32 (gField d) (gField a) b fn := by
  unfold decQx at h
  rw [need_ok, beq_iff_eq] at h
  obtain ⟨rfl, h⟩ := h
  split at h <;> cases h <;> rfl

theorem crossWord_of_decVote (hd : d < 128) (ha : a < 128) {i : Instr} (h : decVote d a b fn = .ok i) :
    crossWord i = wordA 0x33 d a b fn := by
  unfold decVote at h
  rw [need_ok, beq_iff_eq] at h
  obtain ⟨rfl, h⟩ := h
  split at h <;> simp only [reg_ok, pr_eq_some, Except.ok.injEq, reduceCtorEq] at h
  case h_1 | h_2 =>
    obtain ⟨d, rfl, a, rfl, rfl⟩ := h
    rfl
  case h_3 | h_5 =>
    obtain ⟨a, rfl, rfl⟩ := h
    exact congrArg (fun d => wordA 0x33 d _ 0 _) (gField_gr hd)
  case h_4 =>
    subst h
    exact congrArg₂ (fun d a => wordA 0x33 d a 0 _) (gField_gr hd) (gField_gr ha)

end

/-- Every word of a cross-lane major that decodes has the layout of its table. -/
theorem crossWord_of_decode {m d a b fn n : Nat} (hm : m ∈ [0x30, 0x31, 0x32, 0x33]) (h : FieldsA n m d a b fn) {i : Instr}
    (hi : decodeFields n = .ok i) (hwf : i.wf = true) : crossWord i = some n := by
  simp only [List.mem_cons, List.not_mem_nil, or_false] at hm
  rcases hm with rfl | rfl | rfl | rfl
  · exact crossWord_of_xln h hi
  · exact crossWord_of_xli h hi hwf
  · rw [decodeFields_qx h] at hi
    rw [crossWord_of_decQx hi, wordA_eq, gField_gr h.dLt, gField_gr h.aLt, h.word]
  · rw [decodeFields_vote h] at hi
    rw [crossWord_of_decVote h.dLt h.aLt hi, wordA_eq, h.word]

section
variable {n : Nat} {w : Width} {d a b : GReg}

theorem decodes_xln {keep : Bool} (h : crossWord (.xln keep w d a b) = some n) (hwf : wf3 d a b = true) :
    n < 2 ^ 32 ∧ decodeFields n = .ok (.xln keep w d a b) := by
  obtain ⟨hd, ha, hb⟩ := wf3_iff.mp hwf
  have hw := wField_lt w
  have hk := b2n_le_one keep
  have hf : FieldsA n 0x30 (gField d) (gField a) (gField b) (wField w * 8 + b2n keep * 4) :=
    fieldsA_of_fmtA ((xlnWord_eq ..).symm.trans (Option.some.inj h)) (by decide) (gField_lt d) (gField_lt a) (gField_lt b)
      (by omega)
  have hkeep : ((wField w * 8 + b2n keep * 4) / 4 % 2 == 1) = keep := by
    rw [show (wField w * 8 + b2n keep * 4) / 4 % 2 = b2n keep by omega]
    cases keep <;> rfl
  refine ⟨hf.lt, ?_⟩
  rw [decodeFields_xln hf, hkeep, show (wField w * 8 + b2n keep * 4) / 8 = wField w by omega, widthOf_wField, gr_gField hd,
    gr_gField ha, gr_gField hb, show (wField w * 8 + b2n keep * 4) % 4 = 0 by omega]
  rfl

/-- The word of an XLI decodes by its mode. -/
theorem decodes_xli {mode : Nat} (hmode : mode < 4) {lane : Fin 32} {sb : Fin 8}
    (h : wordX mode w d a lane.val sb.val = some n) (hwf : (wf2 d a && sb.val < w.subs) = true) {i : Instr}
    (hi : ∀ x, x / 8 % 4 = mode → widthOf (x / 32) = w → Fin.ofNat 8 x = sb → decXli d a x lane.val = .ok i) :
    n < 2 ^ 32 ∧ decodeFields n = .ok i := by
  obtain ⟨hda, hs⟩ := Bool.and_eq_true_iff.mp hwf
  obtain ⟨hd, ha⟩ := wf2_iff.mp hda
  have hw := wField_lt w
  have hsb := sb.isLt
  rw [wordX_eq (of_decide_eq_true hs)] at h
  have hf : FieldsA n 0x31 (gField d) (gField a) (wField w * 32 + mode * 8 + sb.val) lane.val :=
    fieldsA_of_fmtA (Option.some.inj h) (by decide) (gField_lt d) (gField_lt a) (by omega) lane.isLt
  refine ⟨hf.lt, ?_⟩
  rw [decodeFields_xli hf, gr_gField hd, gr_gField ha]
  refine hi _ (by omega) ?_ (Fin.ext ?_)
  · rw [show (wField w * 32 + mode * 8 + sb.val) / 32 = wField w by omega, widthOf_wField]
  · simp only [Fin.ofNat]
    omega

theorem decodes_qx {fn : Nat} (h : wordA 0x32 (gField d) (gField a) 0 fn = some n) (hfn : fn < 32) (hwf : wf2 d a = true) :
    n < 2 ^ 32 ∧ decodeFields n = decQx d a 0 fn := by
  obtain ⟨hd, ha⟩ := wf2_iff.mp hwf
  have hf := fieldsA_of_wordA h (by decide) (gField_lt d) (gField_lt a) (by decide) hfn
  refine ⟨hf.lt, ?_⟩
  rw [decodeFields_qx hf, gr_gField hd, gr_gField ha]

theorem decodes_vote {d a fn : Nat} (h : wordA 0x33 d a 0 fn = some n) (hd : d < 128) (ha : a < 128) (hfn : fn < 32) :
    n < 2 ^ 32 ∧ decodeFields n = decVote d a 0 fn :=
  have hf := fieldsA_of_wordA h (by decide) hd ha (by decide) hfn
  ⟨hf.lt, decodeFields_vote hf⟩

end

/-- Every word that a cross-lane table lays out decodes to its instruction. -/
theorem decode_of_crossWord {i : Instr} {n : Nat} (h : crossWord i = some n) (hwf : i.wf = true) :
    n < 2 ^ 32 ∧ decodeFields n = .ok i := by
  have hp (p : PReg) : p.val < 128 := by omega
  unfold crossWord at h
  split at h
  case h_1 => exact decodes_xln h hwf
  -- XLI
  case h_2 | h_3 | h_4 | h_5 =>
    refine decodes_xli (by decide) h hwf fun x hm hw hs => ?_
    rw [decXli, hm, hw, hs, Fin.ofNat_val_eq_self]
    rfl
  -- QX
  case h_6 | h_7 | h_8 | h_9 | h_10 | h_11 | h_12 => exact decodes_qx h (by decide) hwf
  -- VANY and VALL
  case h_13 d a | h_14 d a =>
    obtain ⟨hlt, hd⟩ := decodes_vote h (hp d) (hp a) (by decide)
    exact ⟨hlt, by rw [hd, decVote, pr_val, pr_val]; rfl⟩
  -- VBAL and VFIRST
  case h_15 d a | h_17 d a =>
    obtain ⟨hlt, hd⟩ := decodes_vote h (gField_lt d) (hp a) (by decide)
    exact ⟨hlt, by rw [hd, decVote, pr_val, gr_gField hwf]; rfl⟩
  -- MBCNT
  case h_16 d a =>
    obtain ⟨hlt, hd⟩ := decodes_vote h (gField_lt d) (gField_lt a) (by decide)
    obtain ⟨hdw, haw⟩ := wf2_iff.mp hwf
    exact ⟨hlt, by rw [hd, decVote, gr_gField hdw, gr_gField haw]; rfl⟩
  case h_18 => cases h

/-- The words of the cross-lane majors are those of their tables, and no others (R307 to R310). -/
theorem laid_cross : Laid [0x30, 0x31, 0x32, 0x33] crossWord :=
  laid_of (fun _ hm _ _ _ _ _ _ hf => crossWord_of_decode hm hf) fun _ _ => decode_of_crossWord

end Sys2Proof.Proofs
end

section
/-! PROOFS. Predicates, compares, and what lanes read of one another (R292, R293, R304, R306 to R310). -/

namespace Sys2Proof.Proofs

open Sys2Proof.Machine Sys2Proof.Rules

/-! Predicate logic (R293). -/

/-- Each PLOG instruction writes in every active lane a predicate whose bits obey the table's rule. -/
theorem plog_meaning {i : Instr} {d a b : PReg} {f : Bool → Bool → Bool} (h : plog i = some (d, a, b, f)) :
    ∃ p : Group → Nat → BitVec 8, (∀ s, exec i s = compute i s fun g => g.laneResultP d (p g))
      ∧ ∀ g l, ∀ j < 8, (p g l).getLsbD j = f ((g.readP a l).getLsbD j) ((g.readP b l).getLsbD j) := by
  unfold plog at h
  split at h <;> cases h
  · exact ⟨_, fun s => exec_pand s d a b, fun _ _ _ _ => BitVec.getLsbD_and⟩
  · exact ⟨_, fun s => exec_por s d a b, fun _ _ _ _ => BitVec.getLsbD_or⟩
  · exact ⟨_, fun s => exec_pxor s d a b, fun _ _ _ _ => BitVec.getLsbD_xor⟩
  · refine ⟨_, fun s => exec_pandn s d a b, fun _ _ j hj => ?_⟩
    rw [BitVec.getLsbD_and, BitVec.getLsbD_not, decide_eq_true hj, Bool.true_and]
  · refine ⟨_, fun s => exec_pnot s d a, fun _ _ j hj => ?_⟩
    rw [BitVec.getLsbD_not, decide_eq_true hj, Bool.true_and]
  · exact ⟨_, fun s => exec_pmov s d a, fun _ _ _ _ => rfl⟩

/-! Compares (R292, R304). -/

theorem combineBit_iff (cb : Combine) (old : Bool) {new : Bool} {p : Prop} (h : new = true ↔ p) :
    combineBit cb old new = true ↔ joins cb (old = true) p := by
  cases cb <;> cases old <;> cases new <;> simp_all [combineBit, joins]

theorem icond_iff (c : ICond) (n x y : Nat) : icond c n x y = true ↔ compares c n x y := by
  cases c <;> simp [icond, compares]

theorem fpCompare_iff (c : FCond) (f : FpFmt) (ftz loud : Bool) (x y : Nat) :
    (fpCompare f ftz loud c x y).1 = true ↔ relates c f (ftzIn f ftz x) (ftzIn f ftz y) := by
  cases c <;> simp [fpCompare, relates, and_assoc, or_assoc]

theorem fpCompare_flags (c : FCond) (f : FpFmt) (ftz loud : Bool) (x y : Nat) :
    (fpCompare f ftz loud c x y).2 = { nv := trips loud f (ftzIn f ftz x) (ftzIn f ftz y) } := rfl

/-- A predicate into which the results of m compares are joined: bit for bit, and as it was above. -/
theorem predBits_joins (cb : Combine) (m : Nat) (old : BitVec 8) {res : Nat → Bool} {p : Nat → Prop}
    (h : ∀ j, res j = true ↔ p j) {j : Nat} (hj : j < 8) :
    (predBits m old fun i o => combineBit cb o (res i)).getLsbD j = true ↔
      if j < m then joins cb (old.getLsbD j = true) (p j) else old.getLsbD j = true := by
  rw [predBits_getLsbD _ _ _ hj]
  split
  · exact combineBit_iff cb _ (h j)
  · rfl

/-- Flags that hold NV alone come together as NV alone. -/
theorem orFlags_invalid (n : Nat) (p : Nat → Bool) :
    orFlags ((List.range n).map fun j => { nv := p j }) = { nv := anySub n p } := by
  have hfold (l : List Nat) (a : Bool) :
      (l.map fun j => ({ nv := p j } : Flg)).foldl Flg.or { nv := a } = { nv := a || l.any p } := by
    induction l generalizing a with
    | nil => simp
    | cons j l ih => simpa [Flg.or, Bool.or_assoc] using ih (a || p j)
  simpa [orFlags, Flg.none, anySub] using hfold (List.range n) false

/-- Flags raised over a group that has the same masks are raised over the group. -/
theorem raisedFlags_of_shell {g h new : Group} {ls : List Nat} {fl : Nat → Flg} (hs : h.shell = g.shell)
    (hr : RaisedFlags h new ls fl) : RaisedFlags g new ls fl := by
  have hk {α : Type} (p : Group → α) (hp : ∀ x : Group, p x.shell = p x) : p h = p g := by rw [← hp h, hs, hp g]
  have hm (l : Nat) : h.isMember l = g.isMember l := hk (fun x => x.isMember l) fun _ => rfl
  have hnv : h.fpxNV = g.fpxNV := hk Group.fpxNV fun _ => rfl
  have hdz : h.fpxDZ = g.fpxDZ := hk Group.fpxDZ fun _ => rfl
  have hov : h.fpxOF = g.fpxOF := hk Group.fpxOF fun _ => rfl
  have huf : h.fpxUF = g.fpxUF := hk Group.fpxUF fun _ => rfl
  have hnx : h.fpxNX = g.fpxNX := hk Group.fpxNX fun _ => rfl
  exact ⟨fun l => by rw [hr.nv l, hm, hnv], fun l => by rw [hr.dz l, hm, hdz], fun l => by rw [hr.ov l, hm, hov],
    fun l => by rw [hr.uf l, hm, huf], fun l => by rw [hr.nx l, hm, hnx]⟩

theorem readP_of_preds {g h : Group} (hp : h.preds = g.preds) (p : PReg) (l : Nat) : h.readP p l = g.readP p l := by
  simp only [Group.readP, hp]

/-- The one law of a compare: its predicate, its flags and its frame. -/
theorem lanesCompare_wrote (g : Group) (loud : Bool) (c : FCond) (cb : Combine) (f : FpFmt) (pd : PReg) (a b : GReg) :
    let new := g.lanesCompare loud c cb f pd a b
    let r (l : Nat) : BitVec 8 × Flg := compareLane g loud c cb f pd a b l
    WrotePred g new pd (fun l v => v = (r l).1) ∧ RaisedFlags g new g.lanesOn (fun l => (r l).2)
      ∧ new.vregs = g.vregs ∧ new.sregs = g.sregs ∧ new.core = g.core := by
  intro new r
  have he : new = (g.laneResultP pd fun l => (r l).1).raiseAll (g.lanesOn.map fun l => (l, (r l).2)) := by
    simp only [new, r, Group.lanesCompare, List.map_map, Function.comp_def, Group.laneResultP]
  obtain ⟨hw, hv, hs, hsh⟩ := laneResultP_only g pd fun l => (r l).1
  have hfl := raiseAll_flags (g.laneResultP pd fun l => (r l).1) g.lanesOn (fun l => (r l).2) fun l => lanesOn_lt
  obtain ⟨hc, hs', hv', hp', _⟩ :=
    raiseAll_frame (g.laneResultP pd fun l => (r l).1) (g.lanesOn.map fun l => (l, (r l).2))
  rw [← he] at hfl hc hs' hv' hp'
  have hcore : (g.laneResultP pd fun l => (r l).1).core = g.core :=
    (congrArg Group.core hsh : (Group.shell _).core = g.shell.core)
  refine ⟨⟨fun hpd l hl => ?_, fun l => ?_, fun k hk => ?_⟩, raisedFlags_of_shell hsh hfl, hv'.trans hv, hs'.trans hs,
    hc.trans hcore⟩
  · rw [readP_of_preds hp']
    exact hw.value hpd l hl
  · rw [readP_of_preds hp']
    exact hw.top l
  · rw [hp']
    exact hw.others k hk

theorem wrotePred_mono {g new : Group} {p : PReg} {q r : Nat → BitVec 8 → Prop} (h : WrotePred g new p q)
    (hqr : ∀ l v, q l v → r l v) : WrotePred g new p r :=
  ⟨fun hp l hl => hqr l _ (h.value hp l hl), h.top, h.others⟩

theorem exec_compare (loud : Bool) (c : FCond) (cb : Combine) (f : FpFmt) (pd : PReg) (a b : GReg) (s : State) :
    let i := if loud then Instr.fsets c cb f pd a b else .fset c cb f pd a b
    exec i s = compute i s fun g => g.lanesCompare loud c cb f pd a b := by
  cases loud
  · exact exec_fset s c cb f pd a b
  · exact exec_fsets s c cb f pd a b

/-! What a lane reads of another (R306). -/

theorem srcSub_of_lends {g : Group} {a : GReg} {k : Nat} (n i : Nat) (h : lends g a k) :
    g.srcSub a n k i = some (el g a n k i) := by
  cases a with
  | v r =>
    have hk : g.active.getLsbD k = true := h.resolve_left fun hne => hne r rfl
    simp only [Group.srcSub, hk, if_true, el, Group.readR]
  | z => rfl
  | s r => rfl

theorem srcSub_of_not_lends {g : Group} {a : GReg} {k : Nat} (n i : Nat) (h : ¬lends g a k) : g.srcSub a n k i = none := by
  obtain ⟨ha, hk⟩ := not_or.mp h
  cases a with
  | v r => simp only [Group.srcSub, hk, Bool.false_eq_true, if_false]
  | z => exact absurd (fun _ => GReg.noConfusion) ha
  | s r => exact absurd (fun _ => GReg.noConfusion) ha

/-- The one law of a result joined from sub-elements. -/
theorem laneJoined_only (g : Group) (w : Width) (d : GReg) (f : Nat → Nat → Nat) :
    OnlyReg g (g.laneResult d fun l => joinSubs (Width.bits w) ((List.range (64 / Width.bits w)).map (f l))) d
      fun l v => ∀ j < 64 / Width.bits w, sub v (Width.bits w) j = f l j % 2 ^ Width.bits w :=
  (laneResult_only g d _).mono fun _ _ h _ hj => by rw [h, sub_joinSubs_range _ _ hj (Nat.mul_div_le 64 _)]

theorem el_mod (g : Group) (r : GReg) (n l j : Nat) : el g r n l j % 2 ^ n = el g r n l j :=
  Nat.mod_eq_of_lt (sub_lt _ n j)

/-- What stands in for a source sub-element that is not read: where the lane lends, the source; else the other. -/
theorem srcSub_getD (g : Group) (a : GReg) {n k i z : Nat} (hz : z % 2 ^ n = z) {x : Nat}
    (hx : x = (g.srcSub a n k i).getD z % 2 ^ n) : (lends g a k → x = el g a n k i) ∧ (¬lends g a k → x = z) := by
  refine ⟨fun h => ?_, fun h => ?_⟩
  · rw [hx, srcSub_of_lends n i h, Option.getD_some, el_mod]
  · rw [hx, srcSub_of_not_lends n i h, Option.getD_none, hz]

theorem two_pow_subLog (w : Width) : 2 ^ subLog w = 64 / Width.bits w := by cases w <;> decide

theorem xln_only (g : Group) (keep : Bool) (w : Width) (d a b : GReg) :
    let n := Width.bits w
    OnlyReg g (g.laneResult d fun l => joinSubs n ((List.range (64 / n)).map fun i =>
        let y := sub (g.readR b l) n i
        (g.srcSub a n (y % 32) (y / 32 % 2 ^ subLog w)).getD (if keep then sub (g.readR d l) n i else 0))) d
      fun l v => ∀ j < 64 / n,
        (lends g a (el g b n l j % 32) → sub v n j = el g a n (el g b n l j % 32) (el g b n l j / 32 % (64 / n)))
          ∧ (¬lends g a (el g b n l j % 32) → sub v n j = if keep then el g d n l j else 0) := by
  intro n
  refine (laneJoined_only g w d _).mono fun l v h j hj => ?_
  rw [← two_pow_subLog]
  refine srcSub_getD g a ?_ (h j hj)
  cases keep
  · rfl
  · exact el_mod g d n l j

/-- Each XLI reads the lane and sub-element of the table (R308). -/
theorem xli_meaning {i : Instr} {w : Width} {d a : GReg} {src : Nat → Nat → Nat → Nat × Nat}
    (h : xli i = some (w, d, a, src)) :
    ∃ from_, (∀ s, exec i s = compute i s fun g => g.laneXli w d a from_)
      ∧ ∀ l j, from_ l j = src (64 / Width.bits w) l j := by
  unfold xli at h
  split at h <;> cases h
  next k sb => exact ⟨_, fun s => exec_xliBfly s w d a k sb, fun _ _ => rfl⟩
  next k sb => exact ⟨_, fun s => exec_xliBcast s w d a k sb, fun _ _ => rfl⟩
  next k sb =>
    refine ⟨_, fun s => exec_xliRotup s w d a k sb, fun l j => ?_⟩
    have hm : 0 < 32 * (64 / Width.bits w) := by cases w <;> decide
    have hlt := Nat.mod_lt (k.val * (64 / Width.bits w) + sb.val) hm
    simp only [turned, Nat.add_sub_assoc hlt.le]
  next k sb =>
    refine ⟨_, fun s => exec_xliRotdn s w d a k sb, fun l j => ?_⟩
    simp only [turned, Nat.add_assoc]

theorem laneXli_only (g : Group) (w : Width) (d a : GReg) (from_ : Nat → Nat → Nat × Nat) :
    OnlyReg g (g.laneXli w d a from_) d fun l v => ∀ j < 64 / Width.bits w,
      (lends g a (from_ l j).1 → sub v (Width.bits w) j = el g a (Width.bits w) (from_ l j).1 (from_ l j).2)
        ∧ (¬lends g a (from_ l j).1 → sub v (Width.bits w) j = 0) :=
  (laneJoined_only g w d _).mono fun _ _ h j hj => srcSub_getD g a (Nat.zero_mod _) (h j hj)

/-- Each quad instruction reads the lane of the table (R309). -/
theorem quads_meaning {i : Instr} {d a : GReg} {src : Nat → Nat} (h : quads i = some (d, a, src)) (s : State) :
    exec i s = compute i s fun g => g.laneQuad d a src := by
  unfold quads at h
  split at h <;> cases h
  · exact exec_qxh s d a
  · exact exec_qxv s d a
  · exact exec_qxd s d a
  · exact exec_qbc0 s d a
  · exact exec_qbc1 s d a
  · exact exec_qbc2 s d a
  · exact exec_qbc3 s d a

theorem dw_el (g : Group) (a : GReg) (k : Nat) : dw (el g a 64 k 0) = g.readR a k := by
  simp only [dw, el, sub, Nat.mul_zero, Nat.pow_zero, Nat.div_one, Nat.mod_eq_of_lt (BitVec.isLt _), BitVec.ofNat_toNat,
    BitVec.setWidth_eq]

theorem laneQuad_only (g : Group) (d a : GReg) (src : Nat → Nat) :
    OnlyReg g (g.laneQuad d a src) d fun l v =>
      (lends g a (l / 4 * 4 + src (l % 4)) → v = g.readR a (l / 4 * 4 + src (l % 4)))
        ∧ (¬lends g a (l / 4 * 4 + src (l % 4)) → v = 0) := by
  refine (laneResult_only g d _).mono fun l v h => ⟨fun hk => ?_, fun hk => ?_⟩
  · rw [h, srcSub_of_lends 64 0 hk, Option.getD_some, dw_el]
  · rw [h, srcSub_of_not_lends 64 0 hk]
    rfl

/-! Votes (R310). -/

theorem lt_of_isMember {g : Group} {l : Nat} (h : g.isMember l = true) : l < 32 := BitVec.lt_of_getLsbD h

theorem voters_eq (g : Group) (a : PReg) :
    g.voters a = (List.range 32).filter fun l => g.isMember l && (g.readP a l).getLsbD 0 := by
  simp only [Group.voters, lanesOf, lanes, List.filter_filter, Bool.and_comm, Group.isMember]

theorem mem_voters {g : Group} {a : PReg} {l : Nat} : l ∈ g.voters a ↔ votes g a l := by
  rw [voters_eq, List.mem_filter, Bool.and_eq_true, List.mem_range]
  exact and_iff_right_of_imp fun h => lt_of_isMember h.1

theorem vany_value (g : Group) (a : PReg) :
    ((∃ l < 32, votes g a l) → (if (g.voters a).isEmpty then 0 else 255 : BitVec 8) = 255)
      ∧ ((∀ l < 32, ¬votes g a l) → (if (g.voters a).isEmpty then 0 else 255 : BitVec 8) = 0) := by
  have hnone : (g.voters a).isEmpty = true ↔ ∀ l, ¬votes g a l := by
    simp only [List.isEmpty_iff, List.eq_nil_iff_forall_not_mem, mem_voters]
  exact ⟨fun ⟨l, _, hv⟩ => if_neg fun h => hnone.mp h l hv,
    fun h => if_pos (hnone.mpr fun l hv => h l (lt_of_isMember hv.1) hv)⟩

theorem vall_value (g : Group) (a : PReg) :
    ((∀ l < 32, g.isMember l = true → votes g a l) →
        (if (g.voters a).length = (lanesOf g.members).length then 255 else 0 : BitVec 8) = 255)
      ∧ ((∃ l < 32, g.isMember l = true ∧ ¬votes g a l) →
        (if (g.voters a).length = (lanesOf g.members).length then 255 else 0 : BitVec 8) = 0) := by
  have hall : (g.voters a).length = (lanesOf g.members).length ↔
      ∀ l ∈ lanesOf g.members, (g.readP a l).getLsbD 0 = true :=
    List.length_filter_eq_length_iff
  refine ⟨fun h => if_pos (hall.mpr fun l hl => ?_), fun ⟨l, hl, hm, hv⟩ => if_neg fun h => hv ⟨hm, ?_⟩⟩
  · obtain ⟨hlt, hm⟩ := mem_lanesOf.mp hl
    exact (h l hlt hm).2
  · exact hall.mp h l (mem_lanesOf.mpr ⟨hl, hm⟩)

theorem vbal_bit (g : Group) (a : PReg) {k : Nat} (hk : k < 64) :
    bit (dw (maskOf fun l => (g.voters a).contains l).toNat) k = true ↔ votes g a k := by
  rw [bit, dw, BitVec.getLsbD_ofNat, BitVec.testBit_toNat, maskOf_getLsbD]
  simp only [hk, decide_true, Bool.true_and, Bool.and_eq_true, decide_eq_true_eq, List.contains_iff_mem, mem_voters]
  exact and_iff_right_of_imp fun h => lt_of_isMember h.1

theorem vfirst_value (g : Group) (a : PReg) :
    (∀ k < 32, votes g a k → (∀ m < k, ¬votes g a m) → dw ((g.voters a).head?.getD 32) = dw k)
      ∧ ((∀ k < 32, ¬votes g a k) → dw ((g.voters a).head?.getD 32) = 32) := by
  refine ⟨fun k hk hv hfirst => ?_, fun h => ?_⟩
  · have hhead : (g.voters a).head? = some k := by
      rw [voters_eq, List.head?_filter, List.find?_range_eq_some]
      refine ⟨Bool.and_eq_true_iff.mpr hv, List.mem_range.mpr hk, fun m hm => ?_⟩
      rw [Bool.not_eq_true', ← Bool.not_eq_true, Bool.and_eq_true]
      exact hfirst m hm
    rw [hhead, Option.getD_some]
  · have hnil : g.voters a = [] := List.eq_nil_iff_forall_not_mem.mpr fun l hl =>
      h l (lt_of_isMember (mem_voters.mp hl).1) (mem_voters.mp hl)
    rw [hnil]
    rfl

theorem mbcnt_value (g : Group) (a : GReg) (l : Nat) :
    popCount 32 ((g.readR a l).toNat % 2 ^ 32 &&& g.members.toNat &&& (2 ^ l - 1)) =
      ((List.range 32).filter fun k => decide (k < l) && bit (g.readR a l) k && g.isMember k).length := by
  rw [popCount_eq]
  congr 1
  refine List.filter_congr fun k hk => ?_
  have hk32 := List.mem_range.mp hk
  rw [Nat.testBit_and, Nat.testBit_and, Nat.testBit_mod_two_pow, Nat.testBit_two_pow_sub_one, BitVec.testBit_toNat,
    BitVec.testBit_toNat, decide_eq_true hk32, Bool.true_and, bit, Group.isMember, Bool.and_comm, Bool.and_assoc]

end Sys2Proof.Proofs
end

section
/-! PROOFS. The statements of the computing instructions (R286 to R296, R304, R306 to R310), put together: an instruction
that issues completes with what its meaning makes of the group, and that is what the tables of rules say. -/

namespace Sys2Proof.Proofs

open Sys2Proof.Machine Sys2Proof.Rules

/-- Settles O1: each table's instruction is one function of its operands, and the layouts agree with the decoder. -/
theorem integerResults : Obligations.IntegerResults := by
  refine ⟨fun i w d a b rule s s1 g blk hr hi => ?_, fun i w d a b rule s s1 g blk hr hi => ?_,
    fun i d a b rule s s1 g blk hr hi => ?_, fun i n m d a b t carry s s1 g blk hr hi => ?_, laid_integer⟩
  · obtain ⟨f, hx, hf⟩ := arith_meaning hr
    refine ⟨_, compute_completes hi (hx s), (laneInt_only g w d a b f).mono fun l v h j hj => ?_⟩
    have hrule := hf _ _ _ (sub_lt (g.readR a l) _ j) (sub_lt (g.readR b l) _ j) (sub_lt (g.readR d l) _ j)
    rwa [← h j hj] at hrule
  · obtain ⟨f, hx, hf⟩ := bitwise_meaning hr
    refine ⟨_, compute_completes hi (hx s), (laneInt_only g w d a b f).mono fun l v h j hj k hk => ?_⟩
    change (sub v (Width.bits w) j).testBit k = _
    rw [h j hj, Nat.testBit_mod_two_pow, decide_eq_true hk, Bool.true_and]
    exact hf _ _ _ (sub_lt _ _ _) (sub_lt _ _ _) k hk
  · obtain ⟨f, hx, hf⟩ := dwords_meaning hr
    exact ⟨_, compute_completes hi (hx s), (laneResult_only g d (f g)).mono fun l v h => h ▸ hf g l⟩
  · obtain ⟨v, p, hx, hc⟩ := carrying_meaning hr
    obtain ⟨hsh, hw, hp, hk⟩ := writeWithCarry_wrote g d (v g) (p g)
    refine ⟨_, compute_completes hi (hx s), hsh, ⟨hw.mono fun l x h => h ▸ (hc g l).value, fun l hl => ?_⟩, hk⟩
    rw [hp l hl]
    exact (hc g l).carry

/-- Settles O2: each compare joins its results into the predicate bit by bit, and FSET and FSETS raise NV as they do. -/
theorem comparisons : Obligations.Comparisons := by
  refine ⟨fun c cb w pd a b s s1 g blk hi => ?_, fun c cb f pd a b loud i s s1 g blk he hi => ?_, laid_compare⟩
  · refine ⟨_, compute_completes hi (exec_iset s c cb w pd a b), (laneResultP_only g pd _).mono fun l v h j hj => ?_⟩
    rw [h]
    exact predBits_joins cb _ _ (fun j => icond_iff c _ _ _) hj
  · subst he
    obtain ⟨hw, hfl, hframe⟩ := lanesCompare_wrote g loud c cb f pd a b
    have hnv (l : Nat) := orFlags_invalid (64 / fpBits f) fun j =>
      trips loud f (ftzIn f (fmtFtz g.fmt) (el g a (fpBits f) l j)) (ftzIn f (fmtFtz g.fmt) (el g b (fpBits f) l j))
    refine ⟨_, compute_completes hi (exec_compare loud c cb f pd a b s),
      ⟨wrotePred_mono hw fun l v h j hj => ?_, ?_⟩, hframe⟩
    · rw [h]
      exact predBits_joins cb _ _ (fun j => fpCompare_iff c f _ loud _ _) hj
    · simp only [← hnv]
      exact hfl

/-- Settles O3: each PLOG instruction computes its function on all eight bits. -/
theorem predicateLogic : Obligations.PredicateLogic := by
  refine ⟨fun i d a b f s s1 g blk hr hi => ?_, laid_predicate⟩
  obtain ⟨p, hx, hp⟩ := plog_meaning hr
  exact ⟨_, compute_completes hi (hx s), (laneResultP_only g d (p g)).mono fun l v h => h ▸ hp g l⟩

/-- Settles O7: a lane reads what its source lends, and a vote is a function of the members' predicates. -/
theorem laneExchanges : Obligations.LaneExchanges := by
  refine ⟨⟨fun keep w d a b s s1 g blk hi => ?_, fun i w d a src s s1 g blk hr hi => ?_,
      fun i d a src s s1 g blk hr hi => ?_⟩,
    ⟨fun d a s s1 g blk hi => ?_, fun d a s s1 g blk hi => ?_, fun d a s s1 g blk hi => ?_, fun d a s s1 g blk hi => ?_,
      fun d a s s1 g blk hi => ?_⟩, laid_cross⟩
  · exact ⟨_, compute_completes hi (exec_xln s keep w d a b), xln_only g keep w d a b⟩
  · obtain ⟨from_, hx, hfrom⟩ := xli_meaning hr
    refine ⟨_, compute_completes hi (hx s), (laneXli_only g w d a from_).mono fun l v h j hj => ?_⟩
    have hj := h j hj
    rwa [hfrom] at hj
  · exact ⟨_, compute_completes hi (quads_meaning hr s), laneQuad_only g d a src⟩
  · exact ⟨_, compute_completes hi (exec_vany s d a), (laneResultP_only g d _).mono fun l v h => h ▸ vany_value g a⟩
  · exact ⟨_, compute_completes hi (exec_vall s d a), (laneResultP_only g d _).mono fun l v h => h ▸ vall_value g a⟩
  · exact ⟨_, compute_completes hi (exec_vbal s d a), (laneResult_only g d _).mono fun l v h k hk =>
      h ▸ vbal_bit g a hk⟩
  · exact ⟨_, compute_completes hi (exec_vfirst s d a), (laneResult_only g d _).mono fun l v h =>
      h ▸ vfirst_value g a⟩
  · exact ⟨_, compute_completes hi (exec_mbcnt s d a), (laneResult_only g d _).mono fun l v h =>
      h.trans (congrArg dw (mbcnt_value g a l))⟩

end Sys2Proof.Proofs
end
